-- ==== Sys2Proof/Word.lean ====
section
/-! DEFINITION. The word types of the VZ16 and its few index types (spec/00_scope.md R5, R6; spec/01 R11). -/
namespace Sys2Proof

/-- A byte of device memory or of a frame. -/
abbrev Byte := BitVec 8
/-- A 64-bit control-space register, instruction word, parameter word or scalar integer register (R6, R121). -/
abbrev W64 := BitVec 64
/-- The 32-bit encoding of an FP32 value (R31, code 0x0). -/
abbrev F32 := BitVec 32
/-- A 48-bit device address (R145). -/
abbrev Addr := BitVec 48
/-- An IP address, IPv6 or IPv4-mapped (R301); byte 0 is the most significant. -/
abbrev Ip := BitVec 128
/-- A MAC address (R301). -/
abbrev Mac := BitVec 48
/-- A partition P0 to P15 (R11). -/
abbrev PartId := Fin 16
/-- A tenant 0 to 15 (R378). -/
abbrev TenantId := Fin 16

/-- A status code of R368. -/
abbrev Status := BitVec 8

end Sys2Proof
end

