-- ==== Sys2Proof/Config.lean ====
section
/-! DEFINITION. What the specification leaves to an implementation or leaves open, as constants without a body
(log entries 1 to 6): no proof can see their values, so a claim holds whatever they are. -/
namespace Sys2Proof.Config

/-- A value the specification does not state, drawn by the count of values drawn so far (log entry 1). -/
opaque freeWord : Nat → BitVec 64

/-- A built-in special function of R99: how many FP32 values a table's result lies from the correctly rounded one, before the stated bound is
applied; `builtin image code derivative x`, where `image` numbers the partition's loaded built-in tables (R102, R433). The specification bounds
the error and gives no table values (log entry 2). -/
opaque builtin : Nat → Nat → Bool → BitVec 32 → Int

/-- The error of RSQRT of an update unit (R185), in ulp, before it is bounded (log entry 2). -/
opaque ulpError : BitVec 32 → Int

/-- The code of a NaN element of a blocked format whose elements have no NaN (R31, R34, R37), by format (log entry 122). -/
opaque nanElem : BitVec 4 → BitVec 8

/-- The INT32 operation that VIOP's IMM[7:0] selects (R123 gives no codes), on the three operands (log entry 4). -/
opaque viop : BitVec 8 → BitVec 32 → BitVec 32 → BitVec 32 → BitVec 32

/-- The result of the FALU comparison (R124 gives no predicate and no result form), on its two operands (log entry 5). -/
opaque faluCompare : BitVec 32 → BitVec 32 → BitVec 64

/-- SHAKE256 with a 64-byte result (R387, R389): named by the specification, its text lies outside it (log entry 3). -/
opaque shake256 : List (BitVec 8) → List (BitVec 8)

/-- Falcon-1024 verification of a signature over a 64-byte digest: `falconVerify key digest signature` (R387, R391). -/
opaque falconVerify : List (BitVec 8) → List (BitVec 8) → List (BitVec 8) → Bool

/-- Falcon-1024 signing: `falconSign secret digest` (R390, R392). -/
opaque falconSign : List (BitVec 8) → List (BitVec 8) → List (BitVec 8)

/-- The public key that Falcon-1024 key generation derives from a seed (R390). -/
opaque falconPublic : List (BitVec 8) → List (BitVec 8)

/-- GCM-AES-256 (R310): `gcmSeal key iv associated content` is the protected content followed by the integrity check value. -/
opaque gcmSeal : List (BitVec 8) → List (BitVec 8) → List (BitVec 8) → List (BitVec 8) → List (BitVec 8)

/-- The offset and length of image `k` of a bank, as the bank's directory gives them (R423 states no layout of the directory); `none`
where the directory is invalid. `k` is 0 stage 1, 1 management firmware, 2 partition firmware, 3 microcode, 4 Ethernet firmware. -/
opaque bankImage : (Nat → BitVec 8) → Nat → Option (Nat × Nat)

/-- The code section of a partition firmware image (R432, R433), whose place in the image is not stated. -/
opaque codeSection : List (BitVec 8) → List (BitVec 8)

/-- The entry point of a partition firmware image (R109), as an offset in the first 64 KiB of scalar local memory. -/
opaque entryPoint : List (BitVec 8) → BitVec 16

/-- The CDI that the alias key's seed contains, derived from the UDS in a way the specification does not state (R390). -/
opaque cdi : List (BitVec 8) → List (BitVec 8)

/-- The digest of the boot ROM's plinth program (R428). -/
opaque plinthDigest : List (BitVec 8)

/-- Verification of the vendor's signature in a claim (R391): which vendor key verifies it is not stated beyond the two key hashes and
the revocation bits. `vendorVerify hash0 hash1 revoke digest signature`. -/
opaque vendorVerify : List (BitVec 8) → List (BitVec 8) → BitVec 2 → List (BitVec 8) → List (BitVec 8) → Bool

/-- The configuration record of the flash (R423): register offsets and the values they take, `none` where neither copy is valid. The
record's layout is not stated. -/
opaque configRecord : (Nat → BitVec 8) → Option (List (Nat × BitVec 64))

/-- The straps SMB_ADDR1 and SMB_ADDR0 that the carrier ties (R458, R459). -/
opaque smbStrap : BitVec 2

end Sys2Proof.Config
end

