-- ==== Sys2Proof/Syntax.lean ====
section
/-! DEFINITION. The commands of the VZ16: one constructor of `Instr` per row of the table of operations and events
(spec/opcode_table.json, spec/95), with the operands the row's rule names. A Limia instruction carries the fields of its
word (R121); a register operation carries the agent (R440) and the value written; a Paldal operation carries the fields of
its header that later rules read and its payload bytes (R320, R322); an event carries where it happens and, where the event
is a measurement or a physical outcome, what was measured. -/
namespace Sys2Proof

/-- The F, B and U sequencers of a partition (R117). -/
inductive Seq where
  | f | b | u
deriving DecidableEq, Repr

/-- The four issue ports of a partition (R117); the scalar issue port with the core whose port queue it takes (R111). -/
inductive Port where
  | f | b | u
  | s (core : Fin 6)
deriving DecidableEq, Repr

/-- The agents that reach control space (R440). -/
inductive Agent where
  | owner
  | mgmtFw
  | partFw (p : PartId)
  | tenantCode (p : PartId)
deriving DecidableEq, Repr

/-- Layout T of R121. `w1` is the second word, read when `x` is set. -/
structure TWord where
  x : Bool
  mod : BitVec 7
  d : BitVec 8
  s1 : BitVec 8
  s2 : BitVec 8
  s3 : BitVec 8
  imm : BitVec 16
  w1 : W64
deriving DecidableEq, Repr

/-- Layout S of R121. -/
structure SWord where
  x : Bool
  mod : BitVec 5
  ctr : BitVec 9
  rsv : BitVec 9
  value : BitVec 32
  w1 : W64
deriving DecidableEq, Repr

/-- Layout C of R121. -/
structure CWord where
  x : Bool
  mod : BitVec 7
  rsv : BitVec 12
  pw : BitVec 4
  imm : BitVec 32
  w1 : W64
deriving DecidableEq, Repr

/-- Layout K of R121. -/
structure KWord where
  x : Bool
  rd : BitVec 5
  rs1 : BitVec 5
  rs2 : BitVec 5
  func : BitVec 8
  imm : BitVec 32
  w1 : W64
deriving DecidableEq, Repr

/-- A Paldal request that has passed the checks of R332 up to its own (R320, R322). `flow` is this module's flow number,
`src` the far endpoint's IP address. -/
structure Req where
  flow : Nat
  tenant : TenantId
  part : PartId
  srcPart : BitVec 4
  mgmt : Bool
  src : Ip
  seq : BitVec 32
  qw : BitVec 14
  armEp : BitVec 32
  layEp : BitVec 32
  payload : List Byte
deriving DecidableEq, Repr

/-- The word of an SMBus word write, with the packet error code that the host sends, if it sends one (R459). -/
structure SmbWord where
  word : BitVec 16
  pec : Option Byte
deriving DecidableEq, Repr

/-- An acknowledgement (R326); `rtt` is the sender's own measured delay of the echoed sequence, in Ethernet cycles (R331). -/
structure AckMsg where
  flow : Nat
  ackv : Bool
  cumAck : BitVec 32
  rst : Bool
  isOpen : Bool
  limit : BitVec 32
  echo : BitVec 32
  peerFlow : BitVec 16
  peerGen : BitVec 12
  status : Status
  sacks : List (BitVec 32 × BitVec 32)
  credits : List (BitVec 12 × BitVec 16 × BitVec 32)
  armEp : BitVec 32
  rtt : Nat
deriving DecidableEq, Repr

/-- A NACK (R322). -/
structure NackMsg where
  flow : Nat
  reqSeq : BitVec 32
  status : Status
  reqOpcode : BitVec 8
  curGen : BitVec 12
  detail : BitVec 32
deriving DecidableEq, Repr

/-- The SecTAG of a received frame and the bytes its integrity check covers (R310, R311). -/
structure SecTag where
  sci : BitVec 64
  an : Fin 4
  pn : Nat
  protectedBytes : List Byte
deriving DecidableEq, Repr

/-- The IP header of a frame: `ok` holds when no condition of check 11 of R302 applies beside the header checksum; `rest` is the type of
service, identification and don't-fragment bit, or the traffic class and flow label, `none` until the island fills them in; `sum` is the IPv4
header checksum (R303). -/
structure IpHdr where
  v6 : Bool
  ok : Bool
  src : Ip
  dst : Ip
  ttl : Nat
  proto : BitVec 8
  rest : Option (BitVec 32)
  sum : BitVec 16
deriving DecidableEq, Repr

/-- The UDP header of a frame: `ok` holds when its length is consistent (check 14 of R302); `sum` is its checksum (R303). -/
structure UdpHdr where
  ok : Bool
  sport : BitVec 16
  dport : BitVec 16
  sum : BitVec 16
deriving DecidableEq, Repr

/-- A frame as its last byte arrives at, or waits to leave, a logical MAC (R300, R302): the fields the checks read and the
bytes of the UDP payload. Of an arriving frame, `fecBad` says whether it overlaps an uncorrectable codeword, `fecCorr` and `fecUncorr` how many
codewords were corrected and not corrected since the frame before (R299, R314), and `buffered` how many bytes earlier frames still hold of its
class's share of the receive buffer (R306). -/
structure Frame where
  mac : Fin 8
  fecBad : Bool
  fecCorr : Nat
  fecUncorr : Nat
  buffered : Nat
  length : Nat
  fcsOk : Bool
  dst : Mac
  src : Mac
  tag : Option (BitVec 12 × BitVec 3)
  sec : Option SecTag
  etherType : BitVec 16
  macCtl : BitVec 16
  pauseTimes : List (BitVec 16)
  ip : Option IpHdr
  udp : Option UdpHdr
  payload : List Byte
deriving DecidableEq, Repr

/-- What the patrol scrubber finds in a bonded SRAM word (R163). -/
inductive EccFinding where
  | clean | correctable | uncorrectable
deriving DecidableEq, Repr

/-- The four kinds of unit that have a progress watchdog of R401. -/
inductive UnitKind where
  | array (a : Fin 2)
  | vector
  | move
  | update (c : Fin 4)
deriving DecidableEq, Repr

/-- Where an internal check fails (R136, R402): a unit's instruction of a port, a collective of the engine, or the partition's logic. -/
inductive CheckSite where
  | unitInstr (u : UnitKind) (q : Port)
  | collective (n : Nat)
  | partitionLogic
deriving DecidableEq, Repr

/-- The sensors of R465. -/
inductive Sensor where
  | die | dram | inlet
deriving DecidableEq, Repr

/-- The three registers of a tenant table entry (R378). -/
inductive TenReg where
  | cfg | lif | lim
deriving DecidableEq, Repr

/-- The commands: one constructor per row of spec/opcode_table.json, in the table's order. -/
inductive Instr where
  -- stream control and synchronisation (R123, R128 to R133)
  | nop (p : PartId) (q : Seq) (w : CWord)
  | halt (p : PartId) (q : Seq) (w : CWord)
  | br (p : PartId) (q : Seq) (w : CWord)
  | loop (p : PartId) (q : Seq) (w : CWord)
  | endl (p : PartId) (q : Seq) (w : CWord)
  | setpw (p : PartId) (q : Port) (w : CWord)
  | setstep (p : PartId) (q : Port) (w : CWord)
  | setepoch (p : PartId) (q : Port) (w : CWord)
  | dload (p : PartId) (q : Port) (w : TWord)
  | dstep (p : PartId) (q : Port) (w : TWord)
  | wait (p : PartId) (q : Seq) (w : SWord)
  | waitPass (p : PartId) (q : Seq)
  | post (p : PartId) (q : Port) (w : SWord)
  | postTakesEffect (p : PartId) (q : Port)
  | remotePostArrive (p : PartId) (ctr : BitVec 9) (amount : BitVec 32)
  | cset (p : PartId) (q : Port) (w : SWord)
  -- matrix (R68)
  | mmul (p : PartId) (q : Port) (w : TWord)
  | mmulh (p : PartId) (q : Port) (w : TWord)
  -- vector (R81 to R108, R472)
  | vadd (p : PartId) (q : Port) (w : TWord)
  | vsub (p : PartId) (q : Port) (w : TWord)
  | vmul (p : PartId) (q : Port) (w : TWord)
  | vfma (p : PartId) (q : Port) (w : TWord)
  | vmin (p : PartId) (q : Port) (w : TWord)
  | vmax (p : PartId) (q : Port) (w : TWord)
  | vcmp (p : PartId) (q : Port) (w : TWord)
  | vsel (p : PartId) (q : Port) (w : TWord)
  | vdiv (p : PartId) (q : Port) (w : TWord)
  | vsqrt (p : PartId) (q : Port) (w : TWord)
  | viop (p : PartId) (q : Port) (w : TWord)
  | vsf (p : PartId) (q : Port) (w : TWord)
  | vsfd (p : PartId) (q : Port) (w : TWord)
  | sfload (p : PartId) (q : Port) (w : TWord)
  | vred (p : PartId) (q : Port) (w : TWord)
  | vcvt (p : PartId) (q : Port) (w : TWord)
  | vtkmerge (p : PartId) (q : Port) (w : TWord)
  | vacc (p : PartId) (q : Port) (w : TWord)
  | vaccTile (p : PartId) (input : Fin 2)
  | vectorSegment (p : PartId)
  | vsmxStep (p : PartId) (q : Port) (w : TWord)
  | vsmxEnd (p : PartId) (q : Port) (w : TWord)
  | vsmxBwd (p : PartId) (q : Port) (w : TWord)
  | vpool (p : PartId) (q : Port) (w : TWord)
  | vunpool (p : PartId) (q : Port) (w : TWord)
  -- move (R473 to R476)
  | move (p : PartId) (q : Port) (w : TWord)
  | mfill (p : PartId) (q : Port) (w : TWord)
  | mgather (p : PartId) (q : Port) (w : TWord)
  | mscatter (p : PartId) (q : Port) (w : TWord)
  | mput (p : PartId) (q : Port) (w : TWord)
  | mget (p : PartId) (q : Port) (w : TWord)
  -- collectives (R214)
  | crs (p : PartId) (q : Port) (w : TWord)
  | cag (p : PartId) (q : Port) (w : TWord)
  | car (p : PartId) (q : Port) (w : TWord)
  | ca2a (p : PartId) (q : Port) (w : TWord)
  | cbc (p : PartId) (q : Port) (w : TWord)
  | crsh (p : PartId) (q : Port) (w : TWord)
  | ckv (p : PartId) (q : Port) (w : TWord)
  -- update units (R190 to R206)
  | upd (p : PartId) (q : Port) (w : TWord)
  | uroute (p : PartId) (q : Port) (w : TWord)
  | uload (p : PartId) (q : Port) (w : TWord)
  | uscal (p : PartId) (q : Port) (w : TWord)
  -- scalar class (R124)
  | ialu (p : PartId) (core : Fin 6) (w : KWord)
  | ialui (p : PartId) (core : Fin 6) (w : KWord)
  | falu (p : PartId) (core : Fin 6) (w : KWord)
  | li (p : PartId) (core : Fin 6) (w : KWord)
  | ld (p : PartId) (core : Fin 6) (w : KWord)
  | st (p : PartId) (core : Fin 6) (w : KWord)
  | bcc (p : PartId) (core : Fin 6) (w : KWord)
  | jal (p : PartId) (core : Fin 6) (w : KWord)
  | jalr (p : PartId) (core : Fin 6) (w : KWord)
  | amo (p : PartId) (core : Fin 6) (w : KWord)
  | swait (p : PartId) (core : Fin 6) (w : KWord)
  | swaitPass (p : PartId) (core : Fin 6)
  | fence (p : PartId) (core : Fin 6) (w : KWord)
  | ctlr (p : PartId) (core : Fin 6) (w : KWord)
  | ctlw (p : PartId) (core : Fin 6) (w : KWord)
  | issr (p : PartId) (core : Fin 6) (w : KWord)
  | release (p : PartId) (core : Fin 6) (w : KWord)
  -- array, working-shard and collective events
  | pairStart (p : PartId)
  | drain (p : PartId) (a : Fin 2)
  | wsbWriteStart (p : PartId) (e : Fin 64)
  | wsbFillComplete (p : PartId) (e : Fin 64)
  | gradSlotWrite (p : PartId) (c : Fin 4)
  | collSeg (r : Req)
  | heldSegmentRelease (n : Nat)
  | cagSourceReady (n : Nat)
  | collComplete (n : Nat)
  | crshStart (n : Nat)
  | kvBlock (r : Req)
  | ckvRotationSend (n : Nat)
  | ckvSlotFree (n : Nat)
  | collWatchdogExpire (n : Nat)
  -- sequencer and partition registers
  | seqStart (a : Agent) (p : PartId) (q : Seq)
  | seqHaltReq (a : Agent) (p : PartId) (q : Seq)
  | seqFaultClear (a : Agent) (p : PartId) (q : Seq)
  | seqPcWrite (a : Agent) (p : PartId) (q : Seq) (v : W64)
  | syncCntWrite (a : Agent) (p : PartId) (n : Fin 512) (v : W64)
  | memPinWrite (a : Agent) (p : PartId) (v : W64)
  | wsbConfigWrite (a : Agent) (p : PartId) (e : Fin 64) (ctrl : Bool) (v : W64)
  | wsbRefadj (a : Agent) (p : PartId) (e : Fin 64) (v : W64)
  | memTrainReq (a : Agent) (p : PartId) (v : W64)
  | retrainDone (p : PartId) (c : Fin 4) (cycles : Nat)
  | retrainAbandon (p : PartId) (c : Fin 4)
  | updOpenClear (a : Agent) (p : PartId) (c : Fin 4)
  | updFaultClear (a : Agent) (p : PartId) (c : Fin 4)
  | updWatchWrite (a : Agent) (p : PartId) (v : W64)
  | armInstallGo (a : Agent) (p : PartId) (v : W64)
  | armInstallApply (t : TenantId)
  | collNoiseWrite (a : Agent) (p : PartId) (v : W64)
  | mbPolicyWrite (a : Agent) (p : PartId) (v : W64)
  | plogRingWrite (a : Agent) (p : PartId) (mirror : Bool) (v : W64)
  | plogHeadWrite (a : Agent) (p : PartId) (v : W64)
  | plogRefusedClear (a : Agent) (p : PartId) (v : W64)
  | restoreGo (a : Agent) (p : PartId) (v : W64)
  | maqGo (a : Agent) (p : PartId) (v : W64)
  | queueLoad (a : Agent) (p : PartId) (v : W64)
  | queueDisable (a : Agent) (p : PartId) (v : W64)
  | queueReenable (a : Agent) (p : PartId) (v : W64)
  | ciWrite (a : Agent) (p : PartId) (q : Fin 1024) (v : W64)
  | qretire (a : Agent) (p : PartId) (v : W64)
  | mboxRegWrite (a : Agent) (k : Fin 320) (v : W64)
  | mboxRegRead (a : Agent) (k : Fin 320)
  | prstReq (a : Agent) (p : PartId) (v : W64)
  | prstHeartbeat (a : Agent) (p : PartId)
  | prstReady (a : Agent) (p : PartId)
  | wdogCfgWrite (a : Agent) (p : PartId) (v : W64)
  -- shared-block registers
  | rubExpEnable (a : Agent) (t : TenantId) (v : W64)
  | jrnExportEnable (a : Agent) (v : W64)
  | tenantTableWrite (a : Agent) (t : TenantId) (r : TenReg) (v : W64)
  | scrubComplete (p : PartId)
  | tenantProvision (a : Agent) (t : TenantId)
  | dbgOpen (a : Agent)
  | dbgClose (a : Agent)
  | debugLimitExpire
  | fwProgram (a : Agent) (v : W64)
  | fwVerify (a : Agent) (v : W64)
  | fwActivate (a : Agent) (v : W64)
  | handoverTrialExpire
  | microcodeSwap (p : PartId)
  | microcodeSwapTimeout (p : PartId)
  | fwTables (a : Agent) (v : W64)
  | fwCommit (a : Agent) (v : W64)
  | fwSvn (a : Agent) (v : W64)
  | fwPlinth (a : Agent) (v : W64)
  | fwExit (a : Agent) (v : W64)
  | fwDiag (a : Agent) (v : W64) (errors : BitVec 32)
  | bootOkWrite (a : Agent)
  | healthyWrite (a : Agent)
  | serdesReq (a : Agent) (v : W64)
  | serdesAdaptDone (lane : Fin 8) (ok : Bool) (micros : Nat)
  | msecCommit (a : Agent)
  | ethPortCfgWrite (a : Agent) (v : W64)
  | ethMacCfgWrite (a : Agent) (m : Fin 8) (v : W64)
  | ethInjWrite (a : Agent) (m : Fin 8) (v : W64)
  | tpInjWrite (a : Agent) (n : Fin 4) (v : W64)
  | lifCfgWrite (a : Agent) (k : Fin 128) (macReg : Bool) (v : W64)
  | winCtrlWrite (a : Agent) (t : TenantId) (w : Fin 64) (v : W64)
  | rlyCfgWrite (a : Agent) (k : Fin 64) (v : W64)
  | pwrCapWrite (a : Agent) (v : W64)
  | indCtrlWrite (a : Agent) (v : W64)
  | alertCtrlWrite (a : Agent) (v : W64)
  | regWriteGeneric (a : Agent) (off : BitVec 21) (v : W64)
  | rcRead (a : Agent) (off : BitVec 21)
  -- Paldal operations
  | enqueue (r : Req)
  | doorbell (r : Req)
  | mboxWrite (r : Req)
  | mboxRead (r : Req)
  | winRead (r : Req)
  | winWrite (r : Req)
  | regRead (r : Req)
  | regWrite (r : Req)
  | journalRead (r : Req)
  | completeWindowClose (p : PartId) (q : Fin 1024)
  | attestReport (r : Req)
  | attestOwnerResponse (r : Req)
  | attestClaim (r : Req)
  | attestRotation (r : Req)
  | attestIdentityCert (r : Req)
  | faultReport (r : Req)
  | close (r : Req)
  | ack (m : AckMsg)
  | nack (m : NackMsg)
  | retransmitTimeout (flow : Nat)
  | ackDelayExpire (flow : Nat)
  | flowIdleClose (flow : Nat)
  | ccBaseRestart (flow : Nat)
  -- the Ethernet port
  | ethRxFrame (fr : Frame)
  | arpRequest (k : Fin 128) (senderMac : Mac) (senderIp : Ip)
  | neighborSolicitation (k : Fin 128) (senderMac : Mac) (senderIp : Ip)
  | echoRequest (k : Fin 128) (senderMac : Mac) (senderIp : Ip) (data : List Byte)
  | lldpReceive (m : Fin 8) (partnerRxTw : Nat)
  | lldpSend (m : Fin 8)
  | pauseReceive (m : Fin 8) (quanta : BitVec 16)
  | pauseTimerExpire (m : Fin 8)
  | pfcReceive (m : Fin 8) (enable : BitVec 8) (quanta : List (BitVec 16))
  | pfcTimerExpire (m : Fin 8) (cls : Fin 8)
  | pfcSend (m : Fin 8) (cls : Fin 8)
  | pfcRepeat (m : Fin 8) (cls : Fin 8)
  | ethTxPick (m : Fin 8)
  | lpiEnter (m : Fin 8)
  | lpiWake (m : Fin 8)
  | linkUp (m : Fin 8)
  | linkDown (m : Fin 8)
  | injReorderRelease (m : Fin 8)
  | tpInjReorderRelease (n : Fin 4)
  -- memory maintenance, watchdogs and resets
  | patrolScrub (p : PartId) (word : BitVec 24) (found : EccFinding)
  | driftCheck (p : PartId) (c : Fin 4)
  | seqWatchdogExpire (p : PartId) (q : Seq)
  | scalarWatchdogExpire (p : PartId) (core : Fin 6)
  | heartbeatExpire (p : PartId)
  | unitWatchdogExpire (p : PartId) (u : UnitKind) (q : Port)
  | unitHangExpire (p : PartId) (u : UnitKind)
  | mgmtCoreWatchdog (core : Fin 4)
  | fenceComplete (p : PartId)
  | rubbingSourceExpire (p : PartId)
  | rubbingBudgetExpire (p : PartId)
  | rubbingEnd (p : PartId)
  | resetRelease (p : PartId)
  | reintegrationExpire (p : PartId)
  | incidentSend (n : Fin 256)
  | incidentClose (n : Fin 256)
  -- supplies, boot, power and the sideband
  | standbyOn
  | standbyLoss
  | pwrEnAssert
  | pwrEnDeassert
  | vinFault (ovp : Bool)
  | modResetAssert (lowCycles : Nat)
  | moduleResetRelease
  | bootDeadlineExpire
  | plinthBreakoutTry
  | thermalTrip (s : Sensor)
  | powerControlPeriod (pin : BitVec 16) (vin : BitVec 16) (dieMax : BitVec 8) (dramMax : BitVec 8)
  | inletUpdate (inlet : BitVec 16)
  | smbStatus
  | smbReadVin
  | smbReadPin
  | smbReadInlet
  | smbReadDie
  | smbCap (write : Option SmbWord)
  | smbFruPtr (ptr : SmbWord)
  | smbFruRead
  | smbAlertResponse
  | supplyDroop (p : PartId) (cycles : Nat)
  | internalCheckFailure (p : PartId) (site : CheckSite)
  | oldestCommandWaitExpire (p : PartId) (q : Fin 1024)
  | partnerLowPowerIdle (m : Fin 8) (enter : Bool)
  | prbsError (m : Fin 8) (lane : Fin 8)
  | jtagAccess
deriving DecidableEq, Repr

end Sys2Proof
end

