-- ==== Sys2Proof/Machine/State.lean ====
section
/-! DEFINITION. The state of the VZ16 as plain data. Every control-space register (spec/18) has ONE home, the table `regs`
of `Dev`, keyed by its control-space offset and holding only entries that differ from the register's reset value
(Machine/Regs.lean gives each register's offset, fields, access codes and reset value). State that the specification gives
the machine without a register (descriptor tables, contexts, queues of the units, flows, groups, flash, fuses, pins) has
named fields. `State` keeps the fuses, the flash and the FRU area apart from the device, because few commands may change
them (R386, R423, R459). -/
namespace Sys2Proof.Machine

/-- Why a command can stop the machine (the specification gives no command that stops it: log entry 7). -/
inductive Fault where
  /-- Reserved for an access the specification calls impossible; raised by no meaning (safe). -/
  | impossibleAccess
deriving DecidableEq, Repr

/-- Why a command is refused. -/
inductive Refusal where
  /-- A command that has no meaning yet; raised by an arm of `exec` only (safe). -/
  | notModelled (mnemonic : String)
deriving DecidableEq, Repr

/-- A sparse table: pairs with strictly rising keys, none holding the table's default value (Machine/Ops.lean). -/
abbrev Tab (α : Type) := List (Nat × α)

/-- A tensor descriptor (R125), decoded; `size` and `stride` hold dimensions 0 to 3. -/
structure Desc where
  base : Nat
  scaleBase : Nat
  size : List Nat
  stride : List Int
  tensorId : BitVec 16
  layer : BitVec 10
  rank : Nat
  axis : Nat
  fmt : Nat
  kind : Nat
  valid : Bool
  wprot : Bool
  tagchk : Bool
  norec : Bool
  chpin : Bool
  indexBase : Nat
  reservedZero : Bool
deriving DecidableEq, Repr

/-- An open hardware loop: the address of its first body word and the rounds left (`none`: until halted) (R123). -/
structure Loop where
  start : Nat
  left : Option Nat
deriving DecidableEq, Repr

/-- The unit classes a POST can fence (R131). -/
inductive UCls where
  | matrix | vector | move | collective | update
deriving DecidableEq, Repr

/-- Bytes from `lo` to `hi - 1`. -/
structure Extent where
  lo : Nat
  hi : Nat
deriving DecidableEq, Repr

/-- An issued instruction that has not completed: its scoreboard entry (R134). -/
structure Flight where
  id : Nat
  cls : UCls
  pc : Nat
  reads : List Extent
  writes : List Extent
deriving DecidableEq, Repr

/-- A pending post (R131): `fence` holds the flights it still waits for, `remote` the target partition of a REMOTE post. -/
structure PendPost where
  ctr : BitVec 9
  amount : BitVec 32
  remote : Option PartId
  fence : List Nat
  pc : Nat
deriving DecidableEq, Repr

/-- A REMOTE post on its way over the mesh, with the generation tag of its sender (R132, R405). -/
structure MeshPost where
  src : PartId
  port : Port
  pc : Nat
  dst : PartId
  ctr : BitVec 9
  amount : BitVec 32
  gen : Nat
deriving DecidableEq, Repr

/-- The WAIT a stream is stopped at (R130): counter, threshold word, IND with its parameter word and increment. -/
structure WaitSt where
  ctr : BitVec 9
  value : BitVec 32
  ind : Bool
deriving DecidableEq, Repr

/-- What an issue port holds (R117), what it has in progress (R130, R131, R134), a HALT_REQ that waits
(R138), and the entry of an MMUL to array 0 whose partner may be the next word, with whether the shared extent fits (R172; a scalar core
holds its own). -/
@[ext]
structure PortSt where
  desc : Tab (BitVec 512)
  pw : Tab W64
  step : W64
  armEp : BitVec 32
  layEp : BitVec 32
  loops : List Loop
  posts : List PendPost
  flights : List Flight
  nextId : Nat
  waiting : Option WaitSt
  haltReq : Bool
  pairCand : Option (BitVec 8 × Bool)
  heldWord : Option (W64 × Option W64)
deriving DecidableEq, Repr

/-- An accumulation context of an array (R63): `lev` holds the valid levels, each a 32 by 32 tile of FP32 values, row by
row; one stack per cell, all cells of a context having the same valid levels. -/
structure Ctx where
  lev : List (Option (List F32))
  count : Nat
  longsum : Bool
  subn : Bool
deriving DecidableEq, Repr

/-- The top-k part of a matrix instruction (R75). -/
structure TopkArg where
  k : Nat
  smallest : Bool
  colBase : Nat
deriving DecidableEq, Repr

/-- A matrix instruction in an array's order of instructions (R68), with what it captured at issue (R128). `paired` is 1 while it
waits for its partner to issue and 2 once the partner has issued (R172). -/
structure MatIns where
  id : Nat
  port : Port
  pc : Nat
  hold : Bool
  ctx : Fin 2
  drain : Bool
  discard : Bool
  a : Desc
  b : Desc
  ta : Bool
  tb : Bool
  tag : BitVec 16
  topk : Option TopkArg
  step : W64
  tile : Nat
  entry : BitVec 8
  paired : Nat
deriving DecidableEq, Repr

/-- A drain token behind the last product of a context (R69). -/
structure DrainTok where
  id : Nat
  port : Port
  ctx : Fin 2
  tag : BitVec 16
  rows : Nat
  cols : Nat
  topk : Option TopkArg
  tileCol : Nat
  firstOfBlock : Bool
  lastOfBlock : Bool
  lastOfInstr : Bool
deriving DecidableEq, Repr

/-- The top-k unit's open lists for a row block (R75), and the status bits it has ORed (R72). -/
structure TopkSt where
  lists : List (List (F32 × Nat))
  allEmpty : Bool
  nan : Bool
  inf : Bool
  subn : Bool
  longsum : Bool
deriving DecidableEq, Repr

/-- A matrix array (R56, R63, R73, R120): contexts, the instruction it runs, the port it served last, instructions that wait,
drain tokens, top-k unit, the context into which the last tile accumulated, and the rows of an emission that wait for credits (R77, R92). -/
structure ArraySt where
  ctx0 : Ctx
  ctx1 : Ctx
  cur : Option MatIns
  last : Nat
  ins : List MatIns
  toks : List DrainTok
  topk : Option TopkSt
  lastCtx : Option (Fin 2)
  emit : List (List F32)
deriving DecidableEq, Repr

/-- An accumulator input of the vector engine (R92): the status word and rows it buffers, whether rows of the same emission are still to
come, and the VACC that has claimed it. -/
structure AccIn where
  status : Option W64
  rows : List (List F32)
  short : Bool
  claim : Option (Nat × Nat)
deriving DecidableEq, Repr

/-- A vector instruction in progress or queued (R88), with what it captured at issue (R128). `port` is 0 F, 1 B, 2 U,
3 scalar. `pos` counts segments, runs, rows or tiles done; `acc` stages results and whether their events count until whole blocks can be written
(R97, R90); `run` holds what earlier segments have read of a run longer than a segment (R86, R91). -/
structure VIns where
  id : Nat
  port : Port
  pc : Nat
  opc : BitVec 8
  w : TWord
  d : Option Desc
  s1 : Option Desc
  s2 : Option Desc
  s3 : Option Desc
  mask : Option Desc
  maskW : W64
  maskW2 : W64
  alpha : F32
  step : W64
  seed : W64
  pos : Nat
  acc : List (Option (F32 × Bool))
  run : List F32
deriving DecidableEq, Repr

/-- A move instruction that waits for a working-shard entry or for its peer (R156, R474); `begun` once it has started, with the
bytes or frames of its peer still outstanding. -/
structure MIns where
  id : Nat
  port : Port
  pc : Nat
  opc : Nat
  d : Desc
  s1 : Desc
  s2 : Option Desc
  w1 : W64
  step : W64
  seed : W64
  begun : Bool
  outstanding : Nat
deriving DecidableEq, Repr

/-- The figures of one UPD or UROUTE (R208, R209). -/
structure USums where
  d2 : F32
  w2 : F32
  nan : Nat
  inf : Nat
  applied : Nat
deriving DecidableEq, Repr

/-- A UPD in progress that waits (R195, R274, R288): the next block, the working values held, its figures so far. -/
structure UIns where
  id : Nat
  port : Port
  pc : Nat
  phase : Nat
  slot : Nat
  setNo : Nat
  begun : Bool
  prog : List Byte
  set : List Byte
  d : Desc
  s1 : Desc
  s2 : Desc
  s3 : Option Desc
  step : W64
  seed : W64
  next : Nat
  held : List (Nat × List F32)
  sums : USums
deriving DecidableEq, Repr

/-- An update unit (R184): the UPDs in its queue, gradient-slot writes that have reached it (R196), and the port it turned to last (R120). -/
structure UpdUnit where
  q : List UIns
  slotQ : List (Nat × List Byte)
  rr : Nat
deriving DecidableEq, Repr

/-- The table map of a UROUTE (R204). -/
structure RowMap where
  base : List Nat
  rows : Nat
  width : Nat
  prog : Nat
  set : Nat
  cache : Nat
  slots : Nat
  layer : Nat
  fmt : Nat
  clean : Bool
deriving DecidableEq, Repr

/-- What a UROUTE captured at issue (R128, R204, R206). -/
structure RowIns where
  m : RowMap
  s1 : Desc
  s2 : Desc
  mode : Nat
  step : W64
  seed : W64
deriving DecidableEq, Repr

/-- What an instruction does in the four update units together (R191, R206). -/
inductive UAct where
  | load (slot : Nat) (img : List Byte)
  | scalars (set : Nat) (img : List Byte)
  | rows (u : RowIns)
deriving DecidableEq, Repr

/-- A ULOAD, USCAL or UROUTE in the queues of the four update units (R119). -/
structure UOp where
  id : Nat
  port : Port
  pc : Nat
  act : UAct
deriving DecidableEq, Repr

/-- The run of a scalar core (R109, R111): registers, program counter, wait, port queue of up to 8 instruction words, and the candidate of a
pair among the words it has had issued (R172). -/
structure Core where
  x : Tab W64
  f : Tab F32
  pc : Nat
  wait : Option (BitVec 8 × W64 × W64)
  queue : List (W64 × Option W64)
  pairCand : Option (BitVec 8 × Bool)
deriving DecidableEq, Repr

/-- The writer of a working-shard entry that is filling (R156): version, issuing partition and port, flight and unit class. -/
structure WFill where
  version : W64
  part : PartId
  port : Port
  id : Nat
  cls : UCls
deriving DecidableEq, Repr

/-- A command queue's context and completion state beside QIDXq and QCOMPq (R347, R348, R356, R358). -/
structure QueueSt where
  enabled : Bool
  ringBase : Nat
  sizeLog2 : Nat
  cls : Nat
  mode : Nat
  notify : Bool
  lif : Nat
  window : Nat
  hostIp : Ip
  hostPort : BitVec 16
  tag : W64
  lastStatus : Status
  lastIndex : BitVec 32
  windowOpen : Bool
  unacked : Nat
  closedWaiting : Bool
  aged : Bool
  lost : Bool
deriving DecidableEq, Repr

/-- A cast in progress on the units of a partition (R274): the collective operation that sends it, its step and master format, the
stream's head (header and patina), the addresses of its blocks in stream order, the blocks read so far by index, and the
indices read into the cast hold and not yet sent. -/
structure CastSt where
  n : Nat
  step : W64
  mfmt : Nat
  head : List Byte
  blocks : List Nat
  read : Tab (List Byte)
  hold : List Nat
deriving DecidableEq, Repr

/-- A maquette in progress (R287, R288): its step, flow and window, blocks not yet read with their destination offsets, runs in the
spill ring by ring slot, the ring's address and capacity and the next slot, frames unacknowledged. -/
structure MaqSt where
  step : W64
  flow : Nat
  window : Nat
  blocks : List (Nat × Nat)
  spill : List (Nat × Nat)
  spillAddr : Nat
  spillCap : Nat
  spillNext : Nat
  outstanding : Nat
deriving DecidableEq, Repr

/-- A rubbing source that has been read, or given up (R409): its number, flags, data and the cycles it took. -/
structure RubRec where
  source : Nat
  noImp : Bool
  budget : Bool
  data : List Byte
  elapsed : Nat
deriving DecidableEq, Repr

/-- A partition reset in progress (R403, R404): whether its rubbing is skipped, its implicated channels and those that have failed
once in it, the local count at the fence and at the start of the rubbing, the sources read so far (R407). -/
structure ResetSt where
  skip : Bool
  retrain : BitVec 4
  failed : BitVec 4
  startLocal : W64
  rubStart : W64
  rub : List RubRec
deriving DecidableEq, Repr

/-- One partition (R10, R117): what it holds beside its control-space registers and its memory; `told` lists units, the move engines by
their port, told to abandon an instruction that have started none since (R401), `logOwes` says that pointing-log records from MIRRORED on
found no flow (R265), `restored` the lost modules for which a restore has run (R277). -/
@[ext]
structure Part where
  pf : PortSt
  pb : PortSt
  pu : PortSt
  ps : PortSt
  a0 : ArraySt
  a1 : ArraySt
  in0 : AccIn
  in1 : AccIn
  vq : List VIns
  vLast : Nat
  mq : List MIns
  sfu : Tab (List Byte)
  sfuImage : Nat
  slots : Tab (List Byte)
  sets : Tab (List Byte)
  units : Vector UpdUnit 4
  uops : List UOp
  cores : Vector Core 6
  coreRR : Nat
  fill : Tab WFill
  queues : Tab QueueSt
  qLast : Tab Nat
  cast : List CastSt
  maq : Option MaqSt
  restored : List (BitVec 32)
  trainQ : List (Fin 4)
  refresh : List (Fin 4)
  rst : Option ResetSt
  told : List (UnitKind × Nat)
  logOwes : Bool
  image : Nat
  microcode : Nat
  microPending : Option Nat
  heartbeats : Nat
deriving DecidableEq, Repr

/-- A group entry of the installed armature (R230) with its rank, order and buddy tables resolved at install; `lost` holds
the ranks marked LOST (R278). -/
structure Rank where
  ip : Ip
  mac : Mac
  part : PartId
  self : Bool
  lost : Bool
  relay : BitVec 16
  port : BitVec 16
  module : BitVec 32
deriving DecidableEq, Repr

/-- A directory entry of the collective engine (R213, R230 to R232). -/
structure Group where
  tenant : TenantId
  ranks : List Rank
  own : Nat
  topo : Nat
  degree : Nat
  window : Nat
  segElems : Nat
  lif : Nat
  tclass : Nat
  order : List Nat
  buddies : List (Option Nat)
  relays : List (List Nat)
  wdog : Nat
  entry : List Byte
deriving DecidableEq, Repr

/-- The stages of a collective operation at this module (R156, R215, R217, R228, R237). -/
inductive CollPhase where
  | queued | waitDest | waitSource | running
deriving DecidableEq, Repr

/-- A segment that this module sends, or has received (R224): the rank it goes to next, its header fields and its data; `cast` marks
a cast slice, whose data are read when it leaves. -/
structure OutSeg where
  tgt : Nat
  src : Nat
  dest : Nat
  hop : Nat
  final : Bool
  buddy : Bool
  cast : Bool
  last : Bool
  off : Nat
  elems : Nat
  fmt : Nat
  kind : Nat
  data : List Byte
deriving DecidableEq, Repr

/-- A contribution that waits for the others of its segment (R219): offset, ring position, hop, values. -/
structure Contrib where
  off : Nat
  pos : Nat
  hop : Nat
  vals : List F32
deriving DecidableEq, Repr

/-- A collective operation at this module (R214, R216): what it captured; what it has received and from whom; the offsets written into
D and into the buddy's copy; segments that wait for credit, credits by rank; contributions that wait; the bytes of CRSH and cast
streams; the rotations of a CKV. -/
structure CollOp where
  n : Nat
  tenant : TenantId
  part : PartId
  port : Port
  id : Nat
  pc : Nat
  op : Nat
  grp : Nat
  num : BitVec 16
  ctr : BitVec 9
  mcast : Bool
  param : BitVec 32
  d : Desc
  s1 : Desc
  s2 : Desc
  aux : Option Desc
  dmap : List Byte
  smap : List Byte
  table : List Byte
  step : W64
  armEp : BitVec 32
  layEp : BitVec 32
  seed : W64
  phase : CollPhase
  got : List (Nat × Nat × Nat)
  wroteD : List Nat
  wroteB : List Nat
  outq : List OutSeg
  placed : Nat
  credit : Tab Nat
  sent : Tab Nat
  taken : Tab Nat
  unacked : Nat
  parts : List Contrib
  late : List OutSeg
  counts : Tab Nat
  bases : Tab Nat
  rx : List (Nat × Nat × List Byte)
  rxDone : List (Nat × Nat)
  landed : Tab Nat
  rotUnacked : Tab Nat
  rotSent : Nat
  rotFree : Nat
  castNext : Nat
  startNo : Nat
  granted : Tab Nat
  relayed : Tab Nat
deriving DecidableEq, Repr

/-- A window that a peer has advertised for an instance which this module has not started (R227, R326): the peer's armature epoch, the instance, the
peer's address and partition, and the segments granted in all. -/
structure Advert where
  tenant : TenantId
  armEp : BitVec 32
  grp : Nat
  num : BitVec 16
  ip : Ip
  peerPart : BitVec 4
  granted : Nat
deriving DecidableEq, Repr

/-- A segment that waits for an epoch, an operation or a step (R226, R227): the request that carried it. -/
abbrev HeldSeg := Req

/-- An armature install that waits (R233). -/
structure Install where
  tenant : TenantId
  part : PartId
  epoch : BitVec 32
  groups : List (Nat × Group)
deriving DecidableEq, Repr

/-- The collective engine (R213). -/
structure Coll where
  groups : Tab Group
  ops : List CollOp
  nextNum : Tab Nat
  nextN : Nat
  held : List HeldSeg
  installs : List Install
  nextStart : Nat
  portRR : Nat
  tenRR : Nat
  adverts : List Advert
deriving DecidableEq, Repr

/-- What a frame ready for transmission belongs to (R308): its interface, class, whether it is a management frame. -/
structure TxFrame where
  lif : Nat
  cls : Nat
  mgmt : Bool
  flow : Option Nat
  frame : Frame
deriving DecidableEq, Repr

/-- A logical MAC beside its registers (R304 to R308, R312): hold timers and whether a PAUSE loaded the first, the frames that an injected
delay holds, what is on the wire, the injection side slot with the frames
that must still pass and whether it holds a received frame, the injection LFSR and period count, the PFC classes it has stopped, the
partner's wake time, the management frames of a second, and the interface whose turn it is with whether it has its quantum. -/
structure MacSt where
  hold : Nat
  paused : Bool
  delayed : List TxFrame
  pfcHold : Tab Nat
  onWire : Option Frame
  side : Option (TxFrame × Nat × Bool)
  lfsr : BitVec 32
  period : Nat
  pfcSent : List Nat
  partnerTw : Option Nat
  mgmtSecond : Nat
  mgmtCount : Nat
  drrNext : Nat
  drrFed : Bool
deriving DecidableEq, Repr

/-- A MACsec association slot (R310); `low` holds when its PN has raised PN_LOW (R311). -/
structure Assoc where
  active : Bool
  sci : BitVec 64
  pn : Nat
  window : Nat
  ssci : BitVec 32
  key : List Byte
  salt : List Byte
  seen : List Nat
  low : Bool
deriving DecidableEq, Repr

/-- A local endpoint of a flow (R324). -/
inductive EndPt where
  | part (p : PartId)
  | mgmt
deriving DecidableEq, Repr

/-- What waits on a sequenced frame this module sent (R323, R329); `ended` is a request that timed out (R406). -/
inductive TxWhat where
  | reply
  | collSeg (n : Nat)
  | plog (p : PartId) (logseq : BitVec 32)
  | mput (p : PartId) (port : Port) (id : Nat)
  | mget (p : PartId) (port : Port) (id : Nat) (dest : Nat) (len : Nat)
  | complete (p : PartId) (q : Nat)
  | maq (p : PartId)
  | report
  | incident (n : Nat)
  | closing
  | ended
deriving DecidableEq, Repr

/-- A sequenced frame not yet acknowledged, with the Ethernet cycle in which it was last handed to its MAC (R328, R331). -/
structure TxRec where
  seq : BitVec 32
  what : TxWhat
  lif : Nat
  cls : Nat
  frame : Frame
  retx : Bool
  fast : Bool
  sentAt : Nat
deriving DecidableEq, Repr

/-- A flow context (R324): both directions, acknowledgement, retransmission and congestion state (R326 to R331). `hdr` is the TENANT its
frames carry, the destination's for a maquette (R287); `accepted` marks a flow that the peer opened, `announce` one whose ACKs still carry
OPEN and `firstSeq` the sequence it began with; `rxHeld` holds ordered operations with their opcode and EPCHK (R327); `awaiting` holds
requests that are acknowledged and wait for their reply; `linkSeen` says whether the flow's logical MAC has been up since the retransmit
timer started (R329). -/
structure Flow where
  tenant : TenantId
  hdr : TenantId
  ownerIf : Bool
  ep : EndPt
  lif : Nat
  cls : Nat
  peerIp : Ip
  peerPort : BitVec 16
  peerMac : Mac
  peerFlow : BitVec 16
  peerPart : BitVec 4
  peerMgmt : Bool
  peerGen : BitVec 12
  established : Bool
  txNext : BitVec 32
  txLimit : BitVec 32
  unacked : List TxRec
  waitQ : List TxRec
  pathOff : Nat
  expiries : Nat
  firstSeq : BitVec 32
  rxNext : BitVec 32
  rxAbove : List (BitVec 32)
  rxHeld : List (BitVec 6 × Bool × Req)
  ackDue : Nat
  cwnd : Nat
  baseRtt : Option Nat
  decreaseAt : Option Nat
  accepted : Bool
  announce : Bool
  rxEcho : BitVec 32
  awaiting : List TxRec
  linkSeen : Bool
  owner : Bool
  challenge : Option (List Byte)
deriving DecidableEq, Repr

/-- A flow injector's progress (R340); the side slot holds a frame, the frames that must still pass, and whether it was received. -/
structure InjSt where
  lfsr : BitVec 32
  period : Nat
  side : Option (TxFrame × Nat × Bool)
deriving DecidableEq, Repr

/-- What is kept of an incident entry beside its record words INCn (R413); tenant 16 stands for a partition of no tenant. -/
structure IncSt where
  tenant : Nat
  isOpen : Bool
  sent : Bool
  quietFrom : W64
deriving DecidableEq, Repr

/-- A stored rubbing (R409). -/
structure Rubbing where
  local0 : W64
  part : PartId
  reason : Byte
  gen : BitVec 12
  tenant : Nat
  records : List RubRec
  copied : Bool
  elapsed : Nat
deriving DecidableEq, Repr

/-- A measurement table entry (R389). -/
structure Meas where
  replaced : Nat
  svn : Nat
  at0 : W64
  len : Nat
  digest : List Byte
deriving DecidableEq, Repr

/-- Where the start of the module stands (R425, R428, R461). -/
inductive BootPh where
  | off | inReset | starting | up | plinth
deriving DecidableEq, Repr

/-- Boot, power and sideband state that has no register: where the start stands, supplies and lines (`thermTrip` and `alertLow` hold while
the line is asserted, `latched` after an input fault until PWR_EN falls), the die throttling of R464, firmware images held in management
memory by number, the handover's old entry, banks verified since they were programmed, lanes that re-adapt, the SMBus answer, keys
(R424 to R434, R390, R456 to R466). -/
structure Boot where
  ph : BootPh
  standby : Bool
  pwrEn : Bool
  pwrGood : Bool
  thermTrip : Bool
  alertLow : Bool
  latched : Bool
  hot : Bool
  dieCut : Nat
  inlet : Nat
  pendImage : Option Nat
  imageCount : Nat
  images : Tab (List Byte)
  oldMeas : Option Meas
  verifiedA : Bool
  verifiedB : Bool
  plinthTry : Nat
  serdesQ : List (Fin 8)
  laneBad : List (Fin 8)
  fruPtr : Nat
  smbReply : List Byte
  smbNack : Bool
  smbPec : Byte
  aliasPublic : List Byte
  aliasSecret : List Byte
  attestTimes : List W64
  identityPublic : List Byte
  aliasCert : List Byte
  bootAgg : List Byte
deriving DecidableEq, Repr

/-- The debug access that is open (R394). -/
structure DbgSt where
  jtag : Bool
  live : Bool
  limit : W64
  lastJtag : Option Bool
deriving DecidableEq, Repr

/-- The device: everything but the fuses, the flash, the FRU area and the waiting commands. -/
@[ext]
structure Dev where
  mem : List Host.Cell
  mesh : List MeshPost
  poison : List Nat
  regs : Tab W64
  parts : Vector Part 16
  coll : Coll
  mbFull : Tab Bool
  journal : Tab (List Byte)
  macs : Vector MacSt 8
  deficit : Tab Nat
  txq : List TxFrame
  assoc : Tab Assoc
  flows : Tab Flow
  flowNext : Nat
  winQ : List (Bool × Req)
  inj : Vector InjSt 4
  inc : Tab IncSt
  reports : List (BitVec 96 × W64 × Nat × W64)
  rub0 : Option Rubbing
  rub1 : Option Rubbing
  rubCopies : Tab Nat
  meas : Tab Meas
  stage : Tab W64
  boot : Boot
  dbg : DbgSt
  ethCycle : Nat
  readData : W64
  freeCount : Nat
deriving DecidableEq, Repr

/-- The fuses of R386. -/
structure Fuses where
  cap : BitVec 8
  dieStep : BitVec 8
  moduleId : BitVec 32
  keyHash0 : List Byte
  keyHash1 : List Byte
  keyRevoke : BitVec 2
  uds : List Byte
  svnS1 : Nat
  svnMgmt : Nat
  svnPart : Nat
  svnMisc : Nat
  debug : BitVec 2
  lifecycle : BitVec 2
deriving DecidableEq, Repr

/-- A reason log entry (R427). -/
structure ReasonEntry where
  attempt : Nat
  bankFirst : Bool
  reasonA : Byte
  reasonB : Byte
  outcome : Nat
deriving DecidableEq, Repr

/-- One copy of a flash record (R423): its sequence, whether its CRC-32C is right, and what it says. -/
structure RecCopy (α : Type) where
  seq : BitVec 32
  valid : Bool
  val : α
deriving DecidableEq, Repr

/-- A flash record in its two copies (R423). -/
structure TwoCopies (α : Type) where
  c0 : RecCopy α
  c1 : RecCopy α
deriving DecidableEq, Repr

/-- The SPI NOR flash (R423): the boot record (ACTIVE), the failed-start mirror with the reason log, and the owner record (the two keys), each as what
its two copies say, and the configuration record and the banks as bytes by flash offset (an unlisted byte is erased). -/
structure Flash where
  boot : TwoCopies Bool
  starts : TwoCopies (Nat × List ReasonEntry)
  owner : TwoCopies (Option (List Byte) × Option (List Byte))
  vendorCert : List Byte
  bytes : Tab Byte
deriving DecidableEq, Repr

/-- The machine: the device, its fuses, its flash, the FRU area and the commands that wait, first in, first out. -/
@[ext]
structure State where
  dev : Dev
  fuse : Fuses
  flash : Flash
  fru : List Byte
  pending : List Instr
deriving DecidableEq, Repr

/-! ## Reset values (R9; log entry 8 for the values the specification does not give) -/

def PortSt.reset : PortSt :=
  { desc := [], pw := [], step := 0, armEp := 0, layEp := 0, loops := [], posts := [], flights := [],
    nextId := 0, waiting := none, haltReq := false, pairCand := none, heldWord := none }

def Ctx.empty : Ctx := { lev := [], count := 0, longsum := false, subn := false }

def ArraySt.reset : ArraySt :=
  { ctx0 := Ctx.empty, ctx1 := Ctx.empty, cur := none, last := 2, ins := [], toks := [], topk := none, lastCtx := none,
    emit := [] }

def AccIn.reset : AccIn := { status := none, rows := [], short := false, claim := none }

def UpdUnit.reset : UpdUnit := { q := [], slotQ := [], rr := 0 }

def Core.reset : Core := { x := [], f := [], pc := 0, wait := none, queue := [], pairCand := none }

def Part.reset : Part :=
  { pf := PortSt.reset, pb := PortSt.reset, pu := PortSt.reset, ps := PortSt.reset,
    a0 := ArraySt.reset, a1 := ArraySt.reset, in0 := AccIn.reset, in1 := AccIn.reset,
    vq := [], vLast := 2, mq := [], sfu := [], sfuImage := 0, slots := [], sets := [],
    units := Vector.replicate 4 UpdUnit.reset, uops := [], cores := Vector.replicate 6 Core.reset, coreRR := 0,
    fill := [], queues := [], qLast := [], cast := [], maq := none, restored := [], trainQ := [], refresh := [], rst := none, told := [], logOwes := false,
    image := 0, microcode := 0, microPending := none, heartbeats := 0 }

def Coll.reset : Coll := { groups := [], ops := [], nextNum := [], nextN := 0, held := [], installs := [], nextStart := 0, portRR := 0, tenRR := 0, adverts := [] }

def MacSt.reset : MacSt :=
  { hold := 0, paused := false, delayed := [], pfcHold := [], onWire := none, side := none, lfsr := 1, period := 0, pfcSent := [],
    partnerTw := none, mgmtSecond := 0, mgmtCount := 0, drrNext := 0, drrFed := false }

def InjSt.reset : InjSt := { lfsr := 1, period := 0, side := none }

def Boot.reset : Boot :=
  { ph := .inReset, standby := true, pwrEn := true, pwrGood := true, thermTrip := false, alertLow := false, latched := false, hot := false,
    dieCut := 0, inlet := 0, pendImage := none, imageCount := 0, images := [], oldMeas := none, verifiedA := false, verifiedB := false, plinthTry := 0,
    serdesQ := [], laneBad := [], fruPtr := 0, smbReply := [], smbNack := false, smbPec := 0, aliasPublic := [], aliasSecret := [], attestTimes := [],
    identityPublic := [], aliasCert := [], bootAgg := [] }

def DbgSt.reset : DbgSt := { jtag := false, live := false, limit := 0, lastJtag := none }

/-- The device with every register at its reset value, memory with nothing listed, and nothing in progress. -/
def Dev.reset : Dev :=
  { mem := [], mesh := [], poison := [], regs := [], parts := Vector.replicate 16 Part.reset, coll := Coll.reset, mbFull := [],
    journal := [], macs := Vector.replicate 8 MacSt.reset, deficit := [], txq := [], assoc := [], flows := [], flowNext := 0, winQ := [],
    inj := Vector.replicate 4 InjSt.reset, inc := [], reports := [], rub0 := none, rub1 := none, rubCopies := [], meas := [], stage := [],
    boot := Boot.reset, dbg := DbgSt.reset, ethCycle := 0, readData := 0, freeCount := 0 }

/-- The fuses of an MSD-VZ16-1T (R1, R150); the values the specification does not give are those of log entry 9. -/
def Fuses.reset : Fuses :=
  { cap := 0x40, dieStep := 0, moduleId := 0, keyHash0 := [], keyHash1 := [], keyRevoke := 0, uds := [],
    svnS1 := 0, svnMgmt := 0, svnPart := 0, svnMisc := 0, debug := 3, lifecycle := 1 }

/-- A flash with bank A active, no failed start, no owner key and nothing programmed (log entry 9). -/
def Flash.reset : Flash :=
  { boot := ⟨⟨0, true, false⟩, ⟨0, false, false⟩⟩, starts := ⟨⟨0, true, (0, [])⟩, ⟨0, false, (0, [])⟩⟩, owner := ⟨⟨0, true, (none, none)⟩, ⟨0, false, (none, none)⟩⟩,
    vendorCert := [], bytes := [] }

/-- The machine in module reset with its supplies on, before the reset is released (R461; log entry 10). -/
def State.reset : State :=
  { dev := Dev.reset, fuse := Fuses.reset, flash := Flash.reset, fru := [], pending := [] }

end Sys2Proof.Machine
end

