-- ==== Sys2Proof/Machine/Ops.lean ====
section
/-! DEFINITION. The named operations over sparse tables, bit fields, bytes, memory and partitions that every meaning uses.
A step that changes only the device is `onDev`. -/
namespace Sys2Proof

/-- The sequencer's issue port. -/
def Seq.port : Seq → Port
  | .f => .f
  | .b => .b
  | .u => .u

/-- Stream number of R46 and of R410's UNIT: 0 F, 1 B, 2 U, 3 scalar issue port. -/
def Port.num : Port → Nat
  | .f => 0
  | .b => 1
  | .u => 2
  | .s _ => 3

def Seq.num : Seq → Nat
  | .f => 0
  | .b => 1
  | .u => 2

/-- The sequencer of a port, if it is one. -/
def Port.seq? : Port → Option Seq
  | .f => some .f
  | .b => some .b
  | .u => some .u
  | .s _ => none

def TWord.len (w : TWord) : Nat := if w.x then 2 else 1
def TWord.snd (w : TWord) : Option W64 := if w.x then some w.w1 else none
def SWord.len (w : SWord) : Nat := if w.x then 2 else 1
def SWord.snd (w : SWord) : Option W64 := if w.x then some w.w1 else none
def CWord.len (w : CWord) : Nat := if w.x then 2 else 1
def CWord.snd (w : CWord) : Option W64 := if w.x then some w.w1 else none

end Sys2Proof

namespace Sys2Proof.Machine

/-- What a command answers. -/
abbrev Res := Host.Outcome State Fault Refusal

/-- A command that changes nothing but the device: fuses, flash, FRU area and waiting commands stay. -/
def onDev (f : Dev → Dev) (s : State) : Res := .next { s with dev := f s.dev }

/-! ## Sparse tables -/

/-- The value at key `n`, `dflt n` where the table lists none. -/
def Tab.get {α : Type} (dflt : Nat → α) : Tab α → Nat → α
  | [], n => dflt n
  | (k, v) :: t, n => if k = n then v else Tab.get dflt t n

/-- Inserts a pair before the first larger key. -/
def Tab.ins {α : Type} (n : Nat) (v : α) : Tab α → Tab α
  | [] => [(n, v)]
  | (k, x) :: t => if n < k then (n, v) :: (k, x) :: t else (k, x) :: Tab.ins n v t

/-- The table without key `n`. -/
def Tab.del {α : Type} (t : Tab α) (n : Nat) : Tab α := t.filter (fun e => e.1 != n)

/-- The table with `v` at key `n`; the default value is not listed, so equal tables are equal data. -/
def Tab.set {α : Type} [DecidableEq α] (dflt : Nat → α) (t : Tab α) (n : Nat) (v : α) : Tab α :=
  if v = dflt n then t.del n else Tab.ins n v (t.del n)

/-- The entry at key `n`, if one is listed. -/
def Tab.find {α : Type} : Tab α → Nat → Option α
  | [], _ => none
  | (k, v) :: t, n => if k = n then some v else Tab.find t n

/-- The table with an entry `v` at key `n` (for tables that list entries without a default). -/
def Tab.put {α : Type} (t : Tab α) (n : Nat) (v : α) : Tab α := Tab.ins n v (t.del n)

/-- Keys strictly rising. -/
def Tab.sorted {α : Type} : Tab α → Bool
  | [] => true
  | [_] => true
  | (a, _) :: (b, y) :: t => decide (a < b) && Tab.sorted ((b, y) :: t)

/-- The canonical form: keys strictly rising, no default value listed. -/
def Tab.wf {α : Type} [DecidableEq α] (dflt : Nat → α) (t : Tab α) : Bool :=
  Tab.sorted t && t.all (fun e => decide (e.2 ≠ dflt e.1))

/-! ## Bit fields -/

/-- Field [hi:lo] of a word as a number. -/
def bits {n : Nat} (w : BitVec n) (hi lo : Nat) : Nat := w.toNat / 2 ^ lo % 2 ^ (hi + 1 - lo)

/-- Bit `i` of a word. -/
def bit {n : Nat} (w : BitVec n) (i : Nat) : Bool := w.toNat / 2 ^ i % 2 == 1

/-- A register word with field [hi:lo] replaced by `v` modulo the field's width. -/
def putBits (w : W64) (hi lo v : Nat) : W64 :=
  BitVec.ofNat 64 (w.toNat - bits w hi lo * 2 ^ lo + v % 2 ^ (hi + 1 - lo) * 2 ^ lo)

/-- A register word with bit `i` set or cleared. -/
def putBit (w : W64) (i : Nat) (b : Bool) : W64 := putBits w i i (if b then 1 else 0)

/-- Two's complement reading of the low `n` bits of a number. -/
def sext (n v : Nat) : Int := if v % 2 ^ n < 2 ^ (n - 1) then (v % 2 ^ n : Nat) else (v % 2 ^ n : Nat) - (2 ^ n : Nat)

/-- The low `n` bits of an integer's two's complement. -/
def wrapInt (n : Nat) (v : Int) : Nat := (v % (2 ^ n : Nat)).toNat

/-- A count that stops at the largest value of a field of `n` bits. -/
def satAdd (n a b : Nat) : Nat := min (a + b) (2 ^ n - 1)

/-- `true` as 1. -/
def b2n (b : Bool) : Nat := if b then 1 else 0

/-- Least multiple count: the ceiling of `a / b`. -/
def ceilDiv (a b : Nat) : Nat := (a + b - 1) / b

/-! ## Bytes -/

/-- The number whose little-endian bytes are given (R5). -/
def leNat : List Byte → Nat
  | [] => 0
  | b :: t => b.toNat + 256 * leNat t

/-- The `n` low bytes of a number, least significant first (R5). -/
def leBytes : Nat → Nat → List Byte
  | 0, _ => []
  | n + 1, v => BitVec.ofNat 8 v :: leBytes n (v / 256)

/-- The number whose most-significant-first bytes are given (wire order, R5). -/
def beNat (l : List Byte) : Nat := l.foldl (fun a b => a * 256 + b.toNat) 0

/-- The `n` low bytes of a number, most significant first (wire order, R5). -/
def beBytes (n v : Nat) : List Byte := (leBytes n v).reverse

/-- `n` bytes of a list from position `i`, zeros past its end. -/
def sliceB (l : List Byte) (i n : Nat) : List Byte :=
  let t := (l.drop i).take n
  t ++ List.replicate (n - t.length) 0

/-- A byte list with `new` written from position `i`. -/
def patchB (l : List Byte) (i : Nat) (new : List Byte) : List Byte :=
  sliceB l 0 i ++ new ++ l.drop (i + new.length)

/-! ## Memory (R145; log entry 11: an unlisted byte reads as 0x00) -/

/-- What a byte of memory that nothing has written reads as (log entry 11). -/
def Memory.dflt : Nat → Byte := fun _ => 0

/-- One byte of memory. -/
def memGet (m : List Host.Cell) (a : Nat) : Byte := Tab.get Memory.dflt m a

/-- Writes one byte of memory. -/
def memSet (m : List Host.Cell) (a : Nat) (b : Byte) : List Host.Cell := Tab.set Memory.dflt m a b

/-- The canonical form of memory. -/
def Memory.wf (m : List Host.Cell) : Bool := Tab.wf Memory.dflt m

/-- `n` bytes of memory from address `a`. -/
def memRead (m : List Host.Cell) (a : Nat) : Nat → List Byte
  | 0 => []
  | n + 1 => memGet m a :: memRead m (a + 1) n

/-- Writes a run of bytes from address `a`. -/
def memWrite (m : List Host.Cell) (a : Nat) : List Byte → List Host.Cell
  | [] => m
  | b :: t => memWrite (memSet m a b) (a + 1) t

/-- Zeroes addresses `lo` to `hi - 1` (R85, R381, R404). -/
def memZero (m : List Host.Cell) (lo hi : Nat) : List Host.Cell := m.filter (fun e => !(decide (lo ≤ e.1) && decide (e.1 < hi)))

/-- `n` bytes of device memory. -/
def Dev.rd (d : Dev) (a n : Nat) : List Byte := memRead d.mem a n

/-- A little-endian number of `n` bytes of device memory. -/
def Dev.rdN (d : Dev) (a n : Nat) : Nat := leNat (memRead d.mem a n)

/-- Writes bytes to device memory; a 16-byte bonded SRAM word wholly rewritten is good again (R163, log entry 12). -/
def Dev.wr (d : Dev) (a : Nat) (bs : List Byte) : Dev :=
  { d with mem := memWrite d.mem a bs,
           poison := d.poison.filter (fun w => !(decide (a ≤ 16 * w) && decide (16 * w + 16 ≤ a + bs.length))) }

/-- Whether a read of `n` bytes touches a word with an uncorrectable error (R163). -/
def Dev.bad (d : Dev) (a n : Nat) : Bool := d.poison.any (fun w => decide (16 * w < a + n) && decide (a < 16 * w + 16))

/-- Address of the first word with an uncorrectable error among `n` bytes from `a`; `a` where there is none (R410). -/
def Dev.badWord (d : Dev) (a n : Nat) : Nat :=
  match d.poison.find? (fun w => decide (16 * w < a + n) && decide (a < 16 * w + 16)) with
  | some w => 16 * w
  | none => a

/-! ## Partitions -/

def Dev.part (d : Dev) (p : PartId) : Part := d.parts[p]

def Dev.setPart (d : Dev) (p : PartId) (x : Part) : Dev := { d with parts := d.parts.set p x }

def Dev.modPart (d : Dev) (p : PartId) (f : Part → Part) : Dev := d.setPart p (f (d.part p))

/-- The port's state in a partition; the six cores share the scalar issue port's (R117). -/
def Part.port (x : Part) : Port → PortSt
  | .f => x.pf
  | .b => x.pb
  | .u => x.pu
  | .s _ => x.ps

def Part.setPort (x : Part) (q : Port) (v : PortSt) : Part :=
  match q with
  | .f => { x with pf := v }
  | .b => { x with pb := v }
  | .u => { x with pu := v }
  | .s _ => { x with ps := v }

def Dev.port (d : Dev) (p : PartId) (q : Port) : PortSt := (d.part p).port q

def Dev.setPort (d : Dev) (p : PartId) (q : Port) (v : PortSt) : Dev := d.setPart p ((d.part p).setPort q v)

def Dev.modPort (d : Dev) (p : PartId) (q : Port) (f : PortSt → PortSt) : Dev := d.setPort p q (f (d.port p q))

/-- The four issue ports; the scalar port under core 0's name. -/
def allPorts : List Port := [.f, .b, .u, .s 0]

/-- The array's state. -/
def Part.arr (x : Part) (a : Fin 2) : ArraySt := if a = 0 then x.a0 else x.a1

def Part.setArr (x : Part) (a : Fin 2) (v : ArraySt) : Part := if a = 0 then { x with a0 := v } else { x with a1 := v }

def Part.inp (x : Part) (a : Fin 2) : AccIn := if a = 0 then x.in0 else x.in1

def Part.setInp (x : Part) (a : Fin 2) (v : AccIn) : Part := if a = 0 then { x with in0 := v } else { x with in1 := v }

/-- Draws a value the specification leaves open (log entry 1). -/
def Dev.free (d : Dev) : W64 × Dev := (Config.freeWord d.freeCount, { d with freeCount := d.freeCount + 1 })

/-! ## Flash records (R423) -/

/-- Whether a sequence is after another; that the 32 bits wrap as R129's do is a DESIGN CHOICE (log entry 134). -/
def recAfter (a b : BitVec 32) : Bool := decide (0 < (a - b).toNat) && decide ((a - b).toNat < 2 ^ 31)

/-- The copy that a reader takes: the valid one with the higher sequence (`true` for copy 1); none where both are invalid. -/
def TwoCopies.newer {α : Type} (r : TwoCopies α) : Option Bool :=
  if r.c0.valid && !(r.c1.valid && recAfter r.c1.seq r.c0.seq) then some false else if r.c1.valid then some true else none

def TwoCopies.read {α : Type} (r : TwoCopies α) : Option α := r.newer.map (fun b => if b then r.c1.val else r.c0.val)

/-- A writer overwrites the other copy, with the next sequence. -/
def TwoCopies.write {α : Type} (r : TwoCopies α) (v : α) : TwoCopies α :=
  match r.newer with
  | some false => { r with c1 := ⟨r.c0.seq + 1, true, v⟩ }
  | some true => { r with c0 := ⟨r.c1.seq + 1, true, v⟩ }
  | none => { r with c0 := ⟨0, true, v⟩ }

/-- The ACTIVE bank, `true` for B: bank A where both copies of the boot record are invalid. -/
def Flash.active (f : Flash) : Bool := f.boot.read.getD false
def Flash.setActive (f : Flash) (bankB : Bool) : Flash := { f with boot := f.boot.write bankB }

/-- The failed-start mirror and the reason log; 0 and none where both copies are invalid (log entry 134). -/
def Flash.mirror (f : Flash) : Nat := (f.starts.read.getD (0, [])).1
def Flash.log (f : Flash) : List ReasonEntry := (f.starts.read.getD (0, [])).2
def Flash.setMirror (f : Flash) (n : Nat) : Flash := { f with starts := f.starts.write (n, f.log) }
def Flash.setLog (f : Flash) (l : List ReasonEntry) : Flash := { f with starts := f.starts.write (f.mirror, l) }

/-- The owner keys: the slots are empty where both copies are invalid (R430). -/
def Flash.ownerKey0 (f : Flash) : Option (List Byte) := (f.owner.read.getD (none, none)).1
def Flash.ownerKey1 (f : Flash) : Option (List Byte) := (f.owner.read.getD (none, none)).2
def Flash.setKey (f : Flash) (slot : Nat) (k : List Byte) : Flash :=
  { f with owner := f.owner.write (if slot = 0 then (some k, f.ownerKey1) else (f.ownerKey0, some k)) }

/-- Applies a step to each element of a list in order. -/
def Dev.each {α : Type} (d : Dev) (l : List α) (f : Dev → α → Dev) : Dev := l.foldl f d

/-- All partition numbers. -/
def allParts : List PartId := List.finRange 16

end Sys2Proof.Machine
end

