-- ==== Sys2Proof/Decode.lean ====
section
/-! DEFINITION. The command that a word spells by the bits of spec/opcode_table.json: no row of that table gives bits (its rows are commands
named by rules, not encoded words), so no table word spells a command. Beside it the words of Limia instructions, which are operands of the
commands of their rows: their encodings, and the command that an instruction word in a port's program names (R121 to R124). -/
namespace Sys2Proof
open Sys2Proof.Machine

/-- The command spelled by `nbits` bits of value `w`: none, since no row gives bits. -/
def decodeTableWord (_nbits _w : Nat) : Option Instr := none

/-! ## Instruction words (R121) -/

/-- The bits of a flag in a word. -/
def bitAt (b : Bool) (i : Nat) : Nat := if b then 2 ^ i else 0

def encT (opc : Nat) (w : TWord) : W64 :=
  BitVec.ofNat 64 (opc * 2 ^ 56 + bitAt w.x 55 + w.mod.toNat * 2 ^ 48 + w.d.toNat * 2 ^ 40 + w.s1.toNat * 2 ^ 32
    + w.s2.toNat * 2 ^ 24 + w.s3.toNat * 2 ^ 16 + w.imm.toNat)

def encS (opc : Nat) (w : SWord) : W64 :=
  BitVec.ofNat 64 (opc * 2 ^ 56 + bitAt w.x 55 + w.mod.toNat * 2 ^ 50 + w.ctr.toNat * 2 ^ 41 + w.rsv.toNat * 2 ^ 32 + w.value.toNat)

def encC (opc : Nat) (w : CWord) : W64 :=
  BitVec.ofNat 64 (opc * 2 ^ 56 + bitAt w.x 55 + w.mod.toNat * 2 ^ 48 + w.rsv.toNat * 2 ^ 36 + w.pw.toNat * 2 ^ 32 + w.imm.toNat)

/-- The T fields of a first word. -/
def decT (w w1 : W64) : TWord :=
  { x := bit w 55, mod := BitVec.ofNat 7 (bits w 54 48), d := BitVec.ofNat 8 (bits w 47 40), s1 := BitVec.ofNat 8 (bits w 39 32),
    s2 := BitVec.ofNat 8 (bits w 31 24), s3 := BitVec.ofNat 8 (bits w 23 16), imm := BitVec.ofNat 16 (bits w 15 0), w1 := w1 }

/-- The S fields of a first word. -/
def decS (w w1 : W64) : SWord :=
  { x := bit w 55, mod := BitVec.ofNat 5 (bits w 54 50), ctr := BitVec.ofNat 9 (bits w 49 41), rsv := BitVec.ofNat 9 (bits w 40 32),
    value := BitVec.ofNat 32 (bits w 31 0), w1 := w1 }

/-- The C fields of a first word. -/
def decC (w w1 : W64) : CWord :=
  { x := bit w 55, mod := BitVec.ofNat 7 (bits w 54 48), rsv := BitVec.ofNat 12 (bits w 47 36), pw := BitVec.ofNat 4 (bits w 35 32),
    imm := BitVec.ofNat 32 (bits w 31 0), w1 := w1 }

/-- The K fields of a first word. -/
def decK (w w1 : W64) : KWord :=
  { x := bit w 55, rd := BitVec.ofNat 5 (bits w 54 50), rs1 := BitVec.ofNat 5 (bits w 49 45), rs2 := BitVec.ofNat 5 (bits w 44 40),
    func := BitVec.ofNat 8 (bits w 39 32), imm := BitVec.ofNat 32 (bits w 31 0), w1 := w1 }

/-- Opcodes that a sequencer alone issues (R123). -/
def seqCmd (opc : Nat) (p : PartId) (x : Seq) (w w1 : W64) : Option Instr :=
  let c := decC w w1
  match opc with
  | 0x00 => some (.nop p x c)
  | 0x01 => some (.halt p x c)
  | 0x02 => some (.br p x c)
  | 0x03 => some (.loop p x c)
  | 0x04 => some (.endl p x c)
  | 0x10 => some (.wait p x (decS w w1))
  | _ => none

/-- Opcodes that every port issues (R123). -/
def portCmd (opc : Nat) (p : PartId) (q : Port) (w w1 : W64) : Option Instr :=
  let c := decC w w1
  let t := decT w w1
  match opc with
  | 0x05 => some (.setpw p q c)
  | 0x06 => some (.setstep p q c)
  | 0x07 => some (.setepoch p q c)
  | 0x08 => some (.dload p q t)
  | 0x09 => some (.dstep p q t)
  | 0x11 => some (.post p q (decS w w1))
  | 0x12 => some (.cset p q (decS w w1))
  | 0x20 => some (.mmul p q t)
  | 0x21 => some (.mmulh p q t)
  | 0x30 => some (.vadd p q t)
  | 0x31 => some (.vsub p q t)
  | 0x32 => some (.vmul p q t)
  | 0x33 => some (.vfma p q t)
  | 0x34 => some (.vmin p q t)
  | 0x35 => some (.vmax p q t)
  | 0x36 => some (.vcmp p q t)
  | 0x37 => some (.vsel p q t)
  | 0x38 => some (.vdiv p q t)
  | 0x39 => some (.vsqrt p q t)
  | 0x3A => some (.viop p q t)
  | 0x40 => some (.vsf p q t)
  | 0x41 => some (.vsfd p q t)
  | 0x42 => some (.sfload p q t)
  | 0x43 => some (.vred p q t)
  | 0x44 => some (.vcvt p q t)
  | 0x45 => some (.vtkmerge p q t)
  | 0x50 => some (.vacc p q t)
  | 0x51 => some (.vsmxStep p q t)
  | 0x52 => some (.vsmxEnd p q t)
  | 0x53 => some (.vsmxBwd p q t)
  | 0x54 => some (.vpool p q t)
  | 0x55 => some (.vunpool p q t)
  | 0x60 => some (.move p q t)
  | 0x61 => some (.mfill p q t)
  | 0x62 => some (.mgather p q t)
  | 0x63 => some (.mscatter p q t)
  | 0x64 => some (.mput p q t)
  | 0x65 => some (.mget p q t)
  | 0x70 => some (.crs p q t)
  | 0x71 => some (.cag p q t)
  | 0x72 => some (.car p q t)
  | 0x73 => some (.ca2a p q t)
  | 0x74 => some (.cbc p q t)
  | 0x75 => some (.crsh p q t)
  | 0x76 => some (.ckv p q t)
  | 0x80 => some (.upd p q t)
  | 0x81 => some (.uroute p q t)
  | 0x82 => some (.uload p q t)
  | 0x83 => some (.uscal p q t)
  | _ => none

/-- Opcodes that a scalar core executes itself (R124). -/
def coreCmd (opc : Nat) (p : PartId) (c : Fin 6) (w w1 : W64) : Option Instr :=
  let k := decK w w1
  match opc with
  | 0x90 => some (.ialu p c k)
  | 0x91 => some (.ialui p c k)
  | 0x92 => some (.falu p c k)
  | 0x93 => some (.li p c k)
  | 0x94 => some (.ld p c k)
  | 0x95 => some (.st p c k)
  | 0x96 => some (.bcc p c k)
  | 0x97 => some (.jal p c k)
  | 0x98 => some (.jalr p c k)
  | 0x99 => some (.amo p c k)
  | 0xA0 => some (.swait p c k)
  | 0xA1 => some (.fence p c k)
  | 0xA2 => some (.ctlr p c k)
  | 0xA3 => some (.ctlw p c k)
  | 0xA4 => some (.issr p c k)
  | 0xB5 => some (.release p c k)
  | _ => none

/-- The command that an instruction in the program of a sequencer, or of a scalar core, names: bits [63:56] pick it, X says whether the
second word belongs to it (R121, R123, R124). `none` is an opcode that is undefined or not open there (R122). -/
def decodeLimia (p : PartId) (q : Port) (w w1 : W64) : Option Instr :=
  let opc := bits w 63 56
  let v := if bit w 55 then w1 else 0
  match q with
  | .f => (seqCmd opc p .f w v).orElse (fun _ => portCmd opc p .f w v)
  | .b => (seqCmd opc p .b w v).orElse (fun _ => portCmd opc p .b w v)
  | .u => (seqCmd opc p .u w v).orElse (fun _ => portCmd opc p .u w v)
  | .s c => (coreCmd opc p c w v).orElse (fun _ => portCmd opc p (.s c) w v)

end Sys2Proof
end

