-- ==== Sys2Proof/Machine/Num.lean ====
section
/-! DEFINITION. Numbers: exact values, the stored formats of R31, rounding (R43 to R45), conversion and block scales (R37, R38,
R48, R50), FP32 arithmetic (R49) and the random bits of R46 and R47. -/
namespace Sys2Proof.Machine

/-- A decoded number: NaN, an infinity, or plus or minus `m` times 2 to the `e`, exact. -/
inductive Val where
  | nan
  | inf (neg : Bool)
  | fin (neg : Bool) (m : Nat) (e : Int)
deriving DecidableEq, Repr

/-- Rounding of a conversion: to nearest even (R43), or stochastic with its 16 random bits (R45). -/
inductive Rnd where
  | rne
  | sr (r : Nat)
deriving DecidableEq, Repr

/-- Shape of a floating-point element (R31): mantissa bits, bias, magnitude code of the largest finite value, code of infinity,
canonical NaN (R34), weight of the sign bit (0 where the format is unsigned). -/
structure FFmt where
  p : Nat
  bias : Int
  maxCode : Nat
  infCode : Option Nat
  nanCode : Nat
  sign : Nat
deriving DecidableEq, Repr

def FFmt.f32 : FFmt := ⟨23, 127, 0x7F7FFFFF, some 0x7F800000, 0x7FC00000, 2 ^ 31⟩
def FFmt.bf16 : FFmt := ⟨7, 127, 0x7F7F, some 0x7F80, 0x7FC0, 2 ^ 15⟩
def FFmt.f16 : FFmt := ⟨10, 15, 0x7BFF, some 0x7C00, 0x7E00, 2 ^ 15⟩
def FFmt.e4m3 : FFmt := ⟨3, 7, 0x7E, none, 0x7F, 2 ^ 7⟩
def FFmt.e5m2 : FFmt := ⟨2, 15, 0x7B, some 0x7C, 0x7E, 2 ^ 7⟩
def FFmt.e3m2 : FFmt := ⟨2, 3, 0x1F, none, 0x1F, 2 ^ 5⟩
def FFmt.e2m3 : FFmt := ⟨3, 1, 0x1F, none, 0x1F, 2 ^ 5⟩
def FFmt.e2m1 : FFmt := ⟨1, 1, 0x7, none, 0x7, 2 ^ 3⟩
def FFmt.uf8 : FFmt := ⟨3, 15, 0xFE, none, 0xFF, 0⟩

/-- Element encodings: floating point, or a two's complement integer of `w` bits. -/
inductive Enc where
  | flt (f : FFmt)
  | int (w : Nat)
deriving DecidableEq, Repr

/-- The element encoding of a format code of R31 (FP32 for the reserved code, which no descriptor that passes R127 names). -/
def fmtEnc (c : Nat) : Enc :=
  match c with
  | 0 => .flt .f32
  | 1 => .flt .bf16
  | 2 => .flt .f16
  | 3 | 5 => .flt .e4m3
  | 4 | 6 => .flt .e5m2
  | 7 => .flt .e3m2
  | 8 => .flt .e2m3
  | 9 => .flt .e2m1
  | 0xA => .int 8
  | 0xB => .int 8
  | 0xC => .int 4
  | 0xD => .int 32
  | 0xE => .flt .uf8
  | _ => .flt .f32

/-- Bits an element takes (R35). -/
def fmtBits (c : Nat) : Nat :=
  match c with
  | 0 | 0xD => 32
  | 1 | 2 => 16
  | 7 | 8 => 6
  | 9 | 0xC => 4
  | _ => 8

/-- Whether a format has block scales (R31, R32). -/
def fmtBlocked (c : Nat) : Bool := (5 ≤ c && c ≤ 0xA) || c == 0xE

/-- emax of R31. -/
def fmtEmax (c : Nat) : Int :=
  match c with
  | 0 | 1 => 127
  | 2 | 4 | 6 => 15
  | 3 | 5 => 8
  | 7 => 4
  | 8 | 9 => 2
  | 0xE => 16
  | _ => 0

/-- floor(log2 |x|) of a nonzero finite value. -/
def flog2 (m : Nat) (e : Int) : Int := (Nat.log2 m : Int) + e

/-- `m` times 2 to the `e`, in units of 2 to the `l`, rounded (R43, R45). -/
def roundAt (r : Rnd) (m : Nat) (e l : Int) : Nat :=
  if l ≤ e then m * 2 ^ (e - l).toNat
  else
    let k := (l - e).toNat
    let q := m / 2 ^ k
    let rem := m % 2 ^ k
    match r with
    | .rne => if 2 * rem < 2 ^ k then q else if 2 * rem > 2 ^ k then q + 1 else q + q % 2
    | .sr n => if rem * 2 ^ 16 / 2 ^ k + n ≥ 2 ^ 16 then q + 1 else q

/-- The magnitude code to which a nonzero finite magnitude rounds, the exponent range taken as unbounded above (R38, R48). -/
def magCode (f : FFmt) (r : Rnd) (m : Nat) (e : Int) : Nat :=
  let l := max (flog2 m e) (1 - f.bias) - f.p
  (l - (1 - f.bias - f.p)).toNat * 2 ^ f.p + roundAt r m e l

/-- Decodes an element of a floating-point encoding. -/
def decFlt (f : FFmt) (code : Nat) : Val :=
  let neg := f.sign != 0 && code / f.sign % 2 == 1
  let mag := if f.sign = 0 then code else code % f.sign
  if some mag = f.infCode then .inf neg
  else if mag > f.maxCode then .nan
  else
    let x := mag / 2 ^ f.p
    let t := mag % 2 ^ f.p
    if x = 0 then .fin neg t (1 - f.bias - f.p) else .fin neg (2 ^ f.p + t) (x - f.bias - f.p)

/-- An exact integer. -/
def Val.ofInt (i : Int) : Val := .fin (decide (i < 0)) i.natAbs 0

/-- Decodes an element code of format `c`; MXINT8 counts in units of 2 to the −6 (R31). -/
def decElem (c code : Nat) : Val :=
  match fmtEnc c with
  | .flt f => decFlt f code
  | .int w =>
    let v := sext w code
    if c = 0xA then .fin (decide (v < 0)) v.natAbs (-6) else .ofInt v

/-- A value times 2 to the `k`, exact. -/
def Val.scale (v : Val) (k : Int) : Val :=
  match v with
  | .fin s m e => .fin s m (e + k)
  | x => x

/-- A block scale applied (R32). -/
def withScale (sc : Nat) (v : Val) : Val := if sc = 0xFF then .nan else v.scale ((sc : Int) - 127)

def Val.isNan : Val → Bool
  | .nan => true
  | _ => false

def Val.isInf : Val → Bool
  | .inf _ => true
  | _ => false

def Val.isZero : Val → Bool
  | .fin _ 0 _ => true
  | _ => false

def Val.negative : Val → Bool
  | .fin n _ _ => n
  | .inf n => n
  | .nan => false

/-- FP32 encoding of a value: round to nearest even, overflow to infinity (R49). A value above the largest finite one by less than half an ulp
rounds to that one, also where R61 says infinity (DEDUCED, log entry 121). -/
def toF32 (v : Val) : F32 :=
  match v with
  | .nan => 0x7FC00000
  | .inf n => if n then 0xFF800000 else 0x7F800000
  | .fin n m e =>
    let c := if m = 0 then 0 else min (magCode .f32 .rne m e) 0x7F800000
    BitVec.ofNat 32 (c + if n then 2 ^ 31 else 0)

def ofF32 (x : F32) : Val := decFlt .f32 x.toNat

def f32Nan : F32 := 0x7FC00000
def f32Zero : F32 := 0
def f32One : F32 := 0x3F800000

/-! ## Exact arithmetic, then one rounding (R49) -/

def Val.neg : Val → Val
  | .nan => .nan
  | .inf n => .inf !n
  | .fin n m e => .fin (!n) m e

def Val.abs : Val → Val
  | .nan => .nan
  | .inf _ => .inf false
  | .fin _ m e => .fin false m e

/-- Signed mantissa of a finite value in units of 2 to the `l`, for `l` at most its exponent. -/
def mant (n : Bool) (m : Nat) (e l : Int) : Int :=
  let x : Int := (m * 2 ^ (e - l).toNat : Nat)
  if n then -x else x

/-- Exact sum; a zero sum of opposite signs is +0 (IEEE 754 under round to nearest). -/
def Val.add (a b : Val) : Val :=
  match a, b with
  | .nan, _ => .nan
  | _, .nan => .nan
  | .inf x, .inf y => if x = y then .inf x else .nan
  | .inf x, _ => .inf x
  | _, .inf y => .inf y
  | .fin n m e, .fin n' m' e' =>
    let l := min e e'
    let s := mant n m e l + mant n' m' e' l
    if s = 0 then .fin (n && n') 0 l else .fin (decide (s < 0)) s.natAbs l

def Val.mul (a b : Val) : Val :=
  match a, b with
  | .nan, _ => .nan
  | _, .nan => .nan
  | .inf x, .inf y => .inf (xor x y)
  | .inf x, .fin n m _ => if m = 0 then .nan else .inf (xor x n)
  | .fin n m _, .inf y => if m = 0 then .nan else .inf (xor n y)
  | .fin n m e, .fin n' m' e' => .fin (xor n n') (m * m') (e + e')

/-- Quotient, exact to a sticky bit below 60 bits (correctly rounded by `toF32`). -/
def Val.div (a b : Val) : Val :=
  match a, b with
  | .nan, _ => .nan
  | _, .nan => .nan
  | .inf _, .inf _ => .nan
  | .inf x, .fin n _ _ => .inf (xor x n)
  | .fin n _ _, .inf y => .fin (xor n y) 0 0
  | .fin n m e, .fin n' m' e' =>
    if m' = 0 then (if m = 0 then .nan else .inf (xor n n'))
    else if m = 0 then .fin (xor n n') 0 0
    else
      let num := m * 2 ^ 90
      .fin (xor n n') (2 * (num / m') + if num % m' = 0 then 0 else 1) (e - e' - 91)

/-- Integer square root by `k + 1` binary digits. -/
def isqrtAux (n : Nat) : Nat → Nat → Nat
  | 0, r => if (r + 1) * (r + 1) ≤ n then r + 1 else r
  | k + 1, r => isqrtAux n k (if (r + 2 ^ (k + 1)) * (r + 2 ^ (k + 1)) ≤ n then r + 2 ^ (k + 1) else r)

def isqrt (n : Nat) : Nat := isqrtAux n 70 0

/-- Square root, exact to a sticky bit. -/
def Val.sqrt (a : Val) : Val :=
  match a with
  | .nan => .nan
  | .inf n => if n then .nan else .inf false
  | .fin n m e =>
    if m = 0 then .fin n 0 e
    else if n then .nan
    else
      let odd := decide (e % 2 ≠ 0)
      let m' := (if odd then 2 * m else m) * 2 ^ 60
      let e' := (if odd then e - 1 else e) - 60
      let q := isqrt m'
      .fin false (2 * q + if q * q = m' then 0 else 1) (e' / 2 - 1)

/-- −1, 0, 1 as `a` is below, equal to or above `b`; `none` with a NaN. -0 equals +0. -/
def Val.cmp (a b : Val) : Option Int :=
  match a, b with
  | .nan, _ => none
  | _, .nan => none
  | .inf x, .inf y => some (if x = y then 0 else if x then -1 else 1)
  | .inf x, _ => some (if x then -1 else 1)
  | _, .inf y => some (if y then 1 else -1)
  | .fin n m e, .fin n' m' e' =>
    let l := min e e'
    let s := mant n m e l - mant n' m' e' l
    some (if s < 0 then -1 else if s = 0 then 0 else 1)

/-- Largest of two, NaN propagating, +0 above -0 (log entry 14). -/
def Val.max (a b : Val) : Val :=
  match a.cmp b with
  | none => .nan
  | some c => if c > 0 then a else if c < 0 then b else if a.negative then b else a

/-- Smallest of two, NaN propagating, -0 below +0 (log entry 14). -/
def Val.min (a b : Val) : Val :=
  match a.cmp b with
  | none => .nan
  | some c => if c < 0 then a else if c > 0 then b else if a.negative then a else b

def f32Add (a b : F32) : F32 := toF32 ((ofF32 a).add (ofF32 b))
def f32Sub (a b : F32) : F32 := toF32 ((ofF32 a).add (ofF32 b).neg)
def f32Mul (a b : F32) : F32 := toF32 ((ofF32 a).mul (ofF32 b))
def f32Fma (a b c : F32) : F32 := toF32 (((ofF32 a).mul (ofF32 b)).add (ofF32 c))
def f32Div (a b : F32) : F32 := toF32 ((ofF32 a).div (ofF32 b))
def f32Sqrt (a : F32) : F32 := toF32 (ofF32 a).sqrt
def f32Max (a b : F32) : F32 := toF32 ((ofF32 a).max (ofF32 b))
def f32Min (a b : F32) : F32 := toF32 ((ofF32 a).min (ofF32 b))
def f32Cmp (a b : F32) : Option Int := (ofF32 a).cmp (ofF32 b)
def f32Abs (a : F32) : F32 := toF32 (ofF32 a).abs
def f32Neg (a : F32) : F32 := toF32 (ofF32 a).neg
def f32IsNan (a : F32) : Bool := (ofF32 a).isNan
def f32IsInf (a : F32) : Bool := (ofF32 a).isInf
def f32OfInt (i : Int) : F32 := toF32 (.ofInt i)

/-- FP32 rounded once to BF16, as an FP32 value; overflow to infinity (R81, R49). -/
def bf16Round (r : Rnd) (x : F32) : F32 :=
  match ofF32 x with
  | .fin n m e =>
    if m = 0 then x
    else BitVec.ofNat 32 (min (magCode .bf16 r m e) 0x7F80 * 2 ^ 16 + if n then 2 ^ 31 else 0)
  | v => toF32 v

/-! ## Conversion into a stored format -/

/-- The numeric events of R51. -/
structure Ev where
  nan : Nat := 0
  inf : Nat := 0
  sat : Nat := 0
  nanScale : Nat := 0
  negUf8 : Nat := 0
deriving DecidableEq, Repr

def Ev.add (a b : Ev) : Ev := ⟨a.nan + b.nan, a.inf + b.inf, a.sat + b.sat, a.nanScale + b.nanScale, a.negUf8 + b.negUf8⟩

/-- Nearest or stochastic integer of a finite value's magnitude in units of 2 to the `l`. -/
def intMag (r : Rnd) (m : Nat) (e l : Int) : Nat := roundAt r m e l

/-- Converts a value into an unblocked format (R38, R43, R45, R48, R50): element code and event. -/
def convElem (c : Nat) (r : Rnd) (v : Val) : Nat × Ev :=
  match fmtEnc c with
  | .flt f =>
    match v with
    | .nan => (f.nanCode, { nan := 1 })
    | .inf n =>
      match f.infCode with
      | some i => (i + if n then f.sign else 0, { inf := 1 })
      | none => (f.nanCode, { inf := 1 })
    | .fin n m e =>
      let s := if n then f.sign else 0
      if m = 0 then (s, {})
      else
        let k := magCode f r m e
        if k > f.maxCode then (f.maxCode + s, { sat := 1 }) else (k + s, {})
  | .int w =>
    match v with
    | .nan => (0, { nan := 1 })
    | .inf n => (if n then 2 ^ (w - 1) else 2 ^ (w - 1) - 1, { inf := 1 })
    | .fin n m e =>
      let k := intMag r m e 0
      if n then
        (if k > 2 ^ (w - 1) then (2 ^ (w - 1), { sat := 1 }) else (wrapInt w (-(k : Int)), {}))
      else (if k > 2 ^ (w - 1) - 1 then (2 ^ (w - 1) - 1, { sat := 1 }) else (k, {}))

/-- The code of a NaN element of a blocked format (R31, R34): the canonical one where the elements have a NaN; which code stands for it in a
block of scale 0xFF is otherwise open (log entry 122). -/
def nanElem (c : Nat) : Nat :=
  match c with
  | 5 => 0x7F
  | 6 => 0x7E
  | 0xE => 0xFF
  | _ => (Config.nanElem (BitVec.ofNat 4 c)).toNat

/-- The code of an infinite element of a blocked format: the infinity of E5M2 elements, else a NaN (R31, R50). -/
def infElem (c : Nat) (neg : Bool) : Nat := if c = 6 then (if neg then 0xFC else 0x7C) else nanElem c

/-- Converts one scaled element of a block (R37, R38): clipping counts nothing (R51). A negative value into MXUF8 gives 0 (R50). -/
def convScaled (c : Nat) (r : Rnd) (v : Val) : Nat :=
  match fmtEnc c with
  | .flt f =>
    match v with
    | .fin n m e =>
      if n && f.sign == 0 then 0
      else
        let s := if n then f.sign else 0
        if m = 0 then s else min (magCode f r m e) f.maxCode + s
    | .nan => nanElem c
    | .inf n => infElem c n
  | .int w =>
    match v with
    | .fin n m e =>
      let k := min (intMag r m e (-6)) (2 ^ (w - 1) - 1)
      if n then wrapInt w (-(k : Int)) else k
    | .nan => nanElem c
    | .inf n => infElem c n

/-- floor(log2 amax) of a block of finite values, `none` where all are zero. -/
def amaxExp : List Val → Option Int
  | [] => none
  | .fin _ m e :: t =>
    if m = 0 then amaxExp t
    else match amaxExp t with
      | none => some (flog2 m e)
      | some x => some (Max.max x (flog2 m e))
  | _ :: t => amaxExp t

/-- The scale code of a block (R37). A result of 255, which R37 says never arises, is taken as it is and makes the block NaN (DESIGN CHOICE, log entry
149). -/
def scaleCode (c : Nat) (xs : List Val) : Nat :=
  if xs.any (fun v => v.isNan || v.isInf) then 0xFF
  else match amaxExp xs with
    | none => 0
    | some x => (x - fmtEmax c + 127).toNat

/-- An element that a conversion takes: its value, its rounding, and whether its events count (an inactive lane's do not, R90). -/
structure Elt where
  v : Val
  r : Rnd
  counts : Bool
deriving DecidableEq, Repr

/-- A negative finite value other than zero. -/
def Val.negFin : Val → Bool
  | .fin true m _ => m != 0
  | _ => false

/-- Converts a block into an MX format or MXUF8 (R37, R38, R50): scale code, element codes of the present elements, events. -/
def convBlock (c : Nat) (xs : List Elt) : Nat × List Nat × Ev :=
  let sc := scaleCode c (xs.map (·.v))
  let ev : Ev :=
    { nan := xs.countP (fun x => x.counts && x.v.isNan), inf := xs.countP (fun x => x.counts && x.v.isInf),
      nanScale := if sc = 0xFF then 1 else 0, negUf8 := if c = 0xE then xs.countP (fun x => x.counts && x.v.negFin) else 0 }
  (sc, xs.map (fun x => convScaled c x.r (x.v.scale (127 - (sc : Int)))), ev)

/-- Packs element codes of `w` bits, the first in the least significant bits (R35). -/
def packCodes (w : Nat) : List Nat → Nat
  | [] => 0
  | c :: t => c % 2 ^ w + 2 ^ w * packCodes w t

/-- The bytes of a block of 32 elements (R35); absent elements are stored as zero (R36). -/
def blockBytes (c : Nat) (codes : List Nat) : List Byte := leBytes (4 * fmtBits c) (packCodes (fmtBits c) codes)

/-- Bytes of a block in the element plane (R126). -/
def fmtBlockBytes (c : Nat) : Nat := 4 * fmtBits c

/-! ## Random bits (R46, R47) -/

/-- One Philox4x32 round. -/
def philoxRound (c : Nat × Nat × Nat × Nat) (k : Nat × Nat) : Nat × Nat × Nat × Nat :=
  let p0 := 0xD2511F53 * c.1
  let p1 := 0xCD9E8D57 * c.2.2.1
  (Nat.xor (Nat.xor (p1 / 2 ^ 32) c.2.1) k.1, p1 % 2 ^ 32, Nat.xor (Nat.xor (p0 / 2 ^ 32) c.2.2.2) k.2, p0 % 2 ^ 32)

def philoxGo : Nat → (Nat × Nat × Nat × Nat) → (Nat × Nat) → Nat × Nat × Nat × Nat
  | 0, c, _ => c
  | n + 1, c, k => philoxGo n (philoxRound c k) ((k.1 + 0x9E3779B9) % 2 ^ 32, (k.2 + 0xBB67AE85) % 2 ^ 32)

/-- Philox4x32-10 under the standard constants (R46). -/
def philox (ctr : Nat × Nat × Nat × Nat) (key : Nat × Nat) : Nat × Nat × Nat × Nat := philoxGo 10 ctr key

/-- What keys the random bits of a conversion beside the element index (R46). -/
structure RndKey where
  seed : W64
  tensor : BitVec 16
  source : Nat
  part : Nat
  hop : Nat
  step : W64
deriving DecidableEq, Repr

/-- The 16 random bits of element `i` (R46, R47). -/
def randBits (k : RndKey) (i : Nat) : Nat :=
  let g := i / 8
  let c1 := k.tensor.toNat * 2 ^ 16 + g / 2 ^ 32 % 2 ^ 16
  let c2 := k.source % 16 * 2 ^ 28 + k.part % 16 * 2 ^ 24 + k.hop % 256 * 2 ^ 16
  let r := philox (g % 2 ^ 32, c1, c2, bits k.step 31 0) (bits k.seed 31 0, bits k.seed 63 32)
  let j := i % 8
  let w := match j / 2 with
    | 0 => r.1
    | 1 => r.2.1
    | 2 => r.2.2.1
    | _ => r.2.2.2
  if j % 2 = 0 then w % 2 ^ 16 else w / 2 ^ 16

/-! ## Checksums -/

/-- One bit step of CRC-32C, reflected. -/
def crcBit (r : Nat) : Nat := if r % 2 = 1 then Nat.xor (r / 2) 0x82F63B78 else r / 2

def crcByte (r : Nat) (b : Byte) : Nat :=
  let x := Nat.xor r b.toNat
  crcBit (crcBit (crcBit (crcBit (crcBit (crcBit (crcBit (crcBit x)))))))

/-- CRC-32C of a byte string. -/
def crc32c (l : List Byte) : Nat := Nat.xor (l.foldl crcByte 0xFFFFFFFF) 0xFFFFFFFF

end Sys2Proof.Machine
end

