-- ==== Sys2Proof/Machine/Regs.lean ====
section
/-! DEFINITION. The control space (spec/18): the offset of every register, its field map with access codes and reset
values, and the generic effect of a read and of a write under R7 and R8. -/
namespace Sys2Proof.Machine

/-- Access codes of R7. -/
inductive Acc where
  | ro | rw | w1c | w1s | rc | wo
deriving DecidableEq, Repr

/-- A field of a register: [hi:lo], access code and reset value (R9). Bits of no field are reserved (R8). -/
structure Fld where
  hi : Nat
  lo : Nat
  acc : Acc
  rst : Nat
deriving DecidableEq, Repr

/-! ## Offsets from 0x0300_0000_0000 (R442 to R453) -/
namespace R

/-- Offset `o` of partition block `p`. -/
def part (p : PartId) (o : Nat) : Nat := 0x100000 + p.val * 0x10000 + o

def seqCtrl (p : PartId) (x : Seq) : Nat := part p (0x20 * x.num)
def seqPc (p : PartId) (x : Seq) : Nat := part p (0x8 + 0x20 * x.num)
def seqStatus (p : PartId) (x : Seq) : Nat := part p (0x10 + 0x20 * x.num)
def seqFaultPc (p : PartId) (x : Seq) : Nat := part p (0x18 + 0x20 * x.num)
def arrayStatus (p : PartId) (a : Fin 2) : Nat := part p (0x60 + 8 * a.val)
def vecStatus (p : PartId) : Nat := part p 0x70
def scalarStatus (p : PartId) : Nat := part p 0x78
def bwdStatus (p : PartId) : Nat := part p 0x80
def memPin (p : PartId) : Nat := part p 0x88
def eccStatus (p : PartId) : Nat := part p 0x90
def memTrain (p : PartId) : Nat := part p 0x98
def updStatus (p : PartId) (c : Fin 4) : Nat := part p (0xA0 + 8 * c.val)
def updOpen (p : PartId) (c : Fin 4) : Nat := part p (0xC0 + 8 * c.val)
def updWatch (p : PartId) : Nat := part p 0xE0
def armInstall (p : PartId) : Nat := part p 0xE8
def armStatus (p : PartId) : Nat := part p 0xF0
def collNoise (p : PartId) : Nat := part p 0xF8
def mbPolicy (p : PartId) : Nat := part p 0x100
def kvStatus (p : PartId) (e : Fin 2) : Nat := part p (0x108 + 8 * e.val)
def plogRing (p : PartId) : Nat := part p 0x118
def plogMirror (p : PartId) : Nat := part p 0x120
def plogCtrl (p : PartId) : Nat := part p 0x128
def plogPos (p : PartId) : Nat := part p 0x130
def castCtrl (p : PartId) : Nat := part p 0x138
def castStatus (p : PartId) : Nat := part p 0x140
def restoreCtrl (p : PartId) : Nat := part p 0x148
def maqCtrl (p : PartId) : Nat := part p 0x150
def queueCfg (p : PartId) : Nat := part p 0x158
def queueCfgStatus (p : PartId) : Nat := part p 0x160
def qNext (p : PartId) : Nat := part p 0x168
def qRetire (p : PartId) : Nat := part p 0x170
def prstCtrl (p : PartId) : Nat := part p 0x178
def prstStatus (p : PartId) : Nat := part p 0x180
def wdogCfg (p : PartId) : Nat := part p 0x188
def faultHead (p : PartId) : Nat := part p 0x190
def clkCycles (p : PartId) : Nat := part p 0x198
def clkStretch (p : PartId) : Nat := part p 0x1A0
def sfuSlot (p : PartId) (n : Nat) : Nat := part p (0x200 + 8 * (n % 32))
def faultRec (p : PartId) (n k : Nat) : Nat := part p (0x800 + 32 * (n % 64) + 8 * (k % 4))
def syncCnt (p : PartId) (c : Nat) : Nat := part p (0x1000 + 8 * (c % 512))
def wsbBase (p : PartId) (e : Nat) : Nat := part p (0x2000 + 32 * (e % 64))
def wsbCtrl (p : PartId) (e : Nat) : Nat := part p (0x2008 + 32 * (e % 64))
def wsbTag (p : PartId) (e : Nat) : Nat := part p (0x2010 + 32 * (e % 64))
def wsbRefadj (p : PartId) (e : Nat) : Nat := part p (0x2018 + 32 * (e % 64))
def qIdx (p : PartId) (q : Nat) : Nat := part p (0x4000 + 8 * (q % 1024))
def qComp (p : PartId) (q : Nat) : Nat := part p (0x6000 + 8 * (q % 1024))
def numCnt (p : PartId) (l k : Nat) : Nat := part p (0x8000 + 24 * (l % 1024) + 8 * (k % 3))

def idPart : Nat := 0x0
def idModule : Nat := 0x8
def idLocal : Nat := 0x10
def idFuse (n : Nat) : Nat := 0x20 + 8 * (n % 4)
def idHash (n : Nat) : Nat := 0x40 + 8 * (n % 8)
def secStatus : Nat := 0x10000
def dbgCtrl : Nat := 0x10008
def dbgStatus : Nat := 0x10010
def dbgChal (k : Nat) : Nat := 0x10018 + 8 * (k % 2)
def bootStatus : Nat := 0x10028
def fwCmd : Nat := 0x10030
def fwStatus : Nat := 0x10038
def fwStageSel : Nat := 0x10040
def secBuf (n : Nat) : Nat := 0x10800 + 8 * (n % 176)
def fwStage (n : Nat) : Nat := 0x18000 + 8 * (n % 4096)
def tenCfg (t : TenantId) : Nat := 0x20000 + 24 * t.val
def tenLif (t : TenantId) : Nat := 0x20008 + 24 * t.val
def tenLim (t : TenantId) : Nat := 0x20010 + 24 * t.val
def ethPortCfg : Nat := 0x30000
def ethInjSeed : Nat := 0x30008
def msecCommit : Nat := 0x30010
def serdesCtrl : Nat := 0x30018
def ethMacCfg (m : Fin 8) : Nat := 0x30100 + 8 * m.val
def ethMacStatus (m : Fin 8) : Nat := 0x30140 + 8 * m.val
def ethInj (m : Fin 8) : Nat := 0x30180 + 8 * m.val
def ethCnt (m : Fin 8) (k : Nat) : Nat := 0x34000 + 0x200 * m.val + 8 * (k % 35)
def msecSa (j : Nat) : Nat := 0x31000 + 8 * (j % 16)
def lifIp0 (k : Nat) : Nat := 0x32000 + 64 * (k % 128)
def lifIp1 (k : Nat) : Nat := 0x32008 + 64 * (k % 128)
def lifNh (k : Nat) : Nat := 0x32010 + 64 * (k % 128)
def lifMac (k : Nat) : Nat := 0x32018 + 64 * (k % 128)
def lifCfg (k : Nat) : Nat := 0x32020 + 64 * (k % 128)
def tpCfg : Nat := 0x40000
def tpCc : Nat := 0x40008
def tpCnt (k : Nat) : Nat := 0x40100 + 8 * (k % 23)
def tpInj (n : Fin 4) : Nat := 0x40200 + 8 * n.val
def rlyIp0 (k : Nat) : Nat := 0x40400 + 24 * (k % 64)
def rlyIp1 (k : Nat) : Nat := 0x40408 + 24 * (k % 64)
def rlyCfg (k : Nat) : Nat := 0x40410 + 24 * (k % 64)
def winBase (t : TenantId) (w : Nat) : Nat := 0x44000 + 0x400 * t.val + 16 * (w % 64)
def winCtrl (t : TenantId) (w : Nat) : Nat := 0x44008 + 0x400 * t.val + 16 * (w % 64)
def mbox (k : Nat) : Nat := 0x50000 + 8 * (k % 320)
def mboxFull (j : Nat) : Nat := 0x50A00 + 8 * (j % 5)
def mboxAcl (j : Nat) : Nat := 0x50A40 + 8 * (j % 16)
def jrnHead (t : TenantId) : Nat := 0x60000 + 8 * t.val
def jrnExport : Nat := 0x60080
def collEpoch (t : TenantId) : Nat := 0x70000 + 8 * t.val
def collDrops : Nat := 0x70080
def rubCfg : Nat := 0x80000
def rubStatus : Nat := 0x80008
def resTable : Nat := 0x80010
def incStatus : Nat := 0x80018
def rubWin : Nat := 0x80020
def rubExp (t : TenantId) : Nat := 0x80100 + 8 * t.val
def incDest (t : TenantId) : Nat := 0x80180 + 8 * t.val
def incIp0 (t : TenantId) : Nat := 0x80200 + 16 * t.val
def incIp1 (t : TenantId) : Nat := 0x80208 + 16 * t.val
def inc (n k : Nat) : Nat := 0x82000 + 64 * (n % 256) + 8 * (k % 8)
def pwrCap : Nat := 0x90000
def pwrStatus : Nat := 0x90008
def thermStatus : Nat := 0x90010
def indCtrl : Nat := 0x90018
def alertCtrl : Nat := 0x90020

end R

/-! ## Field maps -/

/-- A single field. -/
def f1 (hi lo : Nat) (a : Acc) (r : Nat) : List Fld := [⟨hi, lo, a, r⟩]

/-- A whole-word field with reset 0. -/
def fAll (a : Acc) : List Fld := f1 63 0 a 0

/-- Registers of a partition block below 0x0200 (R138 to R142, R80, R114, R116, R183, R150, R164, R166, R210 to R212, R243,
R244, R247, R248, R263, R289 to R295, R371 to R373, R415 to R417, R454, R17). -/
def partFieldsLow (o : Nat) : List Fld :=
  if o < 0x60 then
    match o % 0x20 with
    | 0x0 => [⟨1, 1, .wo, 0⟩, ⟨0, 0, .wo, 0⟩]
    | 0x8 => f1 47 3 .rw 0
    | 0x10 => [⟨63, 56, .ro, 0⟩, ⟨55, 52, .ro, 0⟩, ⟨51, 49, .ro, 0⟩, ⟨48, 43, .ro, 0⟩, ⟨42, 34, .ro, 0⟩, ⟨31, 28, .ro, 0⟩,
        ⟨27, 1, .ro, 0⟩, ⟨0, 0, .w1c, 0⟩]
    | 0x18 => f1 47 3 .ro 0
    | _ => []
  else match o with
    | 0x60 | 0x68 => [⟨45, 25, .ro, 0⟩, ⟨24, 4, .ro, 0⟩, ⟨3, 3, .ro, 0⟩, ⟨2, 2, .ro, 0⟩, ⟨1, 1, .w1c, 0⟩, ⟨0, 0, .w1c, 0⟩]
    | 0x70 => [⟨49, 44, .ro, 0⟩, ⟨43, 38, .ro, 0⟩, ⟨37, 34, .ro, 0⟩, ⟨33, 32, .ro, 0⟩, ⟨31, 16, .rc, 0⟩, ⟨7, 7, .w1c, 0⟩,
        ⟨6, 6, .w1c, 0⟩, ⟨5, 5, .w1c, 0⟩, ⟨4, 4, .w1c, 0⟩, ⟨3, 3, .w1c, 0⟩, ⟨2, 2, .ro, 0⟩, ⟨0, 0, .w1c, 0⟩]
    | 0x78 => [⟨39, 34, .ro, 0⟩, ⟨33, 28, .ro, 0⟩, ⟨27, 22, .ro, 0⟩, ⟨15, 0, .rc, 0⟩]
    | 0x80 => [⟨63, 48, .rc, 0⟩, ⟨47, 32, .rc, 0⟩, ⟨31, 8, .rc, 0⟩, ⟨0, 0, .w1c, 0⟩]
    | 0x88 => [⟨47, 40, .rw, 0x20⟩, ⟨32, 32, .rw, 0⟩, ⟨7, 0, .ro, 0x40⟩]
    | 0x90 => [⟨63, 48, .rc, 0⟩, ⟨47, 32, .rc, 0⟩, ⟨31, 16, .rc, 0⟩, ⟨7, 2, .w1c, 0⟩]
    | 0x98 => [⟨31, 28, .wo, 0⟩, ⟨27, 24, .ro, 0⟩, ⟨23, 20, .w1c, 0⟩, ⟨15, 0, .ro, 0⟩]
    | 0xA0 | 0xA8 | 0xB0 | 0xB8 =>
      [⟨63, 56, .ro, 0⟩, ⟨55, 52, .ro, 0⟩, ⟨47, 16, .ro, 0⟩, ⟨7, 5, .w1c, 0⟩, ⟨0, 0, .w1c, 0⟩]
    | 0xC0 | 0xC8 | 0xD0 | 0xD8 => [⟨63, 63, .w1c, 0⟩, ⟨62, 62, .ro, 0⟩, ⟨47, 6, .ro, 0⟩]
    | 0xE0 => f1 47 15 .rw 0
    | 0xE8 => [⟨63, 63, .wo, 0⟩, ⟨62, 62, .rw, 0⟩, ⟨47, 6, .rw, 0⟩]
    | 0xF0 => [⟨63, 56, .ro, 0⟩, ⟨55, 52, .ro, 0⟩, ⟨32, 32, .w1c, 0⟩, ⟨31, 0, .ro, 0⟩]
    | 0xF8 => f1 47 15 .rw 0
    | 0x100 => [⟨63, 48, .rw, 0xFFFF⟩, ⟨47, 32, .rw, 1⟩, ⟨31, 16, .rw, 1⟩, ⟨0, 0, .w1c, 0⟩]
    | 0x108 | 0x110 => [⟨63, 47, .ro, 0⟩, ⟨46, 30, .ro, 0⟩, ⟨29, 13, .ro, 0⟩, ⟨9, 9, .ro, 0⟩, ⟨8, 8, .ro, 0⟩, ⟨0, 0, .w1c, 0⟩]
    | 0x118 | 0x120 => [⟨63, 58, .rw, 0⟩, ⟨47, 6, .rw, 0⟩]
    | 0x128 => [⟨63, 63, .rw, 0⟩, ⟨62, 51, .rw, 0⟩, ⟨50, 42, .rw, 0⟩, ⟨33, 33, .w1c, 0⟩, ⟨32, 32, .w1c, 0⟩, ⟨31, 0, .rw, 0⟩]
    | 0x130 => [⟨63, 32, .rw, 0⟩, ⟨31, 0, .ro, 0⟩]
    | 0x138 => [⟨63, 56, .rw, 16⟩, ⟨55, 28, .rw, 0⟩, ⟨27, 0, .rw, 0⟩]
    | 0x140 => [⟨63, 32, .rc, 0⟩, ⟨31, 16, .rc, 0⟩, ⟨15, 0, .rc, 0⟩]
    | 0x148 => [⟨63, 63, .wo, 0⟩, ⟨62, 60, .rw, 0⟩, ⟨59, 56, .ro, 0⟩, ⟨47, 12, .rw, 0⟩, ⟨11, 4, .ro, 0⟩]
    | 0x150 => [⟨63, 63, .wo, 0⟩, ⟨62, 62, .ro, 0⟩, ⟨61, 61, .w1c, 0⟩, ⟨60, 52, .rw, 0⟩, ⟨47, 12, .rw, 0⟩, ⟨11, 4, .ro, 0⟩]
    | 0x158 => [⟨63, 63, .wo, 0⟩, ⟨62, 61, .rw, 0⟩, ⟨60, 51, .rw, 0⟩, ⟨47, 6, .rw, 0⟩]
    | 0x160 => [⟨63, 56, .ro, 0⟩, ⟨55, 55, .w1c, 0⟩, ⟨54, 54, .w1c, 0⟩, ⟨9, 0, .ro, 0⟩]
    | 0x168 => [⟨63, 63, .ro, 0⟩, ⟨11, 10, .ro, 0⟩, ⟨9, 0, .ro, 0⟩]
    | 0x170 => [⟨63, 56, .wo, 0⟩, ⟨55, 46, .wo, 0⟩, ⟨15, 0, .wo, 0⟩]
    | 0x178 => f1 63 56 .wo 0
    | 0x180 => [⟨63, 52, .ro, 0⟩, ⟨51, 48, .ro, 0⟩, ⟨47, 40, .ro, 0⟩, ⟨39, 39, .w1c, 0⟩, ⟨38, 35, .w1c, 0⟩, ⟨34, 31, .ro, 0⟩,
        ⟨30, 16, .ro, 0⟩, ⟨15, 0, .rc, 0⟩]
    | 0x188 => [⟨63, 59, .rw, 22⟩, ⟨58, 54, .rw, 22⟩, ⟨53, 49, .rw, 24⟩, ⟨48, 44, .rw, 22⟩, ⟨43, 39, .rw, 22⟩, ⟨38, 34, .rw, 22⟩,
        ⟨33, 29, .rw, 22⟩]
    | 0x190 => f1 31 0 .ro 0
    | 0x198 => fAll .ro
    | 0x1A0 => f1 47 0 .ro 0
    | _ => []

/-- Registers of a partition block (R453, R115, R410, R142, R159 to R161, R369, R370, R455). -/
def partFields (o : Nat) : List Fld :=
  if o < 0x200 then partFieldsLow o
  else if o < 0x300 then f1 32 0 .ro 0
  else if o < 0x800 then []
  else if o < 0x1000 then fAll .ro
  else if o < 0x2000 then f1 31 0 .rw 0
  else if o < 0x2800 then
    match o % 32 with
    | 0 => f1 47 12 .rw 0
    | 8 => [⟨63, 32, .rw, 0⟩, ⟨25, 24, .ro, 0⟩, ⟨16, 16, .ro, 0⟩, ⟨15, 0, .ro, 0⟩]
    | 16 => f1 63 0 .ro 0xFFFFFFFFFFFFFFFF
    | 24 => f1 15 0 .wo 0
    | _ => []
  else if o < 0x4000 then []
  else if o < 0x6000 then [⟨63, 32, .ro, 0⟩, ⟨31, 0, .rw, 0⟩]
  else if o < 0x8000 then [⟨63, 32, .ro, 0⟩, ⟨31, 0, .ro, 0⟩]
  else if o < 0xE000 then
    if (o - 0x8000) % 24 = 16 then f1 63 32 .rc 0 else [⟨63, 32, .rc, 0⟩, ⟨31, 0, .rc, 0⟩]
  else []

/-- Identity, boot and security, and tenant table blocks (R443 to R446, R396 to R398, R435 to R437, R378). -/
def headFields (o : Nat) : List Fld :=
  if o < 0x10000 then
    if o = 0 then [⟨47, 40, .ro, 0x40⟩, ⟨39, 32, .ro, 0x16⟩, ⟨31, 24, .ro, 0⟩]
    else if o = 8 then f1 31 0 .ro 0
    else if o = 0x10 then fAll .ro
    else if 0x20 ≤ o ∧ o < 0x80 then fAll .ro
    else []
  else if o < 0x20000 then
    match o with
    | 0x10000 => [⟨63, 48, .rc, 0⟩, ⟨47, 32, .rc, 0⟩, ⟨31, 16, .ro, 0⟩, ⟨4, 3, .ro, 0⟩, ⟨2, 0, .ro, 0⟩]
    | 0x10008 => [⟨63, 63, .wo, 0⟩, ⟨62, 62, .wo, 0⟩]
    | 0x10010 => [⟨63, 63, .ro, 0⟩, ⟨62, 62, .ro, 0⟩, ⟨55, 48, .ro, 0⟩, ⟨47, 32, .ro, 0⟩]
    | 0x10018 | 0x10020 => fAll .ro
    | 0x10028 => [⟨63, 60, .ro, 0⟩, ⟨59, 56, .ro, 0⟩, ⟨55, 55, .ro, 0⟩, ⟨54, 54, .w1s, 0⟩, ⟨53, 53, .w1s, 0⟩, ⟨52, 52, .ro, 0⟩,
        ⟨51, 51, .ro, 0⟩, ⟨47, 40, .ro, 0⟩, ⟨39, 32, .ro, 0⟩, ⟨31, 24, .ro, 0⟩]
    | 0x10030 => [⟨63, 63, .wo, 0⟩, ⟨62, 59, .rw, 0⟩, ⟨58, 58, .rw, 0⟩, ⟨57, 53, .rw, 0⟩, ⟨52, 37, .rw, 0⟩, ⟨36, 32, .rw, 0⟩,
        ⟨31, 16, .rw, 0⟩]
    | 0x10038 => [⟨63, 56, .ro, 0⟩, ⟨55, 52, .ro, 0⟩, ⟨51, 51, .w1c, 0⟩, ⟨50, 50, .w1c, 0⟩, ⟨49, 49, .ro, 0⟩, ⟨48, 33, .ro, 0⟩,
        ⟨31, 0, .ro, 0⟩]
    | 0x10040 => f1 0 0 .rw 0
    | _ =>
      if 0x10800 ≤ o ∧ o < 0x10800 + 8 * 176 then fAll .wo
      else if 0x18000 ≤ o then fAll .wo
      else []
  else if o < 0x20180 then
    match (o - 0x20000) % 24 with
    | 0 => [⟨63, 63, .rw, 0⟩, ⟨62, 62, .wo, 0⟩, ⟨47, 32, .rw, 0⟩, ⟨31, 20, .rw, 0⟩, ⟨19, 7, .rw, 0⟩]
    | 8 => [⟨63, 56, .rw, 0⟩, ⟨55, 0, .rw, 0⟩]
    | 16 => [⟨63, 48, .rw, 0⟩, ⟨47, 38, .rw, 0⟩, ⟨37, 27, .rw, 0⟩]
    | _ => []
  else []

/-- The Ethernet MAC/PCS block (R447, R315 to R319, R448, R438). -/
def ethFields (o : Nat) : List Fld :=
  if o < 0x30100 then
    match o with
    | 0x30000 => [⟨23, 16, .rw, 0⟩, ⟨15, 8, .rw, 0⟩, ⟨1, 0, .rw, 0⟩]
    | 0x30008 => f1 31 0 .rw 1
    | 0x30010 => f1 0 0 .wo 0
    | 0x30018 => [⟨63, 56, .wo, 0⟩, ⟨55, 48, .ro, 0⟩, ⟨47, 40, .w1c, 0⟩, ⟨15, 0, .ro, 0⟩]
    | _ => []
  else if o < 0x30140 then
    [⟨63, 63, .rw, 0⟩, ⟨62, 62, .rw, 0⟩, ⟨61, 60, .rw, 0⟩, ⟨59, 58, .rw, 0⟩, ⟨57, 57, .rw, 0⟩, ⟨56, 49, .rw, 0x40⟩,
      ⟨48, 41, .rw, 0⟩, ⟨40, 27, .rw, 9216⟩, ⟨26, 16, .rw, 16⟩, ⟨15, 8, .rw, 4⟩]
  else if o < 0x30180 then
    [⟨63, 63, .ro, 0⟩, ⟨62, 62, .ro, 0⟩, ⟨61, 61, .ro, 0⟩, ⟨60, 60, .ro, 0⟩, ⟨59, 52, .ro, 0⟩, ⟨51, 36, .ro, 0⟩, ⟨35, 32, .ro, 0⟩,
      ⟨7, 7, .w1c, 0⟩, ⟨6, 6, .w1c, 0⟩, ⟨0, 0, .w1c, 0⟩]
  else if o < 0x301C0 then
    [⟨63, 62, .rw, 0⟩, ⟨61, 59, .rw, 0⟩, ⟨58, 58, .rw, 0⟩, ⟨57, 57, .rw, 0⟩, ⟨56, 49, .rw, 0⟩, ⟨48, 33, .rw, 0⟩, ⟨32, 29, .rw, 1⟩,
      ⟨28, 14, .rw, 0⟩]
  else if o < 0x31000 then []
  else if o < 0x31080 then fAll .wo
  else if o < 0x32000 then []
  else if o < 0x34000 then
    match o % 64 with
    | 0 | 8 => fAll .rw
    | 16 => f1 47 0 .rw 0
    | 0x18 => [⟨63, 63, .rw, 0⟩, ⟨59, 48, .rw, 0xFFF⟩, ⟨47, 0, .rw, 0⟩]
    | 0x20 => [⟨63, 61, .rw, 0⟩, ⟨60, 53, .rw, 1⟩, ⟨52, 39, .rw, 9216⟩, ⟨38, 27, .rw, 0xC00⟩, ⟨26, 11, .rw, 51430⟩, ⟨10, 10, .rw, 0⟩,
        ⟨9, 9, .rw, 0⟩, ⟨8, 8, .rw, 0⟩]
    | _ => []
  else if o < 0x35000 then (if o % 0x200 < 8 * 35 then fAll .ro else [])
  else []

/-- The transport block (R449, R341 to R346). -/
def tpFields (o : Nat) : List Fld :=
  if o = 0x40000 then
    [⟨63, 48, .rw, 500⟩, ⟨47, 44, .rw, 3⟩, ⟨43, 40, .rw, 4⟩, ⟨39, 32, .rw, 10⟩, ⟨31, 28, .rw, 4⟩, ⟨27, 24, .rw, 8⟩, ⟨23, 16, .rw, 64⟩]
  else if o = 0x40008 then [⟨63, 48, .rw, 40⟩, ⟨47, 40, .rw, 205⟩, ⟨39, 20, .rw, 256⟩, ⟨19, 0, .rw, 2048⟩]
  else if o < 0x40100 then []
  else if o < 0x40100 + 8 * 23 then fAll .ro
  else if o < 0x40200 then []
  else if o < 0x40220 then
    [⟨63, 62, .rw, 0⟩, ⟨61, 60, .rw, 0⟩, ⟨59, 59, .rw, 0⟩, ⟨58, 58, .rw, 0⟩, ⟨57, 42, .rw, 0⟩, ⟨41, 38, .rw, 1⟩, ⟨31, 16, .rw, 0⟩]
  else if o < 0x40400 then []
  else if o < 0x40400 + 24 * 64 then
    match (o - 0x40400) % 24 with
    | 0 | 8 => fAll .rw
    | 16 => [⟨63, 63, .rw, 0⟩, ⟨62, 59, .rw, 0⟩, ⟨58, 52, .rw, 0⟩, ⟨47, 0, .rw, 0⟩]
    | _ => []
  else if o < 0x44000 then []
  else if o < 0x48000 then
    match o % 16 with
    | 0 => f1 47 12 .rw 0
    | 8 => [⟨63, 63, .rw, 0⟩, ⟨62, 62, .rw, 0⟩, ⟨61, 61, .rw, 0⟩, ⟨55, 32, .rw, 0⟩, ⟨31, 0, .wo, 0⟩]
    | _ => []
  else []

/-- Mailbox, journal, armature, faults and power blocks (R450 to R452, R374 to R376, R245, R246, R418 to R422, R467 to R470). -/
def tailFields (o : Nat) : List Fld :=
  if o < 0x50A00 then fAll .rc
  else if o < 0x50A28 then fAll .ro
  else if 0x50A40 ≤ o ∧ o < 0x50AC0 then [⟨63, 48, .rw, 0xFFFF⟩, ⟨47, 32, .rw, 0xFFFF⟩, ⟨31, 16, .rw, 0xFFFF⟩, ⟨15, 0, .rw, 0xFFFF⟩]
  else if o < 0x60000 then []
  else if o < 0x60080 then fAll .ro
  else if o = 0x60080 then [⟨63, 63, .rw, 0⟩, ⟨62, 59, .rw, 0⟩, ⟨47, 19, .rw, 0⟩]
  else if o < 0x70000 then []
  else if o < 0x70080 then [⟨63, 32, .ro, 0⟩, ⟨31, 0, .ro, 0⟩]
  else if o = 0x70080 then [⟨63, 48, .rc, 0⟩, ⟨47, 32, .rc, 0⟩, ⟨31, 16, .rc, 0⟩, ⟨15, 0, .rc, 0⟩]
  else if o < 0x80000 then []
  else if o < 0x80100 then
    match o with
    | 0x80000 => [⟨5, 3, .rw, 0⟩, ⟨2, 1, .rw, 0⟩]
    | 0x80008 => [⟨63, 48, .rc, 0⟩, ⟨47, 32, .rc, 0⟩, ⟨31, 28, .ro, 0⟩, ⟨27, 0, .ro, 0⟩]
    | 0x80010 => fAll .ro
    | 0x80018 => [⟨63, 56, .ro, 0⟩, ⟨55, 40, .rc, 0⟩, ⟨39, 0, .ro, 1⟩]
    | 0x80020 => [⟨5, 5, .ro, 0⟩, ⟨4, 4, .rw, 0⟩, ⟨3, 0, .rw, 0⟩]
    | _ => []
  else if o < 0x80180 then [⟨63, 63, .rw, 0⟩, ⟨47, 22, .rw, 0⟩]
  else if o < 0x80200 then [⟨63, 63, .rw, 0⟩, ⟨62, 60, .rw, 0⟩, ⟨59, 44, .rw, 0⟩]
  else if o < 0x80300 then fAll .rw
  else if o < 0x82000 then []
  else if o < 0x86000 then fAll .ro
  else if o < 0x88000 then []
  else if o < 0x90000 then fAll .ro
  else match o with
    | 0x90000 => [⟨57, 48, .ro, 600⟩, ⟨47, 38, .ro, 600⟩, ⟨37, 28, .ro, 600⟩, ⟨9, 0, .rw, 600⟩]
    | 0x90008 => [⟨63, 48, .ro, 0⟩, ⟨47, 32, .ro, 0⟩, ⟨31, 25, .ro, 64⟩, ⟨3, 0, .w1c, 0⟩]
    | 0x90010 => [⟨63, 56, .ro, 0⟩, ⟨55, 48, .ro, 0⟩, ⟨47, 40, .ro, 0⟩, ⟨3, 0, .w1c, 0⟩]
    | 0x90018 => [⟨3, 3, .rw, 0⟩, ⟨2, 2, .rw, 1⟩, ⟨1, 1, .rw, 0⟩, ⟨0, 0, .rw, 1⟩]
    | 0x90020 => [⟨1, 1, .rw, 0⟩, ⟨0, 0, .rw, 1⟩]
    | _ => []

/-- The field map of the register at a control-space offset; no fields where no register lies (R439). -/
def regFields (o : Nat) : List Fld :=
  if o % 8 ≠ 0 then []
  else if o < 0x30000 then headFields o
  else if o < 0x40000 then ethFields o
  else if o < 0x50000 then tpFields o
  else if o < 0xA0000 then tailFields o
  else if o < 0x100000 then []
  else if o < 0x200000 then partFields (o % 0x10000)
  else []

/-- The reset value of a field map (R9). -/
def fldReset : List Fld → W64
  | [] => 0
  | f :: t => putBits (fldReset t) f.hi f.lo f.rst

/-- The reset value of the register at an offset (R9). A field whose reset entry is "fuse" or "flash" stands here at the value
of an MSD-VZ16-1T or at 0; starting the module loads it (log entry 13). -/
def regReset (o : Nat) : W64 := fldReset (regFields o)

/-- The stored word of the register at an offset. -/
def Dev.reg (d : Dev) (o : Nat) : W64 := Tab.get regReset d.regs o

/-- Stores a register word. -/
def Dev.setReg (d : Dev) (o : Nat) (v : W64) : Dev := { d with regs := Tab.set regReset d.regs o v }

/-- Field [hi:lo] of a register. -/
def Dev.fld (d : Dev) (o hi lo : Nat) : Nat := bits (d.reg o) hi lo

/-- Stores field [hi:lo] of a register. -/
def Dev.setFld (d : Dev) (o hi lo v : Nat) : Dev := d.setReg o (putBits (d.reg o) hi lo v)

/-- Stores bit `i` of a register. -/
def Dev.setFlag (d : Dev) (o i : Nat) (b : Bool) : Dev := d.setReg o (putBit (d.reg o) i b)

/-- Adds to a count field that stops at its largest value. -/
def Dev.bump (d : Dev) (o hi lo n : Nat) : Dev := d.setFld o hi lo (satAdd (hi + 1 - lo) (d.fld o hi lo) n)

/-- Adds to a count field that wraps. -/
def Dev.bumpWrap (d : Dev) (o hi lo n : Nat) : Dev := d.setFld o hi lo (d.fld o hi lo + n)

/-- One field of a register write of `v` over the old word (R7, R8). -/
def writeFld (v old : W64) (f : Fld) : W64 :=
  match f.acc with
  | .rw => putBits old f.hi f.lo (bits v f.hi f.lo)
  | .w1s => putBits old f.hi f.lo (Nat.lor (bits old f.hi f.lo) (bits v f.hi f.lo))
  | .w1c => putBits old f.hi f.lo (Nat.xor (bits old f.hi f.lo) (Nat.land (bits old f.hi f.lo) (bits v f.hi f.lo)))
  | _ => old

/-- A register write of `v` by the access codes (R7, R8): reserved bits and RO, RC and WO fields keep their content. -/
def writeWord (fs : List Fld) (old v : W64) : W64 := fs.foldl (writeFld v) old

/-- What a read returns of a stored word (R7, R8): WO fields and reserved bits read 0. -/
def readWord (fs : List Fld) (w : W64) : W64 :=
  fs.foldl (fun r f => if f.acc = .wo then r else putBits r f.hi f.lo (bits w f.hi f.lo)) 0

/-- What a read leaves of a stored word (R7): RC fields are cleared. -/
def clearRc (fs : List Fld) (w : W64) : W64 :=
  fs.foldl (fun r f => if f.acc = .rc then putBits r f.hi f.lo 0 else r) w

/-- The generic write of a register, without a special effect (R7). -/
def Dev.writeReg (d : Dev) (o : Nat) (v : W64) : Dev := d.setReg o (writeWord (regFields o) (d.reg o) v)

/-- Removes a range of registers: all take their reset values (R9). -/
def Dev.resetRegs (d : Dev) (keep : Nat → Bool) : Dev := { d with regs := d.regs.filter (fun e => keep e.1) }

/-- The capacity of a partition's LPDDR5X in bytes (R1, R150). -/
def Dev.cap (d : Dev) (p : PartId) : Nat := d.fld (R.memPin p) 7 0 * 2 ^ 30

/-- The local count (R20). -/
def Dev.localCount (d : Dev) : W64 := d.reg R.idLocal

/-- The generation tag of a partition (R416). -/
def Dev.gen (d : Dev) (p : PartId) : Nat := d.fld (R.prstStatus p) 63 52

/-- Whether a partition's fence stands (R403): PRST_STATUS.STATE is not 0. -/
def Dev.fenced (d : Dev) (p : PartId) : Bool := d.fld (R.prstStatus p) 51 48 != 0

/-- A tenant that exists (R378). -/
def Dev.tenantValid (d : Dev) (t : TenantId) : Bool := bit (d.reg (R.tenCfg t)) 63

/-- Whether tenant `t` holds partition `p` (R378). -/
def Dev.holds (d : Dev) (t : TenantId) (p : PartId) : Bool := d.tenantValid t && bit (d.reg (R.tenCfg t)) (32 + p.val)

/-- The tenant that holds a partition, if any; the tenant table lets at most one (R379). -/
def Dev.tenantOf (d : Dev) (p : PartId) : Option TenantId := (List.finRange 16).find? (fun t => d.holds t p)

/-- Whether two partitions belong to one tenant (R15). -/
def Dev.sameTenant (d : Dev) (p q : PartId) : Bool :=
  p == q || (match d.tenantOf p with
    | some t => d.holds t q
    | none => false)

end Sys2Proof.Machine
end

