-- ==== Sys2Proof/Machine/Flags.lean ====
section
/-! DEFINITION. Status codes (R368), the counters of numeric events (R51, R455), and the predicate of a wait (R129). -/
namespace Sys2Proof.Machine

/-! ## Status codes (R368) -/
namespace St
def ok : Status := 0x00
def badDescriptor : Status := 0x01
def noPermission : Status := 0x02
def queueFull : Status := 0x03
def resourceHeld : Status := 0x04
def versionMismatch : Status := 0x05
def timeout : Status := 0x06
def partitionReset : Status := 0x07
def generationStale : Status := 0x08
def eccUncorrected : Status := 0x09
def linkLost : Status := 0x0A
def memberLost : Status := 0x0B
def formatInvalid : Status := 0x0C
def epochStale : Status := 0x0D
def mboxFull : Status := 0x0E
def signatureInvalid : Status := 0x0F
def plinthMode : Status := 0x10
def boundExceeded : Status := 0x11
def internal : Status := 0xFF
end St

/-- A refusal with a status where a condition holds. -/
def refuseIf (c : Bool) (s : Status) : Option Status := if c then some s else none

/-- The first refusal of a list of checks in their order. -/
def firstOf : List (Option Status) → Option Status
  | [] => none
  | some s :: _ => some s
  | none :: t => firstOf t

/-! ## Numeric events (R51) -/

/-- Adds events to the counters of a layer in a partition (R51, R455). -/
def Dev.count (d : Dev) (p : PartId) (layer : Nat) (e : Ev) : Dev :=
  let r0 := R.numCnt p layer 0
  let r1 := R.numCnt p layer 1
  let r2 := R.numCnt p layer 2
  ((((d.bump r0 63 32 e.nan).bump r0 31 0 e.inf).bump r1 63 32 e.sat).bump r1 31 0 e.nanScale).bump r2 63 32 e.negUf8

/-! ## Waits and counters (R129, R131, R133) -/

/-- A wait for threshold `v` on counter value `c` (R129): (c − v) modulo 2^32, read as a signed number, is 0 or more. -/
def waitMet (c v : BitVec 32) : Bool := decide ((c - v).toNat < 2 ^ 31)

/-- The value of sync counter `c` of a partition (R142). -/
def Dev.ctr (d : Dev) (p : PartId) (c : Nat) : BitVec 32 := BitVec.ofNat 32 (d.reg (R.syncCnt p c)).toNat

/-- Stores a sync counter: a CSET (R132, R133). -/
def Dev.setCtr (d : Dev) (p : PartId) (c : Nat) (v : BitVec 32) : Dev := d.setReg (R.syncCnt p c) (v.zeroExtend 64)

/-- Adds to a sync counter modulo 2^32 (R131). -/
def Dev.addCtr (d : Dev) (p : PartId) (c : Nat) (v : BitVec 32) : Dev := d.setCtr p c (d.ctr p c + v)

end Sys2Proof.Machine
end

