-- ==== Sys2Proof/Machine/Operands.lean ====
section
/-! DEFINITION. Operands: the device address map (R145 to R149), tensor descriptors (R125, R126), their validation (R127, R148,
R156, R157), and reading and writing the elements of a tensor (R35, R36, R37, R90, R97). -/
namespace Sys2Proof.Machine

/-! ## Address map (R145) -/

/-- A backed region: 0 LPDDR5X, 1 bonded SRAM, 2 operand cache, 3 scalar local memory; its partition and byte range. -/
structure Region where
  kind : Nat
  part : PartId
  lo : Nat
  hi : Nat
deriving DecidableEq, Repr

/-- The backed region that holds a device address; control space is none (R145, R146). -/
def Dev.region (d : Dev) (a : Nat) : Option Region :=
  if a < 0x010000000000 then
    let p : PartId := Fin.ofNat 16 (a / 2 ^ 36)
    let lo := p.val * 2 ^ 36
    if a < lo + d.cap p then some ⟨0, p, lo, lo + d.cap p⟩ else none
  else if a < 0x010100000000 then
    let p : PartId := Fin.ofNat 16 ((a - 0x010000000000) / 2 ^ 28)
    let lo := 0x010000000000 + p.val * 2 ^ 28
    some ⟨1, p, lo, lo + 2 ^ 28⟩
  else if 0x020000000000 ≤ a ∧ a < 0x020010000000 then
    let p : PartId := Fin.ofNat 16 ((a - 0x020000000000) / 2 ^ 24)
    let w := 0x020000000000 + p.val * 2 ^ 24
    if a < w + 0x200000 then some ⟨2, p, w, w + 0x200000⟩
    else if w + 0x800000 ≤ a ∧ a < w + 0x840000 then some ⟨3, p, w + 0x800000, w + 0x840000⟩
    else none
  else none

/-- First address of a partition's LPDDR5X, bonded SRAM, operand cache and scalar local memory. -/
def dramBase (p : PartId) : Nat := p.val * 2 ^ 36
def sramBase (p : PartId) : Nat := 0x010000000000 + p.val * 2 ^ 28
def cacheBase (p : PartId) : Nat := 0x020000000000 + p.val * 2 ^ 24
def slmBase (p : PartId) : Nat := 0x020000800000 + p.val * 2 ^ 24

/-- PIN_BASE in bytes (R150). -/
def Dev.pinBase (d : Dev) (p : PartId) : Nat := d.fld (R.memPin p) 47 40 * 2 ^ 30

/-- LOCK (R149). -/
def Dev.locked (d : Dev) (p : PartId) : Bool := bit (d.reg (R.memPin p)) 32

/-- Bytes of one channel's pinned sub-range (R147). -/
def Dev.pinSpan (d : Dev) (p : PartId) : Nat := (d.cap p - d.pinBase p) / 4

/-- The channel whose pinned sub-range wholly holds addresses `lo` to `hi - 1` of partition `p` (R147, R148). -/
def Dev.pinChan (d : Dev) (p : PartId) (lo hi : Nat) : Option (Fin 4) :=
  let s := d.pinSpan p
  let b := dramBase p + d.pinBase p
  if lo < b ∨ s = 0 ∨ b + 4 * s < hi ∨ hi ≤ lo then none
  else if (lo - b) / s = (hi - 1 - b) / s then some (Fin.ofNat 4 ((lo - b) / s)) else none

/-- Whether bytes lie inside one channel's pinned sub-range of the partition they are in (R147, R148). -/
def Dev.inPinned (d : Dev) (lo hi : Nat) : Bool :=
  match d.region lo with
  | some r => r.kind == 0 && (d.pinChan r.part lo hi).isSome
  | none => false

/-- Whether bytes `lo` to `hi - 1` of partition `p`'s LPDDR5X touch channel `c`: 256-byte granules in turn below PIN_BASE, one sub-range
each above it (R147). -/
def Dev.touches (d : Dev) (p : PartId) (c : Fin 4) (lo hi : Nat) : Bool :=
  let b := dramBase p
  let top := Nat.min hi (b + d.pinBase p)
  let n := (top - b + 255) / 256 - (lo - b) / 256
  let s := d.pinSpan p
  let x := b + d.pinBase p + c.val * s
  (decide (lo < top) && (List.range (Nat.min n 4)).any (fun k => ((lo - b) / 256 + k) % 4 == c.val))
    || decide (Nat.max lo x < Nat.min hi (x + s))

/-- The channel that a partition's controller retrains: the first that waits (R165, R166). -/
def Dev.retraining (d : Dev) (p : PartId) : Option (Fin 4) := (d.part p).trainQ.head?

/-- Whether a channel of a partition takes no request: it retrains, or is held in self-refresh after a retraining that was abandoned (R165). -/
def Dev.chanShut (d : Dev) (p : PartId) (c : Fin 4) : Bool := d.retraining p == some c || (d.part p).refresh.contains c

/-- Whether an access to bytes `lo` to `hi - 1` needs a channel that takes no request, and so waits (R165). -/
def Dev.chanBusy (d : Dev) (lo hi : Nat) : Bool :=
  match d.region lo with
  | none => false
  | some r => r.kind == 0 && (List.finRange 4).any (fun c => d.chanShut r.part c && d.touches r.part c lo hi)

/-! ## Descriptors (R125, R126) -/

/-- The fields of a 64-byte descriptor. -/
def descOf (w : BitVec 512) : Desc :=
  let n := w.toNat
  let f := fun (lo len : Nat) => n / 2 ^ lo % 2 ^ len
  { base := f 0 48, scaleBase := f 64 48,
    size := [f 128 32, f 160 32, f 192 32, f 224 32],
    stride := [sext 32 (f 256 32), sext 32 (f 288 32), sext 32 (f 320 32), sext 32 (f 352 32)],
    tensorId := BitVec.ofNat 16 (f 432 16), layer := BitVec.ofNat 10 (f 422 10), rank := f 420 2, axis := f 418 2,
    fmt := f 412 4, kind := f 408 4, valid := f 407 1 == 1, wprot := f 406 1 == 1, tagchk := f 405 1 == 1,
    norec := f 404 1 == 1, chpin := f 403 1 == 1, indexBase := f 448 48,
    reservedZero := f 48 16 == 0 && f 112 16 == 0 && f 416 2 == 0 && f 384 19 == 0 && f 496 16 == 0 }

/-- Size of a dimension, 1 above RANK. -/
def Desc.dim (x : Desc) (k : Nat) : Nat := if k ≤ x.rank then x.size.getD k 0 else 1

def Desc.dims (x : Desc) : List Nat := [x.dim 0, x.dim 1, x.dim 2, x.dim 3]

def prodL (l : List Nat) : Nat := l.foldl (· * ·) 1

/-- Element count. -/
def Desc.count (x : Desc) : Nat := prodL x.dims

/-- Rows: runs of dimension 0 (R473). -/
def Desc.rows (x : Desc) : Nat := x.dim 1 * x.dim 2 * x.dim 3

/-- Multi-dimensional index of flattened index `i` (R86). -/
def ixOf : List Nat → Nat → List Nat
  | [], _ => []
  | n :: t, i => i % n :: ixOf t (i / n)

/-- Flattened index of a multi-dimensional index (R86). -/
def flatOf : List Nat → List Nat → Nat
  | n :: t, i :: u => i + n * flatOf t u
  | _, _ => 0

def Desc.blocked (x : Desc) : Bool := fmtBlocked x.fmt

/-- Dimensions counted in blocks along the block axis (R126). -/
def Desc.bdims (x : Desc) : List Nat := x.dims.mapIdx (fun k n => if x.blocked && k == x.axis then ceilDiv n 32 else n)

def dotL : List Nat → List Int → Int
  | i :: t, s :: u => i * s + dotL t u
  | _, _ => 0

/-- Offset of an element in elements, or of its block in blocks (R126). -/
def Desc.off (x : Desc) (ix : List Nat) : Int :=
  if x.blocked then dotL (ix.mapIdx (fun k i => if k == x.axis then i / 32 else i)) x.stride else dotL ix x.stride

/-- Least and largest offset over all elements (R126). -/
def offMin : List Nat → List Int → Int
  | n :: t, s :: u => (if s < 0 then ((n - 1 : Nat) : Int) * s else 0) + offMin t u
  | _, _ => 0

def offMax : List Nat → List Int → Int
  | n :: t, s :: u => (if s < 0 then 0 else ((n - 1 : Nat) : Int) * s) + offMax t u
  | _, _ => 0

/-- The extents of a descriptor as half-open byte ranges: the element plane, and the scale plane of a blocked format (R126). -/
def Desc.extents (x : Desc) : List (Int × Int) :=
  let lo := offMin x.bdims x.stride
  let hi := offMax x.bdims x.stride
  let b : Int := x.base
  if x.blocked then
    let bb : Int := fmtBlockBytes x.fmt
    [(b + lo * bb, b + hi * bb + bb), ((x.scaleBase : Int) + lo, (x.scaleBase : Int) + hi + 1)]
  else if x.fmt = 0xC then [(b + lo / 2, b + hi / 2 + 1)]
  else
    let e : Int := fmtBits x.fmt / 8
    [(b + lo * e, b + hi * e + e)]

/-- The bytes of an image or of a table operand. -/
def imageExt (x : Desc) (n : Nat) : Int × Int := ((x.base : Int), (x.base : Int) + n)

/-- A byte range as the scoreboard holds it (R134). -/
def toExtent (e : Int × Int) : Extent := ⟨e.1.toNat, e.2.toNat⟩

def Desc.exts (x : Desc) : List Extent := x.extents.map toExtent

/-- The extent of a mask descriptor of kind 1 over `n` elements (R125, R89). -/
def Desc.maskExt (x : Desc) (n : Nat) : Int × Int := ((x.base : Int), (x.base : Int) + ceilDiv n 8)

/-- Whether two byte ranges share a byte; an empty one (a disabled entry's) shares none. -/
def Extent.overlaps (a b : Extent) : Bool := decide (Nat.max a.lo b.lo < Nat.min a.hi b.hi)

/-- The formats a kind allows, its default first (R39, R41). -/
def kindFormats (k : Nat) : List Nat :=
  match k with
  | 0 => [5, 7, 8, 9, 1]
  | 1 => [5, 6, 1]
  | 2 => [0, 1, 2, 3, 4, 5, 6, 7, 8, 9, 0xA, 0xB, 0xC]
  | 3 => [6, 1]
  | 4 => [1, 0]
  | 5 => [6, 1]
  | 6 => [5, 1]
  | 7 => [0xE, 1]
  | 8 => [1, 0]
  | 9 => [5, 0xA, 9, 1]
  | 0xA => [6]
  | _ => []

/-- The unblocked formats a NOREC descriptor may have (R125). -/
def norecFormats : List Nat := [0, 1, 2, 3, 4, 0xB, 0xC, 0xD]

/-- Whether conversions into a kind are stochastic (R39, R44). -/
def kindSr (k : Nat) : Bool := k == 3 || k == 4 || k == 5

/-- The checks of the first four rows of R127. -/
def Desc.check (x : Desc) : Option Status :=
  let above := (List.range 4).any (fun k => x.rank < k && (x.size.getD k 0 != 0 || x.stride.getD k 0 != 0))
  let zero := (List.range 4).any (fun k => k ≤ x.rank && x.size.getD k 0 == 0)
  firstOf
    [ refuseIf (!x.valid || !x.reservedZero || above || zero || x.rank < x.axis || (!x.blocked && x.axis != 0)) St.badDescriptor,
      refuseIf (decide (2 ^ 51 < x.count) || decide (2 ^ 51 < x.indexBase + x.count)) St.badDescriptor,
      refuseIf (if x.blocked then x.base % 8 != 0 else if x.fmt == 0xC then x.stride.getD 0 0 != 1
        else x.base % Nat.max 1 (fmtBits x.fmt / 8) != 0) St.badDescriptor,
      refuseIf (if x.norec then !norecFormats.contains x.fmt else !(kindFormats x.kind).contains x.fmt) St.formatInvalid ]

/-- Who reaches memory through a descriptor (R127, R149): any partition of the tenant, and pinned sub-ranges under LOCK. -/
structure Reach where
  any : Bool
  pinned : Bool
deriving DecidableEq, Repr

/-- Arrays and the vector engine; move engines; update units; the collective engine. -/
def Reach.own : Reach := ⟨false, false⟩
def Reach.move : Reach := ⟨true, false⟩
def Reach.upd : Reach := ⟨false, true⟩

/-- The reach check of one byte range (R127, R83, R110, R146, R149; a fenced partition refuses mesh requests, R403). -/
def Dev.reachRange (d : Dev) (p : PartId) (u : Reach) (write : Bool) (e : Int × Int) : Option Status :=
  if e.1 < 0 then some St.noPermission
  else match d.region e.1.toNat with
    | none => some St.noPermission
    | some r =>
      if (r.hi : Int) < e.2 then some (if r.kind = 2 then St.badDescriptor else St.noPermission)
      else if !(r.part == p || (u.any && d.sameTenant p r.part)) then some St.noPermission
      else if r.part != p && d.fenced r.part then some St.partitionReset
      else if r.kind == 3 && write && decide (e.1.toNat < r.lo + 0x10000) then some St.noPermission
      else if r.kind == 0 && !u.pinned && d.locked r.part && decide (r.lo + d.pinBase r.part < e.2.toNat) then some St.noPermission
      else none

/-- The reach check of a byte range that no descriptor names: a range past the end of an operand cache touches an unbacked address (R146); the
BAD_DESCRIPTOR of R83 is a descriptor's. -/
def Dev.reachMem (d : Dev) (p : PartId) (u : Reach) (write : Bool) (e : Int × Int) : Option Status :=
  (d.reachRange p u write e).map (fun c => if c = St.badDescriptor then St.noPermission else c)

/-! ## Working-shard entries (R155 to R161) -/

def Dev.wsbState (d : Dev) (p : PartId) (e : Nat) : Nat := d.fld (R.wsbCtrl p e) 25 24
def Dev.wsbRef (d : Dev) (p : PartId) (e : Nat) : Nat := d.fld (R.wsbCtrl p e) 15 0
def Dev.wsbTag (d : Dev) (p : PartId) (e : Nat) : W64 := d.reg (R.wsbTag p e)

/-- The extent of an entry; empty where SIZE is 0. -/
def Dev.wsbExt (d : Dev) (p : PartId) (e : Nat) : Extent :=
  let b := d.fld (R.wsbBase p e) 47 12 * 4096
  ⟨b, b + d.fld (R.wsbCtrl p e) 63 32 * 4096⟩

/-- The entry of a partition that holds an address. -/
def Dev.wsbAt (d : Dev) (p : PartId) (a : Nat) : Option Nat :=
  (List.range 64).find? (fun e => decide ((d.wsbExt p e).lo ≤ a) && decide (a < (d.wsbExt p e).hi))

/-- The entry, and the partition that owns it, that holds an address. -/
def Dev.wsbOf (d : Dev) (a : Nat) : Option (PartId × Nat) :=
  match d.region a with
  | none => none
  | some r => (d.wsbAt r.part a).map (fun e => (r.part, e))

/-- Entries that a byte range overlaps. -/
def Dev.wsbHits (d : Dev) (x : Extent) : List (PartId × Nat) :=
  match d.region x.lo with
  | none => []
  | some r => ((List.range 64).filter (fun e => (d.wsbExt r.part e).overlaps x)).map (fun e => (r.part, e))

/-- The check of a destination against the working-shard entries (R156): a write into an entry needs TAGCHK and lies inside one entry. The
entry is the one its extent lies in, also where the version's parity names the other one (log entry 17). A scale plane that lies in no entry
is accepted (DESIGN CHOICE, log entry 147). -/
def Dev.wsbDstCheck (d : Dev) (x : Desc) : Option Status :=
  let hits := x.exts.map d.wsbHits
  if !x.tagchk then refuseIf (hits.any (fun h => !h.isEmpty)) St.noPermission
  else match d.wsbOf x.base with
    | none => some St.badDescriptor
    | some pe =>
      let ent := d.wsbExt pe.1 pe.2
      refuseIf (hits.any (fun h => h.any (fun y => y != pe))
        || x.exts.any (fun e => e.overlaps ent && !(decide (ent.lo ≤ e.lo) && decide (e.hi ≤ ent.hi)))) St.noPermission

/-- The step tag comparison of a reader (R128, R157): `true` where the data may be consumed. -/
def Dev.tagOk (d : Dev) (x : Desc) (step : W64) : Bool :=
  !x.tagchk || (match d.wsbOf x.base with
    | some pe => d.wsbTag pe.1 pe.2 == step && d.wsbState pe.1 pe.2 == 2
    | none => false)

/-- The pinned placement that a CHPIN descriptor promises of the bytes it names (R148). -/
def Dev.chpinCheck (d : Dev) (x : Desc) (l : List Extent) : Option Status :=
  refuseIf (x.chpin && l.any (fun e => !d.inPinned e.lo e.hi)) St.badDescriptor

/-- What a source's flags promise of the bytes it names: pinned placement, and an entry that holds BASE under TAGCHK (R148, R157). -/
def Dev.placeCheck (d : Dev) (x : Desc) (l : List Extent) : Option Status :=
  firstOf [d.chpinCheck x l, refuseIf (x.tagchk && (d.wsbOf x.base).isNone) St.badDescriptor]

/-- All issue checks of a source descriptor in the order of R127. -/
def Dev.checkSrc (d : Dev) (p : PartId) (u : Reach) (x : Desc) : Option Status :=
  firstOf ([x.check] ++ x.extents.map (d.reachRange p u false) ++
    [d.placeCheck x x.exts])

/-- All issue checks of a destination descriptor in the order of R127, with a reach for each of its extents. -/
def Dev.checkDstBy (d : Dev) (p : PartId) (u : Int × Int → Reach) (x : Desc) : Option Status :=
  firstOf ([x.check] ++ x.extents.map (fun e => d.reachRange p (u e) true e) ++
    [refuseIf x.wprot St.noPermission, d.chpinCheck x x.exts, d.wsbDstCheck x])

/-- All issue checks of a destination descriptor in the order of R127. -/
def Dev.checkDst (d : Dev) (p : PartId) (u : Reach) (x : Desc) : Option Status := d.checkDstBy p (fun _ => u) x

/-- Issue checks of a mask descriptor of kind 1 over `n` elements (R125, R89, R127). -/
def Dev.checkMask (d : Dev) (p : PartId) (x : Desc) (n : Nat) : Option Status :=
  firstOf [x.check, refuseIf (!x.norec || x.fmt != 0xB) St.badDescriptor, d.reachRange p Reach.own false (x.maskExt n),
    d.placeCheck x [toExtent (x.maskExt n)]]

/-- Issue checks of a descriptor that names an image or a map of `n` bytes (R127, R148, R157). -/
def Dev.checkImage (d : Dev) (p : PartId) (x : Desc) (n : Nat) : Option Status :=
  firstOf [x.check, d.reachRange p Reach.own false (imageExt x n), d.placeCheck x [toExtent (imageExt x n)]]

/-- Whether any byte of a list of ranges needs a channel that retrains (R165). -/
def Dev.extsBusy (d : Dev) (l : List Extent) : Bool := l.any (fun e => decide (e.lo < e.hi) && d.chanBusy e.lo e.hi)

/-- Whether data in a descriptor's extents has an uncorrectable error (R163). -/
def Dev.badData (d : Dev) (x : Desc) : Bool := x.exts.any (fun e => d.bad e.lo (e.hi - e.lo))

/-- Address of the first word with an uncorrectable error in a descriptor's extents. -/
def Dev.badAt (d : Dev) (x : Desc) : Nat :=
  match x.exts.find? (fun e => d.bad e.lo (e.hi - e.lo)) with
  | some e => d.badWord e.lo (e.hi - e.lo)
  | none => x.base

/-! ## Elements -/

/-- Bit position of element `j` of a block or of an INT4 pair, and its code. -/
def Dev.rdBitsAt (d : Dev) (byteAddr bitPos w : Nat) : Nat := d.rdN (byteAddr + bitPos / 8) 5 / 2 ^ (bitPos % 8) % 2 ^ w

/-- Address of the block or element at an offset. -/
def Desc.addr (x : Desc) (o : Int) : Nat :=
  if x.blocked then ((x.base : Int) + o * fmtBlockBytes x.fmt).toNat
  else if x.fmt = 0xC then ((x.base : Int) + o / 2).toNat
  else ((x.base : Int) + o * (fmtBits x.fmt / 8)).toNat

def Desc.scaleAddr (x : Desc) (o : Int) : Nat := ((x.scaleBase : Int) + o).toNat

/-- The stored code of an element. -/
def Dev.rdCode (d : Dev) (x : Desc) (ix : List Nat) : Nat :=
  let o := x.off ix
  if x.blocked then d.rdBitsAt (x.addr o) (fmtBits x.fmt * (ix.getD x.axis 0 % 32)) (fmtBits x.fmt)
  else if x.fmt = 0xC then d.rdBitsAt (x.addr o) (if o % 2 = 0 then 0 else 4) 4
  else d.rdN (x.addr o) (fmtBits x.fmt / 8)

/-- The scale code of an element's block. -/
def Dev.rdScale (d : Dev) (x : Desc) (ix : List Nat) : Nat := (memGet d.mem (x.scaleAddr (x.off ix))).toNat

/-- The exact value of an element (R31, R32). -/
def Dev.rdVal (d : Dev) (x : Desc) (ix : List Nat) : Val :=
  let v := decElem x.fmt (d.rdCode x ix)
  if x.blocked then withScale (d.rdScale x ix) v else v

/-- An element decoded to FP32. -/
def Dev.rdF32 (d : Dev) (x : Desc) (ix : List Nat) : F32 := toF32 (d.rdVal x ix)

/-- An element of an integer format as a two's complement integer. -/
def Dev.rdInt (d : Dev) (x : Desc) (ix : List Nat) : Int := sext (fmtBits x.fmt) (d.rdCode x ix)

/-- The index of a source at a destination index, dimensions of size 1 broadcast (R87). -/
def Desc.bcast (x : Desc) (ix : List Nat) : List Nat := ix.mapIdx (fun k i => if x.dim k = 1 then 0 else i)

/-- Whether a source's sizes match a destination's up to broadcasting (R87). -/
def Desc.fits (src dst : Desc) : Bool := (List.range 4).all (fun k => src.dim k == 1 || src.dim k == dst.dim k)

/-- Writes the code of an element of an unblocked tensor. -/
def Dev.wrCode (d : Dev) (x : Desc) (ix : List Nat) (code : Nat) : Dev :=
  let o := x.off ix
  if x.fmt = 0xC then
    let old := (memGet d.mem (x.addr o)).toNat
    d.wr (x.addr o) [BitVec.ofNat 8 (if o % 2 = 0 then old / 16 * 16 + code % 16 else code % 16 * 16 + old % 16)]
  else d.wr (x.addr o) (leBytes (fmtBits x.fmt / 8) code)

/-- Writes a whole block: element bytes and scale byte (R35, R36). -/
def Dev.wrBlock (d : Dev) (x : Desc) (o : Int) (sc : Nat) (codes : List Nat) : Dev :=
  (d.wr (x.addr o) (blockBytes x.fmt codes)).wr (x.scaleAddr o) [BitVec.ofNat 8 sc]

/-- What a lane gives its destination element: keep the old value, or a value, and whether its events count (R90). -/
inductive Lane where
  | keep
  | val (x : Val) (counts : Bool)
deriving DecidableEq, Repr

/-- The rounding of element `i` of a destination under its recipe, or of a conversion marked stochastic (R39, R44, R46). A vector destination
of kind 0x2, for which R39 gives no rounding, takes RNE (DESIGN CHOICE, log entry 120). -/
def Desc.rnd (x : Desc) (sr : Bool) (k : RndKey) (i : Nat) : Rnd :=
  if sr || (!x.norec && kindSr x.kind) then .sr (randBits { k with tensor := x.tensorId } (x.indexBase + i)) else .rne

/-- Stores lanes into consecutive flattened elements of an unblocked tensor from index `i` (R97). -/
def Dev.storeRun (d : Dev) (x : Desc) (sr : Bool) (k : RndKey) (i : Nat) : List Lane → Dev × Ev
  | [] => (d, {})
  | .keep :: t => d.storeRun x sr k (i + 1) t
  | .val v c :: t =>
    let r := convElem x.fmt (if c then x.rnd sr k i else .rne) v
    let z := (d.wrCode x (ixOf x.dims i) r.1).storeRun x sr k (i + 1) t
    (z.1, (if c then r.2 else {}).add z.2)

/-- One block of a tensor, the `b`-th in order of its block dimensions: multi-dimensional index of its first element. -/
def Desc.blockIx (x : Desc) (b : Nat) : List Nat := (ixOf x.bdims b).mapIdx (fun k i => if k == x.axis then 32 * i else i)

/-- Present elements of the block that begins at an index (R36). -/
def Desc.blockLen (x : Desc) (ix : List Nat) : Nat := Nat.min 32 (x.dim x.axis - ix.getD x.axis 0)

/-- Converts and stores block `b`: kept elements are decoded and converted again, and count nothing (R90). -/
def Dev.storeBlock (d : Dev) (x : Desc) (sr : Bool) (k : RndKey) (lane : Nat → Lane) (b : Nat) : Dev × Ev :=
  let ix0 := x.blockIx b
  let ixs := (List.range (x.blockLen ix0)).map (fun j => ix0.mapIdx (fun n i => if n == x.axis then i + j else i))
  let lanes := ixs.map (fun ix => (ix, flatOf x.dims ix, lane (flatOf x.dims ix)))
  if lanes.all (fun l => l.2.2 == .keep) then (d, {})
  else
    let elts := lanes.map (fun l => match l.2.2 with
      | .keep => ⟨ofF32 (d.rdF32 x l.1), .rne, false⟩
      | .val v c => (⟨v, if c then x.rnd sr k l.2.1 else .rne, c⟩ : Elt))
    let r := convBlock x.fmt elts
    (d.wrBlock x (x.off ix0) r.1 r.2.1, r.2.2)

/-- Stores blocks `b`, `b + 1`, ... -/
def Dev.storeBlocks (d : Dev) (x : Desc) (sr : Bool) (k : RndKey) (lane : Nat → Lane) (b : Nat) : Nat → Dev × Ev
  | 0 => (d, {})
  | n + 1 =>
    let r := d.storeBlock x sr k lane b
    let z := r.1.storeBlocks x sr k lane (b + 1) n
    (z.1, r.2.add z.2)

/-- Number of blocks of a tensor. -/
def Desc.blocks (x : Desc) : Nat := prodL x.bdims

/-- Stores a whole tensor from its lanes in flattened order, and counts its events in partition `p` (R97, R51). -/
def Dev.storeTensor (d : Dev) (p : PartId) (x : Desc) (sr : Bool) (k : RndKey) (lanes : List Lane) : Dev :=
  let r := if x.blocked then d.storeBlocks x sr k (fun i => lanes.getD i .keep) 0 x.blocks else d.storeRun x sr k 0 lanes
  r.1.count p x.layer.toNat r.2

/-- The lane of an element among lanes given by index. -/
def findLane (l : List (Nat × Lane)) (idx : Nat) : Lane :=
  match l.find? (fun e => e.1 == idx) with
  | some e => e.2
  | none => .keep

/-- Number of the block that holds an element. -/
def Desc.blockOf (x : Desc) (idx : Nat) : Nat := flatOf x.bdims ((ixOf x.dims idx).mapIdx (fun k n => if k == x.axis then n / 32 else n))

/-- Stores lanes given by their flattened indices: single elements, or the whole blocks they lie in (R96, R97, R473). -/
def Dev.storeSome (d : Dev) (p : PartId) (x : Desc) (k : RndKey) (l : List (Nat × Lane)) : Dev :=
  let r := if x.blocked then
      ((l.map (fun e => x.blockOf e.1)).eraseDups).foldl (fun (z : Dev × Ev) b =>
        let w := z.1.storeBlock x false k (findLane l) b
        (w.1, z.2.add w.2)) (d, {})
    else l.foldl (fun (z : Dev × Ev) e =>
        let w := z.1.storeRun x false k e.1 [e.2]
        (w.1, z.2.add w.2)) (d, {})
  r.1.count p x.layer.toNat r.2

/-- The whole tensor decoded to FP32 in flattened order. -/
def Dev.loadTensor (d : Dev) (x : Desc) : List F32 := (List.range x.count).map (fun i => d.rdF32 x (ixOf x.dims i))

/-- Position of element `k` of row `r` (R473). -/
def Desc.rowIx (x : Desc) (r k : Nat) : List Nat := k :: ixOf (x.dims.drop 1) r

end Sys2Proof.Machine
end

