-- ==== Sys2Proof/Machine/Port.lean ====
section
/-! DEFINITION. Issue ports (R117 to R122), the scoreboard (R134), posts (R131), fault records (R410), incidents (R413) and the
faults of streams and scalar cores (R136, R113). -/
namespace Sys2Proof.Machine

/-! ## Fault records and incidents -/

/-- The key of an incident (R412): tenant (16 for none), SUSPECT, SUSPECT_PART, SUSPECT_GEN, STATUS. -/
structure IncKey where
  tenant : Nat
  suspect : Nat
  part : Nat
  gen : Nat
  status : Status
deriving DecidableEq, Repr

def Dev.incKey (d : Dev) (n : Nat) (t : Nat) : IncKey :=
  let w0 := d.reg (R.inc n 0)
  let w1 := d.reg (R.inc n 1)
  ⟨t, bits w0 63 32, bits w1 7 0, bits w1 27 16, BitVec.ofNat 8 (bits w1 15 8)⟩

/-- The open entry that holds a key. -/
def Dev.incFind (d : Dev) (k : IncKey) : Option Nat :=
  (d.inc.find? (fun e => e.2.isOpen && d.incKey e.1 e.2.tenant == k)).map (·.1)

/-- Least element of a list by a measure, the first among equals. -/
def minBy (f : Nat → Nat) : List Nat → Option Nat
  | [] => none
  | a :: t =>
    match minBy f t with
    | none => some a
    | some b => if f a ≤ f b then some a else some b

/-- The entry a new incident takes: the oldest closed one (R413). -/
def Dev.incSlot (d : Dev) : Option Nat :=
  let isOpen := fun n => match Tab.find d.inc n with
    | some e => e.isOpen
    | none => false
  minBy (fun n => (d.reg (R.inc n 2)).toNat) ((List.range 256).filter (fun n => !isOpen n))

/-- INC_STATUS.OPEN follows the entries (R421); where the incident alert holds ALERT_N it is released once none is open. -/
def Dev.incRecount (d : Dev) : Dev :=
  let n := d.inc.countP (fun e => e.2.isOpen)
  let d := d.setFld R.incStatus 63 56 (Nat.min 255 n)
  if n = 0 ∧ bit (d.reg R.alertCtrl) 1 then { d with boot := { d.boot with alertLow := false } } else d

/-- Writes one of an incident entry's eight words (R411). -/
def Dev.incWord (d : Dev) (n k v : Nat) : Dev := d.setReg (R.inc n k) (BitVec.ofNat 64 v)

/-- A report or a local fault looks up its key: it joins the open entry, opens a new one, or overflows (R413). -/
def Dev.incident (d : Dev) (k : IncKey) (count reporter : Nat) (step : W64) (epoch : Nat) : Dev :=
  match d.incFind k with
  | some n =>
    let d := d.setFld (R.inc n 3) 31 0 (satAdd 32 (d.fld (R.inc n 3) 31 0) count)
    let d := d.setReg (R.inc n 5) d.localCount
    match Tab.find d.inc n with
    | some e => { d with inc := Tab.put d.inc n { e with quietFrom := d.localCount } }
    | none => d
  | none =>
    match d.incSlot with
    | none => d.bump R.incStatus 55 40 1
    | some n =>
      let num := d.fld R.incStatus 39 0
      let d := d.incWord n 0 (1 + k.suspect * 2 ^ 32)
      let d := d.incWord n 1 (k.part % 256 + k.status.toNat * 2 ^ 8 + k.gen % 4096 * 2 ^ 16 + reporter % 2 ^ 32 * 2 ^ 32)
      let d := (d.incWord n 2 num).incWord n 3 (count % 2 ^ 32)
      let d := ((d.setReg (R.inc n 4) d.localCount).setReg (R.inc n 5) d.localCount).setReg (R.inc n 6) step
      let d := (d.incWord n 7 epoch).setFld R.incStatus 39 0 (num + 1)
      let d := { d with inc := Tab.put d.inc n ⟨k.tenant, true, false, d.localCount⟩ }
      let d := if bit (d.reg R.alertCtrl) 1 then { d with boot := { d.boot with alertLow := true } } else d
      d.incRecount

/-- Number of the tenant that holds a partition, 16 for none. -/
def Dev.tenantNo (d : Dev) (p : PartId) : Nat :=
  match d.tenantOf p with
  | some t => t.val
  | none => 16

/-- Armature epoch of a tenant number. -/
def Dev.armEpochNo (d : Dev) (t : Nat) : Nat := if h : t < 16 then d.fld (R.collEpoch ⟨t, h⟩) 63 32 else 0

/-- This module's MODULE number (R443). -/
def Dev.moduleId (d : Dev) : Nat := d.fld R.idModule 31 0

/-- A fault record of R410 in a partition's ring (R454), without an incident. -/
def Dev.ringWrite (d : Dev) (p : PartId) (unit : Nat) (code : Status) (detail addr : Nat) (step : W64) : Dev :=
  let n := d.fld (R.faultHead p) 31 0
  let d := d.setReg (R.faultRec p n 0) d.localCount
  let d := d.setReg (R.faultRec p n 1)
    (BitVec.ofNat 64 (code.toNat + unit % 256 * 2 ^ 8 + d.gen p % 4096 * 2 ^ 16 + detail % 2 ^ 32 * 2 ^ 32))
  let d := (d.setReg (R.faultRec p n 2) (BitVec.ofNat 64 addr)).setReg (R.faultRec p n 3) step
  d.bumpWrap (R.faultHead p) 31 0 1

/-- A fault record and the incident it opens or joins (R410, R413). -/
def Dev.record (d : Dev) (p : PartId) (unit : Nat) (code : Status) (detail addr : Nat) (step : W64) : Dev :=
  let t := d.tenantNo p
  (d.ringWrite p unit code detail addr step).incident ⟨t, d.moduleId, p.val, d.gen p, code⟩ 1 d.moduleId step (d.armEpochNo t)

/-! ## Posts and completion (R131) -/

/-- Removes a completed instruction from the scoreboard and from the fences that cover it. -/
def PortSt.complete (s : PortSt) (id : Nat) : PortSt :=
  { s with flights := s.flights.filter (fun f => f.id != id),
           posts := s.posts.map (fun x => { x with fence := x.fence.filter (· != id) }) }

/-- An instruction of a port completes. -/
def Dev.complete (d : Dev) (p : PartId) (q : Port) (id : Nat) : Dev := d.modPort p q (fun s => s.complete id)

/-- A post takes effect: it adds to its counter, or leaves over the mesh for another partition of the tenant (R131, R132). That a
REMOTE post has taken effect once it leaves is a DESIGN CHOICE (log entry 118). -/
def Dev.applyPost (d : Dev) (p : PartId) (q : Port) (x : PendPost) : Dev :=
  match x.remote with
  | none => d.addCtr p x.ctr.toNat x.amount
  | some t => { d with mesh := d.mesh ++ [⟨p, q, x.pc, t, x.ctr, x.amount, d.gen p⟩] }

/-- Drops the posts a fault discards (R136): the first post whose fence covers the instruction and every later one, or, where
the stream has already stopped, only the posts whose fence covers it. -/
def dropPosts (stopped : Bool) (id : Nat) (l : List PendPost) : List PendPost :=
  if stopped then l.filter (fun x => !x.fence.contains id) else l.takeWhile (fun x => !x.fence.contains id)

/-! ## Faults (R136, R113) -/

/-- A matrix instruction of the port that waits for a partner no longer does: another word has issued, or the port has stopped (R172). -/
def ArraySt.unpair (a : ArraySt) (q : Port) : ArraySt :=
  let f := fun (i : MatIns) => if i.paired = 1 && i.port = q then { i with paired := 0 } else i
  { a with ins := a.ins.map f, cur := a.cur.map f }

/-- The pair that a port has begun is broken, or is no longer open (R172, R173). -/
def Dev.unpairPort (d : Dev) (p : PartId) (q : Port) : Dev :=
  let d := d.modPart p (fun x => { x with a0 := x.a0.unpair q })
  match q with
  | .s c => d.modPart p (fun x => { x with cores := x.cores.set c { x.cores[c] with pairCand := none } })
  | _ => d.modPort p q (fun t => { t with pairCand := none })

/-- A stream stops by fault: the first fault is kept, a later one adds its discarded posts to DROPPED (R136, R140). -/
def Dev.seqStop (d : Dev) (p : PartId) (x : Seq) (code : Status) (pc dropped : Nat) : Dev :=
  let o := R.seqStatus p x
  if bit (d.reg o) 0 then d.setFld o 31 28 (Nat.min 15 (d.fld o 31 28 + dropped))
  else
    let d := (((d.setFld o 63 56 code.toNat).setFld o 55 52 5).setFld o 31 28 (Nat.min 15 dropped)).setFlag o 0 true
    let d := d.setFld (R.seqFaultPc p x) 47 3 (pc / 8)
    (d.modPort p x.port (fun s => { s with waiting := none, haltReq := false })).unpairPort p x.port

/-- A scalar core stops under R113: FAULTED is set, the core no longer runs. -/
def Dev.coreStop (d : Dev) (p : PartId) (c : Fin 6) : Dev :=
  let o := R.scalarStatus p
  let d := (d.setFlag o (22 + c.val) true).setFlag o (34 + c.val) false
  d.modPart p (fun x => { x with cores := x.cores.set c { x.cores[c] with wait := none } })

/-- Program counter of a scalar core. -/
def Dev.corePc (d : Dev) (p : PartId) (c : Fin 6) : Nat := ((d.part p).cores[c]).pc

/-- A scalar core faults: it stops and a fault record is written (R113, R410). -/
def Dev.coreFault (d : Dev) (p : PartId) (c : Fin 6) (code : Status) (addr : Nat) : Dev :=
  (d.coreStop p c).record p (4 + c.val) code (d.corePc p c / 8) addr (d.part p).ps.step

/-- An instruction faults after its issue (R136): posts are discarded, the stream or core stops, the record is written, and the
instruction leaves the scoreboard. -/
def Dev.execFault (d : Dev) (p : PartId) (q : Port) (id pc unit : Nat) (code : Status) (detail addr : Nat) : Dev :=
  let stopped := match q.seq? with
    | some x => bit (d.reg (R.seqStatus p x)) 0
    | none => false
  let kept := dropPosts stopped id (d.port p q).posts
  let n := (d.port p q).posts.length - kept.length
  let d := d.modPort p q (fun s => { s with posts := kept })
  let d := match q with
    | .f => d.seqStop p .f code pc n
    | .b => d.seqStop p .b code pc n
    | .u => d.seqStop p .u code pc n
    | .s c => d.coreStop p c
  (d.record p unit code detail addr (d.port p q).step).complete p q id

/-! ## Issue -/

/-- What an instruction does when its port takes it: it is refused (`refuseAt`: by a unit that notes it in its own status), it is
held, or it issues with its effect. -/
inductive Iss where
  | refuse (c : Status)
  | refuseAt (c : Status) (d : Dev)
  | hold
  | go (d : Dev)

/-- Where a sequencer may fetch (R118): the partition's own bonded SRAM slice or the tenant part of its scalar local memory. -/
def pcOk (p : PartId) (pc : Nat) : Bool :=
  (decide (sramBase p ≤ pc) && decide (pc < sramBase p + 2 ^ 28))
    || (decide (slmBase p + 0x10000 ≤ pc) && decide (pc < slmBase p + 0x40000))

/-- Whether a sequencer may fetch an instruction of one word, or of two, at an address (R118). -/
def fetchOk (p : PartId) (pc : Nat) (two : Bool) : Bool := pcOk p pc && (!two || pcOk p (pc + 8))

def Dev.seqState (d : Dev) (p : PartId) (x : Seq) : Nat := d.fld (R.seqStatus p x) 55 52
def Dev.setSeqState (d : Dev) (p : PartId) (x : Seq) (v : Nat) : Dev := d.setFld (R.seqStatus p x) 55 52 v

/-- The address in SEQx_PC (R139). -/
def Dev.pc (d : Dev) (p : PartId) (x : Seq) : Nat := d.fld (R.seqPc p x) 47 3 * 8
def Dev.setPc (d : Dev) (p : PartId) (x : Seq) (a : Nat) : Dev := d.setFld (R.seqPc p x) 47 3 (a / 8)

/-- A fault found at issue or at fetch: SEQx_PC and FAULT_PC both name the instruction (R136). -/
def Dev.issueFault (d : Dev) (p : PartId) (x : Seq) (code : Status) : Dev :=
  (d.seqStop p x code (d.pc p x) 0).record p x.num code (d.pc p x / 8) 0 (d.port p x.port).step

/-- The next state of a sequencer that has issued: running, or halted where a HALT_REQ waits (R138). -/
def Dev.seqResume (d : Dev) (p : PartId) (x : Seq) : Dev :=
  if (d.port p x.port).haltReq then
    (d.modPort p x.port (fun s => { s with haltReq := false })).setSeqState p x 4
  else d.setSeqState p x 1

/-- A sequencer has issued an instruction of `len` words: the next address and the count of issued instructions (R140). -/
def Dev.seqAdv (d : Dev) (p : PartId) (x : Seq) (len : Nat) : Dev :=
  ((d.setPc p x (d.pc p x + 8 * len)).bumpWrap (R.seqStatus p x) 27 1 1).seqResume p x

/-- Whether a sequencer is ready to issue its next word: not fenced, and running or held (R119, R140, R403). -/
def Dev.seqReady (d : Dev) (p : PartId) (x : Seq) : Bool :=
  !d.fenced p && (d.seqState p x == 1 || d.seqState p x == 3)

/-- A sequencer takes an instruction of its stream, of two words where `two` says so (R118, R119, R136). One that a hazard or a full unit
queue holds keeps its words. -/
def Dev.seqIssue (d : Dev) (p : PartId) (x : Seq) (two : Bool) (word : Option (W64 × Option W64)) (body : Dev → Iss) : Dev :=
  if !d.seqReady p x then d
  else if !fetchOk p (d.pc p x) two then d.issueFault p x St.noPermission
  else match body d with
    | .refuse c => d.issueFault p x c
    | .refuseAt c d' => d'.issueFault p x c
    | .hold => (d.setSeqState p x 3).modPort p x.port (fun t => { t with heldWord := word })
    | .go d' => d'

/-- The core whose port queue the scalar issue port takes next, in round-robin order (R111). -/
def Part.portTurn (x : Part) : Option (Fin 6) :=
  ((List.range 6).map (fun k => (Fin.ofNat 6 (x.coreRR + k) : Fin 6))).find? (fun c => !(x.cores[c]).queue.isEmpty)

/-- The scalar issue port has taken the head of a core's port queue. -/
def Dev.portAdv (d : Dev) (p : PartId) (c : Fin 6) : Dev :=
  d.modPart p (fun x => { x with cores := x.cores.set c { x.cores[c] with queue := (x.cores[c]).queue.tail }, coreRR := c.val + 1 })

/-! ## Scalar cores and their port queues (R109 to R113) -/

def Dev.core (d : Dev) (p : PartId) (c : Fin 6) : Core := (d.part p).cores.get c
def Dev.setCore (d : Dev) (p : PartId) (c : Fin 6) (x : Core) : Dev := d.modPart p (fun y => { y with cores := y.cores.set c x })

/-- The next word's address. -/
def Core.step (c : Core) (words : Nat) : Core := { c with pc := c.pc + 8 * words }

/-- Firmware mode: a core executes in the first 64 KiB of the scalar local memory (R110). -/
def firmwarePc (p : PartId) (pc : Nat) : Bool := decide (slmBase p ≤ pc) && decide (pc < slmBase p + 0x10000)

/-- Why a core may not reach `n` bytes at an address: backed memory of its own partition, the firmware's 64 KiB in firmware mode only
(R110, R146, R149). -/
def Dev.coreReach (d : Dev) (p : PartId) (fw write : Bool) (a n : Nat) : Option Status :=
  let inFw := decide (a < slmBase p + 0x10000) && decide (slmBase p < a + n)
  if inFw then (if fw && decide (slmBase p ≤ a) && decide (a + n ≤ slmBase p + 0x40000) then none else some St.noPermission)
  else d.reachMem p Reach.own write ((a : Int), (a : Int) + n)

/-- Why a core may not fetch the words of the instruction at its program counter (R110, R113). -/
def Dev.fetchBad (d : Dev) (p : PartId) (pc words : Nat) : Option Status :=
  if pc % 8 ≠ 0 then some St.badDescriptor else d.coreReach p (firmwarePc p pc) false pc (8 * words)

/-- A core puts an instruction word into its port queue and goes on; a full queue stalls it (R111). -/
def Core.push (x : Core) (words : Nat) (w0 : W64) (w1 : Option W64) : Core :=
  if 8 ≤ x.queue.length then x else { x.step words with queue := x.queue ++ [(w0, w1)] }

/-- A released core that does not wait executes a word of its program that goes to the scalar issue port (R123, R124). -/
def Dev.coreWord (d : Dev) (p : PartId) (c : Fin 6) (w0 : W64) (w1 : Option W64) : Dev :=
  let x := d.core p c
  if d.fenced p || !bit (d.reg (R.scalarStatus p)) (34 + c.val) || x.wait.isSome then d
  else match d.fetchBad p x.pc (if w1.isSome then 2 else 1) with
    | some code => d.coreFault p c code x.pc
    | none => d.setCore p c (x.push (if w1.isSome then 2 else 1) w0 w1)

/-- Whether the scalar issue port's next word is a given one: it is core `c`'s turn and the word is at the head of its queue (R111). -/
def Dev.portHead (d : Dev) (p : PartId) (c : Fin 6) (w0 : W64) (w1 : Option W64) : Bool :=
  !d.fenced p && (d.part p).portTurn == some c && ((d.part p).cores[c]).queue.head? == some (w0, w1)

/-- The scalar issue port takes a word from a core's queue (R111 to R113); where that word is not its next one, the core itself executes
the word, which then enters the queue (DESIGN CHOICE, log entry 119). What a stopped core has in its queue still issues, and a core whose
word is refused goes on past it when it is released again (DESIGN CHOICE, log entry 119). -/
def Dev.portIssue (d : Dev) (p : PartId) (c : Fin 6) (w0 : W64) (w1 : Option W64) (body : Dev → Iss) : Dev :=
  if !d.portHead p c w0 w1 then d.coreWord p c w0 w1
  else match body d with
    | .refuse code => ((d.portAdv p c).unpairPort p (.s c)).coreFault p c code 0
    | .refuseAt code d' => ((d'.portAdv p c).unpairPort p (.s c)).coreFault p c code 0
    | .hold => d
    | .go d' => d'

/-- A port takes an instruction word. -/
def Dev.issue (d : Dev) (p : PartId) (q : Port) (w0 : W64) (w1 : Option W64) (body : Dev → Iss) : Dev :=
  match q with
  | .f => d.seqIssue p .f w1.isSome (some (w0, w1)) body
  | .b => d.seqIssue p .b w1.isSome (some (w0, w1)) body
  | .u => d.seqIssue p .u w1.isSome (some (w0, w1)) body
  | .s c => d.portIssue p c w0 w1 body

/-- A port moves past an instruction it has issued. -/
def Dev.adv (d : Dev) (p : PartId) (q : Port) (len : Nat) : Dev :=
  let d := d.unpairPort p q
  match q with
  | .f => d.seqAdv p .f len
  | .b => d.seqAdv p .b len
  | .u => d.seqAdv p .u len
  | .s c => d.portAdv p c

/-- Address of the instruction a port takes (0 for the scalar issue port, whose words have none). -/
def Dev.portPc (d : Dev) (p : PartId) (q : Port) : Nat :=
  match q.seq? with
  | some x => d.pc p x
  | none => 0

/-! ## The scoreboard (R134) -/

/-- Whether an instruction's extents overlap those of an earlier incomplete instruction of the port (R134). -/
def PortSt.hazard (s : PortSt) (reads writes : List Extent) : Bool :=
  s.flights.any (fun f =>
    reads.any (fun r => f.writes.any (r.overlaps ·))
      || writes.any (fun w => f.writes.any (w.overlaps ·) || f.reads.any (w.overlaps ·)))

/-- The extents that lie in partition `p`'s own memory: those of other partitions are not tracked (R134). -/
def Dev.ownExts (d : Dev) (p : PartId) (l : List Extent) : List Extent :=
  l.filter (fun e => match d.region e.lo with
    | some r => r.part == p
    | none => true)

/-- The extents of an instruction that the scoreboard tracks. -/
def Dev.tracked (d : Dev) (p : PartId) (e : List Extent × List Extent) : List Extent × List Extent := (d.ownExts p e.1, d.ownExts p e.2)

/-- Whether the scoreboard holds an instruction back: 32 in flight, or a hazard. The scalar issue port keeps none (R134). -/
def Dev.held (d : Dev) (p : PartId) (q : Port) (reads writes : List Extent) : Bool :=
  match q.seq? with
  | some _ => decide (32 ≤ (d.port p q).flights.length) || (d.port p q).hazard reads writes
  | none => false

/-- A unit, and for the move engines, of which each port has its own (R120), the engine's port. -/
def unitOf (u : UnitKind) (n : Nat) : UnitKind × Nat := (u, if u = .move then n else 0)

/-- A unit has returned to idle, or goes on with other work, after it was told to abandon an instruction (R401). -/
def Dev.backToWork (d : Dev) (p : PartId) (u : UnitKind × Nat) : Dev := d.modPart p (fun x => { x with told := x.told.filter (· != u) })

/-- Enters an instruction into the scoreboard: its number, and the device with it in flight. -/
def Dev.launch (d : Dev) (p : PartId) (q : Port) (cls : UCls) (reads writes : List Extent) : Nat × Dev :=
  let s := d.port p q
  (s.nextId, d.setPort p q { s with nextId := s.nextId + 1, flights := s.flights ++ [⟨s.nextId, cls, d.portPc p q, reads, writes⟩] })

/-- The descriptor in an entry; entry 0 is the null descriptor (R125). -/
def PortSt.descAt (s : PortSt) (i : BitVec 8) : Option Desc :=
  if i = 0 then none else some (descOf (Tab.get (fun _ => 0) s.desc i.toNat))

/-- A parameter word (R117). -/
def PortSt.pwAt (s : PortSt) (i : Nat) : W64 := Tab.get (fun _ => 0) s.pw (i % 16)

end Sys2Proof.Machine
end

