-- ==== Sys2Proof/Machine/SeqCtl.lean ====
section
/-! DEFINITION. Stream control and synchronisation (R117 to R133): NOP to CSET, waits that pass and posts that take effect. -/
namespace Sys2Proof.Machine

/-- A control word with nothing in it but its opcode (R122). -/
def cBare (w : CWord) : Bool := !w.x && w.mod == 0 && w.rsv == 0 && w.pw == 0 && w.imm == 0

/-- A control instruction of a sequencer, of two words where `two` says so. -/
def Dev.ctl (d : Dev) (p : PartId) (x : Seq) (two wordOk : Bool) (body : Dev → Iss) : Dev :=
  d.seqIssue p x two none (fun d => if wordOk then body d else .refuse St.badDescriptor)

/-- A control or sync instruction of any port. -/
def Dev.ctlPort (d : Dev) (p : PartId) (q : Port) (w0 : W64) (w1 : Option W64) (wordOk : Bool) (body : Dev → Iss) : Dev :=
  d.issue p q w0 w1 (fun d => if wordOk then body d else .refuse St.badDescriptor)

/-- NOP (R123). -/
def execNop (p : PartId) (q : Seq) (w : CWord) (s : State) : Res :=
  onDev (fun d => d.ctl p q w.x (cBare w) (fun d => .go (d.adv p q.port 1))) s

/-- HALT (R138): SEQx_PC names the next instruction, the stream is halted. -/
def execHalt (p : PartId) (q : Seq) (w : CWord) (s : State) : Res :=
  onDev (fun d => d.ctl p q w.x (cBare w) (fun d => .go ((d.adv p q.port 1).setSeqState p q 4))) s

/-- BR (R123): IMM32 words from this instruction. -/
def execBr (p : PartId) (q : Seq) (w : CWord) (s : State) : Res :=
  onDev (fun d => d.ctl p q w.x (!w.x && w.mod == 0 && w.rsv == 0 && w.pw == 0) (fun d =>
    .go ((d.adv p q.port 1).setPc p q (wrapInt 48 ((d.pc p q : Int) + 8 * w.imm.toInt))))) s

/-- The rounds a LOOP asks for: IMM32, or PW[31:0]; 0 runs until halted (R123). -/
def loopCount (w : CWord) (ps : PortSt) : Option Nat :=
  let n := if bit w.mod 6 then bits (ps.pwAt w.pw.toNat) 31 0 else w.imm.toNat
  if n = 0 then none else some n

/-- LOOP (R123, R136): at most four nested; the field that MOD[54] leaves without a meaning is reserved (R122). -/
def execLoop (p : PartId) (q : Seq) (w : CWord) (s : State) : Res :=
  onDev (fun d => d.ctl p q w.x (!w.x && bits w.mod 5 0 == 0 && w.rsv == 0 && (if bit w.mod 6 then w.imm == 0 else w.pw == 0)) (fun d =>
    let ps := d.port p q.port
    if 4 ≤ ps.loops.length then .refuse St.badDescriptor
    else .go ((d.adv p q.port 1).modPort p q.port (fun t =>
      { t with loops := ⟨d.pc p q + 8, loopCount w ps⟩ :: t.loops })))) s

/-- ENDL (R123): closes the innermost loop's round; back to its body while rounds are left. -/
def execEndl (p : PartId) (q : Seq) (w : CWord) (s : State) : Res :=
  onDev (fun d => d.ctl p q w.x (cBare w) (fun d =>
    match (d.port p q.port).loops with
    | [] => .refuse St.badDescriptor
    | l :: rest =>
      let again := fun (left : Option Nat) =>
        ((d.adv p q.port 1).setPc p q l.start).modPort p q.port (fun t => { t with loops := ⟨l.start, left⟩ :: rest })
      match l.left with
      | none => .go (again none)
      | some n =>
        if 1 < n then .go (again (some (n - 1)))
        else .go ((d.adv p q.port 1).modPort p q.port (fun t => { t with loops := rest })))) s

/-- SETPW (R117, R123). -/
def execSetpw (p : PartId) (q : Port) (w : CWord) (s : State) : Res :=
  onDev (fun d => d.ctlPort p q (encC 0x05 w) w.snd (w.x && w.mod == 0 && w.rsv == 0 && w.imm == 0) (fun d =>
    .go ((d.adv p q 2).modPort p q (fun t => { t with pw := Tab.set (fun _ => 0) t.pw w.pw.toNat w.w1 })))) s

/-- SETSTEP (R117, R123). -/
def execSetstep (p : PartId) (q : Port) (w : CWord) (s : State) : Res :=
  onDev (fun d => d.ctlPort p q (encC 0x06 w) w.snd (w.x && w.mod == 0 && w.rsv == 0 && w.pw == 0 && w.imm == 0) (fun d =>
    .go ((d.adv p q 2).modPort p q (fun t => { t with step := w.w1 })))) s

/-- SETEPOCH (R117, R123): armature epoch in [63:32], layout epoch in [31:0]. -/
def execSetepoch (p : PartId) (q : Port) (w : CWord) (s : State) : Res :=
  onDev (fun d => d.ctlPort p q (encC 0x07 w) w.snd (w.x && w.mod == 0 && w.rsv == 0 && w.pw == 0 && w.imm == 0) (fun d =>
    .go ((d.adv p q 2).modPort p q (fun t =>
      { t with armEp := BitVec.ofNat 32 (bits w.w1 63 32), layEp := BitVec.ofNat 32 (bits w.w1 31 0) })))) s

/-- Copies `n` descriptors from memory into entries from `e` (R128). -/
def loadDescs (m : List Host.Cell) (t : Tab (BitVec 512)) (e a : Nat) : Nat → Tab (BitVec 512)
  | 0 => t
  | n + 1 => loadDescs m (Tab.set (fun _ => 0) t e (BitVec.ofNat 512 (leNat (memRead m a 64)))) (e + 1) (a + 64) n

/-- The flag of MEM_ECC_STATUS that an uncorrectable error of a region sets: DRAM_UE, SRAM_UE, or LOCAL_UE of the operand cache and the scalar
local memory (R164). -/
def Region.ueFlag (r : Region) : Nat := match r.kind with
  | 0 => 5
  | 1 => 4
  | _ => 3

/-- An uncorrectable error found by a reader is noted where the memory lies, in the flag of its tier (R163, R164). -/
def Dev.eccMark (d : Dev) (a : Nat) : Dev :=
  match d.region a with
  | some r => d.setFlag (R.eccStatus r.part) r.ueFlag true
  | none => d

/-- DLOAD (R128). -/
def execDload (p : PartId) (q : Port) (w : TWord) (s : State) : Res :=
  onDev (fun d => d.ctlPort p q (encT 0x08 w) w.snd
    (w.x && w.mod == 0 && w.s1 == 0 && w.s2 == 0 && w.s3 == 0 && bits w.w1 63 48 == 0) (fun d =>
    let n := w.imm.toNat
    let a := bits w.w1 47 0
    if w.d = 0 ∨ n = 0 ∨ 256 < n ∨ 255 < w.d.toNat + n - 1 ∨ a % 64 ≠ 0 then .refuse St.badDescriptor
    else match d.reachMem p Reach.move false ((a : Int), (a : Int) + 64 * n) with
      | some c => .refuse c
      | none =>
        if d.held p q (d.ownExts p [⟨a, a + 64 * n⟩]) [] || d.chanBusy a (a + 64 * n) then .hold
        else if d.bad a (64 * n) then
          let pc := d.portPc p q
          .go (((d.adv p q 2).eccMark (d.badWord a (64 * n))).execFault p q (d.port p q).nextId pc q.num St.eccUncorrected (pc / 8)
            (d.badWord a (64 * n)))
        else .go ((d.adv p q 2).modPort p q (fun t => { t with desc := loadDescs d.mem t.desc w.d.toNat a n })))) s

/-- One descriptor advanced by DSTEP (R128): BASE and SCALE_BASE wrap at their 48 bits (DEDUCED, log entry 138). -/
def stepDesc (w : TWord) (pw : W64) (x : BitVec 512) : BitVec 512 :=
  let n := x.toNat
  let f := fun (lo len : Nat) => n / 2 ^ lo % 2 ^ len
  let base := wrapInt 48 ((f 0 48 : Int) + sext 32 (bits pw 63 32))
  let sb := if f 64 48 = 0 then 0 else wrapInt 48 ((f 64 48 : Int) + sext 32 (bits pw 31 0))
  let layer := (f 422 10 + bits w.imm 15 8) % 1024
  let tid := (f 432 16 + bits w.imm 7 0) % 2 ^ 16
  BitVec.ofNat 512 (base + f 48 16 * 2 ^ 48 + sb * 2 ^ 64 + f 112 16 * 2 ^ 112 + f 128 294 * 2 ^ 128 + layer * 2 ^ 422
    + tid * 2 ^ 432 + f 448 64 * 2 ^ 448)

/-- Advances entries from `e` (R128). -/
def stepDescs (w : TWord) (pw : W64) (t : Tab (BitVec 512)) (e : Nat) : Nat → Tab (BitVec 512)
  | 0 => t
  | n + 1 => stepDescs w pw (Tab.set (fun _ => 0) t e (stepDesc w pw (Tab.get (fun _ => 0) t e))) (e + 1) n

/-- DSTEP (R128). -/
def execDstep (p : PartId) (q : Port) (w : TWord) (s : State) : Res :=
  onDev (fun d => d.ctlPort p q (encT 0x09 w) w.snd (!w.x && w.mod == 0 && w.s3 == 0 && bits w.s2 7 4 == 0) (fun d =>
    if w.d = 0 ∨ 255 < w.d.toNat + w.s1.toNat then .refuse St.badDescriptor
    else .go ((d.adv p q 1).modPort p q (fun t =>
      { t with desc := stepDescs w (t.pwAt (bits w.s2 3 0)) t.desc w.d.toNat (w.s1.toNat + 1) })))) s

/-- The threshold of a WAIT (R130). -/
def waitThreshold (ps : PortSt) (w : WaitSt) : BitVec 32 :=
  if w.ind then BitVec.ofNat 32 (bits (ps.pwAt (bits w.value 3 0)) 31 0) else w.value

/-- The parameter word's advance at the moment an IND wait passes (R130). -/
def waitBump (w : WaitSt) (ps : PortSt) : PortSt :=
  if w.ind then
    let i := bits w.value 3 0
    let x := ps.pwAt i
    { ps with pw := Tab.set (fun _ => 0) ps.pw i (putBits x 31 0 (bits x 31 0 + bits w.value 31 16)) }
  else ps

/-- A WAIT passes: the stream goes on with the next instruction (R130). -/
def Dev.passWait (d : Dev) (p : PartId) (q : Seq) (w : WaitSt) : Dev :=
  (d.modPort p q.port (fun t => { waitBump w t with waiting := none })).adv p q.port 1

/-- WAIT (R129, R130): VALUE[15:4] is reserved under IND (R122). -/
def execWait (p : PartId) (q : Seq) (w : SWord) (s : State) : Res :=
  onDev (fun d => d.ctl p q w.x (!w.x && bits w.mod 3 0 == 0 && w.rsv == 0 && (!bit w.mod 4 || bits w.value 15 4 == 0)) (fun d =>
    let ws : WaitSt := ⟨w.ctr, w.value, bit w.mod 4⟩
    if waitMet (d.ctr p w.ctr.toNat) (waitThreshold (d.port p q.port) ws) then .go (d.passWait p q ws)
    else .go (((d.modPort p q.port (fun t => { t with waiting := some ws })).setSeqState p q 2).setFld
      (R.seqStatus p q) 42 34 w.ctr.toNat))) s

/-- Whether the wait at which a stream has stopped is satisfied (R129, R130). -/
def Dev.waitReady (d : Dev) (p : PartId) (q : Seq) : Bool :=
  match (d.port p q.port).waiting with
  | none => false
  | some ws => !d.fenced p && d.seqState p q == 2 && waitMet (d.ctr p ws.ctr.toNat) (waitThreshold (d.port p q.port) ws)

/-- A stream goes on behind a wait that is satisfied. -/
def Dev.waitTry (d : Dev) (p : PartId) (q : Seq) : Dev :=
  match (d.port p q.port).waiting with
  | none => d
  | some ws => if d.waitReady p q then d.passWait p q ws else d

/-- WAIT_PASS (R129, R130, R26). -/
def execWaitPass (p : PartId) (q : Seq) (s : State) : Res := onDev (fun d => d.waitTry p q) s

/-- The flights of the classes a POST fences: MOD[54:50] matrix, vector, move, collective, update (R131). -/
def fenceIds (m : BitVec 5) (fl : List Flight) : List Nat :=
  (fl.filter (fun f => match f.cls with
    | .matrix => bit m 4
    | .vector => bit m 3
    | .move => bit m 2
    | .collective => bit m 1
    | .update => bit m 0)).map (·.id)

/-- The target of a REMOTE post (R132). -/
def postRemote (w : SWord) : Option PartId := if w.x && bit w.w1 4 then some (Fin.ofNat 16 (bits w.w1 3 0)) else none

/-- The bits of a POST's second word that have a meaning: the partition with REMOTE alone (R122). -/
def postWordOk (w : SWord) : Bool := !w.x || (bits w.w1 63 5 == 0 && (bit w.w1 4 || bits w.w1 3 0 == 0))

/-- POST (R131, R132). -/
def execPost (p : PartId) (q : Port) (w : SWord) (s : State) : Res :=
  onDev (fun d => d.ctlPort p q (encS 0x11 w) w.snd (w.rsv == 0 && postWordOk w) (fun d =>
    let ps := d.port p q
    let post : PendPost := ⟨w.ctr, w.value, postRemote w, fenceIds w.mod ps.flights, d.portPc p q⟩
    if (match postRemote w with
      | some t => !d.sameTenant p t
      | none => false) then .refuse St.noPermission
    else if ps.posts.isEmpty && post.fence.isEmpty then .go ((d.adv p q w.len).applyPost p q post)
    else if 8 ≤ ps.posts.length then .hold
    else .go ((d.adv p q w.len).modPort p q (fun t => { t with posts := t.posts ++ [post] })))) s

/-- POST_TAKES_EFFECT (R131, R133): the oldest pending post of a port whose fence is complete. -/
def execPostTakesEffect (p : PartId) (q : Port) (s : State) : Res :=
  onDev (fun d =>
    match (d.port p q).posts with
    | [] => d
    | x :: rest => if x.fence.isEmpty then (d.modPort p q (fun t => { t with posts := rest })).applyPost p q x else d) s

/-- The post that arrives: the first of its source and destination to have left, since packets between two partitions keep their order on a
virtual channel (R12). -/
def Dev.meshNext (d : Dev) (p : PartId) (ctr : BitVec 9) (amount : BitVec 32) : Option MeshPost :=
  d.mesh.find? (fun m => m.dst == p && m.ctr == ctr && m.amount == amount
    && d.mesh.find? (fun y => y.src == m.src && y.dst == m.dst) == some m)

/-- Why a post is refused where it arrives: its partition is fenced (R403), or has become another tenant's since it left (R15). -/
def Dev.postRefuse (d : Dev) (m : MeshPost) : Option Status :=
  firstOf [refuseIf (d.fenced m.dst) St.partitionReset, refuseIf (!d.sameTenant m.src m.dst) St.noPermission]

/-- REMOTE_POST_ARRIVE (R12, R15, R132, R133): the next post between two partitions reaches its destination; where it is refused the posting
instruction stops (R403), unless its own partition has been reset since (R405). -/
def execRemotePostArrive (p : PartId) (ctr : BitVec 9) (amount : BitVec 32) (s : State) : Res :=
  onDev (fun d =>
    match d.meshNext p ctr amount with
    | none => d
    | some m =>
      let d := { d with mesh := d.mesh.erase m }
      match d.postRefuse m with
      | some c =>
        if m.gen != d.gen m.src then d.bump (R.prstStatus m.src) 15 0 1
        else d.execFault m.src m.port (d.port m.src m.port).nextId m.pc m.port.num c (m.pc / 8) 0
      | none => d.addCtr p ctr.toNat amount) s

/-- CSET (R132). -/
def execCset (p : PartId) (q : Port) (w : SWord) (s : State) : Res :=
  onDev (fun d => d.ctlPort p q (encS 0x12 w) w.snd (!w.x && w.mod == 0 && w.rsv == 0) (fun d =>
    .go ((d.adv p q 1).setCtr p w.ctr.toNat w.value))) s

end Sys2Proof.Machine
end

