-- ==== Sys2Proof/Machine/Tick.lean ====
section
/-! DEFINITION. What passes when no command waits: one cycle of the islands' counts (R17, R20; log entry 18). -/
namespace Sys2Proof.Machine

/-- Whether the module runs: its supplies are up and no module reset holds it (R461, R462). -/
def Dev.running (d : Dev) : Bool :=
  match d.boot.ph with
  | .off => false
  | .inReset => false
  | _ => true

/-- Array cycles of a partition that is not held in reset (R17). -/
def Dev.arrayCycles (d : Dev) (p : PartId) (n : Nat) : Dev :=
  if d.fld (R.prstStatus p) 51 48 = 3 then d else d.setReg (R.clkCycles p) (d.reg (R.clkCycles p) + BitVec.ofNat 64 n)

/-- One array cycle of a partition. -/
def Dev.tickPart (d : Dev) (p : PartId) : Dev := d.arrayCycles p 1

/-- ETH_CNTm_k counts (R314). -/
def Dev.ethCount (d : Dev) (m : Fin 8) (k n : Nat) : Dev := d.setReg (R.ethCnt m k) (d.reg (R.ethCnt m k) + BitVec.ofNat 64 n)

/-- The state of a logical MAC. -/
def Dev.mac (d : Dev) (m : Fin 8) : MacSt := d.macs.get m
def Dev.modMac (d : Dev) (m : Fin 8) (f : MacSt → MacSt) : Dev := { d with macs := d.macs.set m (f (d.mac m)) }

/-- Cycles of a MAC's transmit hold timer pass; time held by a PAUSE is counted (R305, R313). -/
def Dev.holdPass (d : Dev) (m : Fin 8) (n : Nat) : Dev :=
  let held := Nat.min n (d.mac m).hold
  let d := if held ≠ 0 ∧ (d.mac m).paused then d.ethCount m 32 held else d
  d.modMac m (fun x => { x with hold := x.hold - n })

/-- One Ethernet cycle of a MAC's timers. -/
def Dev.tickMac (d : Dev) (m : Fin 8) : Dev :=
  let x := d.mac m
  if x.hold = 0 ∧ x.pfcHold = [] then d
  else (d.holdPass m 1).modMac m (fun x => { x with pfcHold := (x.pfcHold.map (fun e => (e.1, e.2 - 1))).filter (fun e => e.2 != 0) })

/-- One cycle of every island of a running module. -/
def Dev.tick (d : Dev) : Dev :=
  if d.running then
    { ((d.setReg R.idLocal (d.reg R.idLocal + 1)).each allParts Dev.tickPart).each (List.finRange 8) Dev.tickMac with ethCycle := d.ethCycle + 1 }
  else d

end Sys2Proof.Machine
end

