-- ==== Sys2Proof/Machine/Access.lean ====
section
/-! DEFINITION. Who reaches control space (R440, R453), and the form of a register write: a device, and the status of a refusal. -/
namespace Sys2Proof.Machine

/-- What a register write answers: the device after it, and the code with which it was refused, if it was. A refused write has
no effect unless its rule says otherwise. -/
abbrev WOut := Dev × Option Status

def WOut.ok (d : Dev) : WOut := (d, none)
def WOut.no (d : Dev) (c : Status) : WOut := (d, some c)

/-- A write with an effect where its conditions hold, refused without one where a check finds a status. -/
def WOut.when (d : Dev) (c : Option Status) (f : Dev → Dev) : WOut :=
  match c with
  | some s => .no d s
  | none => .ok (f d)

/-- Tenant column of R453 at an offset within a partition block: 0 neither, 1 R, 2 RW. An offset that names no register is no column's: reads of it
give 0 and writes have no effect (R439). -/
def tenantCol (o : Nat) : Nat :=
  if o < 0x60 then (if o % 0x20 = 0x18 then 1 else 2)
  else if o = 0x78 ∨ o = 0x180 ∨ o = 0x188 ∨ o = 0x190 ∨ o = 0x198 ∨ o = 0x1A0 then 1
  else if o < 0x1A8 then 2
  else if 0x200 ≤ o ∧ o < 0x300 then 1
  else if 0x800 ≤ o ∧ o < 0x1000 then 1
  else if 0x1000 ≤ o ∧ o < 0x2800 then 2
  else if 0x4000 ≤ o ∧ o < 0x6000 then 2
  else if 0x6000 ≤ o ∧ o < 0x8000 then 1
  else if 0x8000 ≤ o ∧ o < 0xE000 then 2
  else if 0x1A8 ≤ o ∧ o < 0xE000 then 2
  else 0

/-- Whether an offset lies in partition block `p`. -/
def inBlock (p : PartId) (off : Nat) : Bool := off / 0x10000 == 0x10 + p.val

/-- Offsets of the mailbox words (R450). -/
def mailboxOff (off : Nat) : Bool := decide (0x50000 ≤ off) && decide (off < 0x50A00) && off % 8 == 0

/-- Whether a tenant reaches mailbox `k`: a bank of one of its partitions, or a common mailbox whose mask has its bit (R359, R375). -/
def Dev.mailboxMay (d : Dev) (t : TenantId) (k : Nat) : Bool :=
  if k < 256 then d.holds t (Fin.ofNat 16 (k / 16))
  else bit (d.reg (R.mboxAcl ((k - 256) / 4))) (16 * ((k - 256) % 4) + t.val)

/-- Whether the module is in plinth mode (R428, R435). -/
def Dev.plinth (d : Dev) : Bool := bit (d.reg R.bootStatus) 55

/-- Registers that plinth mode offers for writing: FW_STAGE with its selector, FW_CMD, DBG_CTRL, the power cap; and for reading (R430, R444). -/
def plinthOffers (w : Bool) (off : Nat) : Bool :=
  if w then off == R.fwStageSel || (decide (0x18000 ≤ off) && decide (off < 0x20000)) || off == R.fwCmd || off == R.dbgCtrl || off == R.pwrCap
  else decide (off < 0x20000) || (decide (0x80000 ≤ off) && decide (off < 0xA0000))

/-- Whether an agent reaches a register, for writing where `w` holds (R440, R453, R359, R430). Management firmware acts for the owner
where a register is the owner's alone; it does not run in plinth mode. -/
def Dev.agentMay (d : Dev) (a : Agent) (w : Bool) (off : Nat) : Bool :=
  match a with
  | .owner => !d.plinth || plinthOffers w off
  | .mgmtFw => !d.plinth
  | .partFw p => inBlock p off || (mailboxOff off && (off - 0x50000) / 8 / 16 == p.val)
  | .tenantCode p => (inBlock p off && decide ((if w then 2 else 1) ≤ tenantCol (off % 0x10000)))
      || (mailboxOff off && (match d.tenantOf p with
        | some t => d.mailboxMay t ((off - 0x50000) / 8)
        | none => false))

/-- A register write of an agent as a command: the module runs, and the agent reaches the register; a refused write has no effect here
(the core that made it stops where its own instruction makes it, R113; an owner session is told by its reply, R336). -/
def onAgent (a : Agent) (off : Nat) (f : Dev → WOut) (s : State) : Res :=
  onDev (fun d => if d.running && d.agentMay a true off then (f d).1 else d) s

/-! ## Memory that a tenant reaches (R127, R333) -/

/-- The regions that bytes `lo` to `hi` - 1 lie in, with the part in each; `none` where a byte is unbacked (R145, R146). -/
def Dev.spans (d : Dev) (lo hi : Nat) : Nat → Option (List (Region × Nat × Nat))
  | 0 => none
  | n + 1 =>
    match d.region lo with
    | none => none
    | some r => if hi ≤ r.hi then some [(r, lo, hi)] else (d.spans r.hi hi n).map (fun l => (r, lo, r.hi) :: l)

/-- Whether every byte of an extent lies in memory of partitions that the tenant holds. -/
def Dev.tenantHolds (d : Dev) (t : TenantId) (lo hi : Nat) : Bool :=
  match d.spans lo hi 80 with
  | some l => l.all (fun e => d.holds t e.1.part)
  | none => false

/-- Whether part of an extent is a pinned sub-range under LOCK, or partition firmware (R149, R110). -/
def Dev.spanLocked (d : Dev) (e : Region × Nat × Nat) : Bool :=
  e.1.kind == 0 && d.locked e.1.part && decide (e.1.lo + d.pinBase e.1.part < e.2.2)

def spanFirmware (e : Region × Nat × Nat) : Bool := e.1.kind == 3 && decide (e.2.1 < e.1.lo + 0x10000)

/-- Whether the module may write an extent for a tenant: held, outside locked pinned sub-ranges and outside partition firmware. -/
def Dev.tenantMem (d : Dev) (t : TenantId) (lo hi : Nat) : Bool :=
  match d.spans lo hi 80 with
  | some l => l.all (fun e => d.holds t e.1.part && !d.spanLocked e && !spanFirmware e)
  | none => false

end Sys2Proof.Machine
end

