-- ==== Sys2Proof/Machine/Wire.lean ====
section
/-! DEFINITION. Sending over the Paldal transport (R320 to R331): headers, frames, flows, the transmit injectors (R340), replies,
NACKs and ACKs. Bytes of payloads are little-endian where their rule does not say otherwise (R5, log entry 26). -/
namespace Sys2Proof.Machine

/-- TP_CNTk counts (R343). -/
def Dev.tpCount (d : Dev) (k : Nat) : Dev := d.setReg (R.tpCnt k) (d.reg (R.tpCnt k) + 1)

/-! ## Headers (R320, R321) -/

/-- The fields of a Paldal header; `fl` is FLAGS with OPEN in bit 9 and MGMT in bit 1. -/
structure PHdr where
  ver : Nat
  op : Nat
  fl : Nat
  tenant : Nat
  part : Nat
  srcPart : Nat
  seq : Nat
  ack : Nat
  gen : Nat
  qw : Nat
  rsv : Nat
  arm : Nat
  lay : Nat
  flow : Nat
  len : Nat
  rsv3 : Nat
  crc : Nat
deriving DecidableEq, Repr

def flOpen : Nat := 512
def flClose : Nat := 256
def flRst : Nat := 128
def flAckv : Nat := 64
def flResp : Nat := 32
def flRetx : Nat := 16
def flFence : Nat := 8
def flMgmt : Nat := 2

/-- Whether a flag is set. -/
def hasFl (fl m : Nat) : Bool := Nat.land fl m != 0

/-- Sets or clears a flag. -/
def putFl (fl m : Nat) (b : Bool) : Nat := if b then Nat.lor fl m else if hasFl fl m then fl - m else fl

/-- The 32 header bytes, with a CRC field (R320). -/
def PHdr.bytes (h : PHdr) (crc : Nat) : List Byte :=
  beBytes 8 (h.ver % 16 * 2 ^ 60 + h.op % 64 * 2 ^ 54 + h.fl % 1024 * 2 ^ 44 + h.tenant % 16 * 2 ^ 40 + h.part % 16 * 2 ^ 36
    + h.srcPart % 16 * 2 ^ 32 + h.seq % 2 ^ 32)
  ++ beBytes 8 (h.ack % 2 ^ 32 * 2 ^ 32 + h.gen % 4096 * 2 ^ 20 + h.qw % 2 ^ 14 * 2 ^ 6 + h.rsv % 64)
  ++ beBytes 8 (h.arm % 2 ^ 32 * 2 ^ 32 + h.lay % 2 ^ 32)
  ++ beBytes 8 (h.flow % 2 ^ 16 * 2 ^ 48 + h.len % 2 ^ 14 * 2 ^ 34 + h.rsv3 % 4 * 2 ^ 32 + crc % 2 ^ 32)

/-- The header of a UDP payload. -/
def decHdr (l : List Byte) : PHdr :=
  let w := fun k => beNat (sliceB l (8 * k) 8)
  let f := fun v lo n => v / 2 ^ lo % 2 ^ n
  { ver := f (w 0) 60 4, op := f (w 0) 54 6, fl := f (w 0) 44 10, tenant := f (w 0) 40 4, part := f (w 0) 36 4, srcPart := f (w 0) 32 4,
    seq := f (w 0) 0 32, ack := f (w 1) 32 32, gen := f (w 1) 20 12, qw := f (w 1) 6 14, rsv := f (w 1) 0 6, arm := f (w 2) 32 32,
    lay := f (w 2) 0 32, flow := f (w 3) 48 16, len := f (w 3) 34 14, rsv3 := f (w 3) 32 2, crc := f (w 3) 0 32 }

/-- CRC of a header and its payload, the CRC field taken as 0 (R321). -/
def paldalCrc (h : PHdr) (data : List Byte) : Nat := crc32c (h.bytes 0 ++ data)

/-- A UDP payload: header with its CRC, then the data. -/
def paldalBytes (h : PHdr) (data : List Byte) : List Byte := h.bytes (paldalCrc h data) ++ data

/-! ## Frames (R300, R301, R303) -/

/-- A logical interface's registers (R319). -/
def Dev.lifOn (d : Dev) (k : Nat) : Bool := bit (d.reg (R.lifMac k)) 63
def Dev.lifAddr (d : Dev) (k : Nat) : Mac := BitVec.ofNat 48 (d.fld (R.lifMac k) 47 0)
def Dev.lifVid (d : Dev) (k : Nat) : Nat := d.fld (R.lifMac k) 59 48
def Dev.lifMacN (d : Dev) (k : Nat) : Fin 8 := Fin.ofNat 8 (d.fld (R.lifCfg k) 63 61)
def Dev.lifIp (d : Dev) (k : Nat) : Ip := BitVec.ofNat 128 ((d.reg (R.lifIp0 k)).toNat * 2 ^ 64 + (d.reg (R.lifIp1 k)).toNat)
def Dev.lifPort (d : Dev) (k : Nat) : BitVec 16 := BitVec.ofNat 16 (d.fld (R.lifCfg k) 26 11)
def Dev.lifNext (d : Dev) (k : Nat) : Mac := BitVec.ofNat 48 (d.fld (R.lifNh k) 47 0)

/-- The longest frame of an interface: its MAX_FRAME, no greater than its MAC's (R300). -/
def Dev.lifMax (d : Dev) (k : Nat) : Nat := Nat.min (d.fld (R.lifCfg k) 52 39) (d.fld (R.ethMacCfg (d.lifMacN k)) 40 27)

def Dev.lifMsec (d : Dev) (k : Nat) : Bool := bit (d.reg (R.lifCfg k)) 10

/-- Whether a frame's tag is an interface's (R301): its VID on a tagged one, none on an untagged one. -/
def Dev.vidOk (d : Dev) (k : Nat) (tag : Option (BitVec 12 × BitVec 3)) : Bool :=
  match tag with
  | some (v, _) => d.lifVid k == v.toNat && d.lifVid k != 0xFFF
  | none => d.lifVid k == 0xFFF

/-- The traffic class of a queue class (0 latency to 3 background) on an interface (R319). -/
def Dev.lifClass (d : Dev) (k c : Nat) : Nat := d.fld (R.lifCfg k) 38 27 / 8 ^ (3 - c % 4) % 8

/-- The module interface that is a tenant's interface `i` (R378). -/
def Dev.tenantLif (d : Dev) (t : TenantId) (i : Nat) : Option Nat :=
  if i < 8 ∧ bit (d.reg (R.tenLif t)) (56 + i) then some (d.fld (R.tenLif t) (7 * i + 6) (7 * i)) else none

/-- The tenant an interface belongs to. -/
def Dev.lifTenant (d : Dev) (k : Nat) : Option TenantId :=
  (List.finRange 16).find? (fun t => d.tenantValid t && (List.range 8).any (fun i => d.tenantLif t i == some k))

/-- An IPv4-mapped address (R301). -/
def isV4 (a : Ip) : Bool := a.toNat / 2 ^ 32 == 0xFFFF

/-- Whole frame length for a UDP payload of `n` bytes (R300). -/
def Dev.frameLen (d : Dev) (k : Nat) (dst : Ip) (n : Nat) : Nat :=
  Nat.max 64 (14 + (if d.lifVid k = 0xFFF then 0 else 4) + (if d.lifMsec k then 32 else 0) + (if isV4 dst then 20 else 40) + 8 + n + 4)

/-- A UDP frame that leaves interface `k` in a traffic class (R301, R303). -/
def Dev.udpFrame (d : Dev) (k cls : Nat) (dst : Mac) (ip : Ip) (sport dport : BitVec 16) (payload : List Byte) : Frame :=
  { mac := d.lifMacN k, fecBad := false, fecCorr := 0, fecUncorr := 0, buffered := 0, 
    length := d.frameLen k ip payload.length, fcsOk := true, dst := dst, src := d.lifAddr k,
    tag := if d.lifVid k = 0xFFF then none else some (BitVec.ofNat 12 (d.lifVid k), BitVec.ofNat 3 cls), sec := none,
    etherType := if isV4 ip then 0x0800 else 0x86DD, macCtl := 0, pauseTimes := [],
    ip := some ⟨!isV4 ip, true, d.lifIp k, ip, d.fld R.tpCfg 23 16, 17, none, 0⟩, udp := some ⟨true, sport, dport, 0⟩, payload := payload }

/-! ## Flow injectors (R340) -/

/-- A draw of an injector: the LFSR's polynomial is not stated, so the bits are free (log entry 27). -/
def Dev.injDraw (d : Dev) : BitVec 32 × Dev :=
  let r := d.free
  (BitVec.ofNat 32 r.1.toNat, r.2)

/-- Whether an injector selects the next frame (R340). -/
def Dev.injPick (d : Dev) (j : Fin 4) : Bool × Dev :=
  let rate := d.fld (R.tpInj j) 57 42
  let st := d.inj[j]
  if rate = 0 then (false, d)
  else if bit (d.reg (R.tpInj j)) 58 then
    let n := st.period + 1
    if rate ≤ n then (true, { d with inj := d.inj.set j { st with period := 0 } })
    else (false, { d with inj := d.inj.set j { st with period := n } })
  else
    let r := d.injDraw
    (decide (r.1.toNat % 2 ^ 16 < rate), { r.2 with inj := r.2.inj.set j { st with lfsr := r.1 } })

/-- Inverts bit 0 of a byte. -/
def flipByte (l : List Byte) (i : Nat) : List Byte := l.set i (Nat.xor (l.getD i 0).toNat 1 |> BitVec.ofNat 8)

/-- The corrupt action of R340 on a UDP payload. -/
def corruptPaldal (l : List Byte) (crcok : Bool) : List Byte :=
  let x := flipByte l (if l.length ≤ 32 then 31 else 32)
  if crcok then paldalBytes (decHdr x) (x.drop 32) else x

/-- What an injector does with a frame of its flow and direction (1 transmit, 2 receive): the frames that go on, in order (R340). -/
def Dev.injOne (d : Dev) (n dir : Nat) (j : Fin 4) (t : TxFrame) : List TxFrame × Dev :=
  if d.fld (R.tpInj j) 63 62 ≠ dir ∨ d.fld (R.tpInj j) 31 16 ≠ n then ([t], d)
  else
    let r := d.injPick j
    let d := r.2
    let st := d.inj[j]
    let later := match st.side with
      | some (x, k, rx) => if k ≤ 1 then (some x, none) else (none, some (x, k - 1, rx))
      | none => ((none : Option TxFrame), (none : Option (TxFrame × Nat × Bool)))
    if r.1 then
      match d.fld (R.tpInj j) 61 60 with
      | 0 => ([], d.tpCount 19)
      | 1 => ([{ t with frame := { t.frame with payload := corruptPaldal t.frame.payload (bit (d.reg (R.tpInj j)) 59) } }], d.tpCount 20)
      | _ =>
        if st.side.isSome then (t :: later.1.toList, { d with inj := d.inj.set j { st with side := later.2 } })
        else ([], ({ d with inj := d.inj.set j { st with side := some (t, d.fld (R.tpInj j) 41 38, dir == 2) } }).tpCount 21)
    else (t :: later.1.toList, { d with inj := d.inj.set j { st with side := later.2 } })

/-- A frame passes the four injectors: what leaves one passes the next. -/
def Dev.injFrame (d : Dev) (n dir : Nat) (t : TxFrame) : List TxFrame × Dev :=
  (List.finRange 4).foldl (fun (a : List TxFrame × Dev) j =>
    a.1.foldl (fun (b : List TxFrame × Dev) x =>
      let r := b.2.injOne n dir j x
      (b.1 ++ r.1, r.2)) ([], a.2)) ([t], d)

/-- A frame of flow `n` becomes ready for its logical MAC (R308, R340); one longer than its interface's MAX_FRAME is not built (R320; log
entry 133). -/
def Dev.txPush (d : Dev) (n lif cls : Nat) (f : Frame) : Dev :=
  if d.lifMax lif < f.length then d
  else
    let r := d.injFrame n 1 ⟨lif, cls, false, some n, f⟩
    { r.2 with txq := r.2.txq ++ r.1 }

/-! ## Flows (R324, R330, R331) -/

def Dev.flow (d : Dev) (n : Nat) : Option Flow := Tab.find d.flows n
def Dev.setFlow (d : Dev) (n : Nat) (f : Flow) : Dev := { d with flows := Tab.put d.flows n f }
def Dev.dropFlow (d : Dev) (n : Nat) : Dev := { d with flows := Tab.del d.flows n }

/-- `a` before `b` by the signed difference of R129. -/
def seqLt (a b : BitVec 32) : Bool := decide (2 ^ 31 ≤ (a - b).toNat)

/-- `a` after `b` by the signed difference of R129: at a difference of 2^31 neither is after the other. -/
def seqGt (a b : BitVec 32) : Bool := decide (0 < (a - b).toNat) && decide ((a - b).toNat < 2 ^ 31)

/-- SRC_PART of an endpoint (R320). -/
def EndPt.num : EndPt → Nat
  | .part p => p.val
  | .mgmt => 0

/-- PATHS, where 0 reads as 1 (R341). -/
def Dev.paths (d : Dev) : Nat := Nat.max 1 (d.fld R.tpCfg 31 28)

/-- The UDP source port of a sequence (R330). -/
def Dev.srcPort (d : Dev) (n : Nat) (f : Flow) (seq : BitVec 32) : BitVec 16 :=
  BitVec.ofNat 16 (49152 + (n * d.paths + (seq.toNat + f.pathOff) % d.paths) % 16384)

/-- The first free flow number of the 65,536 from `k` on, around (R324). -/
def freeFlowAux (t : Tab Flow) (k : Nat) : Nat → Option Nat
  | 0 => none
  | n + 1 => if (Tab.find t (k % 65536)).isNone then some (k % 65536) else freeFlowAux t (k + 1) n

/-- The number of a free context (R324). Numbers are given in turn, so that a late frame of a flow that has ended names none for long (R405; DESIGN
CHOICE, log entry 132). -/
def Dev.freeFlow (d : Dev) : Option Nat := if 65536 ≤ d.flows.length then none else freeFlowAux d.flows d.flowNext (d.flows.length + 1)

/-- A new context takes a number. -/
def Dev.putFlow (d : Dev) (n : Nat) (f : Flow) : Dev := ({ d with flowNext := (n + 1) % 65536 } : Dev).setFlow n f

/-- Flow contexts a tenant holds; a flow of an owner interface belongs to no tenant (R382). -/
def Dev.flowCount (d : Dev) (t : TenantId) : Nat := d.flows.countP (fun e => e.2.tenant == t && !e.2.ownerIf)

/-- Whether a new flow on an interface would pass the tenant's quota (R324, R378). -/
def Dev.overQuota (d : Dev) (t : TenantId) (lif : Nat) : Bool :=
  (d.lifTenant lif).isSome && decide (d.fld (R.tenLim t) 63 48 ≤ d.flowCount t)

/-- A fresh context: initial sequence `seq`, congestion window CWND_INIT (R331). -/
def Dev.newFlow (d : Dev) (t : TenantId) (ep : EndPt) (lif cls : Nat) (ip : Ip) (port : BitVec 16) (mac : Mac) (peerPart : BitVec 4)
    (peerMgmt : Bool) (seq : BitVec 32) : Flow :=
  { tenant := t, hdr := t, ownerIf := (d.lifTenant lif).isNone, ep := ep, lif := lif, cls := cls, peerIp := ip, peerPort := port, peerMac := mac,
    peerFlow := 0, peerPart := peerPart, peerMgmt := peerMgmt, peerGen := 0, established := false, txNext := seq, txLimit := seq + 1,
    unacked := [], waitQ := [], pathOff := 0, expiries := 0, firstSeq := seq, rxNext := seq, rxAbove := [], rxHeld := [], ackDue := 0,
    cwnd := d.fld R.tpCc 39 20 * 1024, baseRtt := none, decreaseAt := none, accepted := false, announce := false, rxEcho := seq,
    awaiting := [], linkSeen := true, owner := false, challenge := none }

/-- Whether a flow joins two endpoints in a class under a header tenant (R324). -/
def Flow.joins (f : Flow) (t hdr : TenantId) (ep : EndPt) (lif cls : Nat) (ip : Ip) (port : BitVec 16) (peerPart : BitVec 4) (peerMgmt : Bool) : Bool :=
  f.tenant == t && f.hdr == hdr && f.ep == ep && f.lif == lif && f.cls == cls && f.peerIp == ip && f.peerPort == port && f.peerPart == peerPart
    && f.peerMgmt == peerMgmt

/-- The flow that joins two endpoints in a class under a header tenant, or a new one (R324); `none` where no context is free or the
tenant's quota is full. -/
def Dev.flowAs (d : Dev) (t hdr : TenantId) (ep : EndPt) (lif cls : Nat) (ip : Ip) (port : BitVec 16) (mac : Mac) (peerPart : BitVec 4)
    (peerMgmt : Bool) : Option (Nat × Dev) :=
  match d.flows.find? (fun e => e.2.joins t hdr ep lif cls ip port peerPart peerMgmt) with
  | some e => some (e.1, d)
  | none =>
    match (if d.overQuota t lif then none else d.freeFlow) with
    | none => none
    | some n =>
      let r := d.free
      let f := d.newFlow t ep lif cls ip port mac peerPart peerMgmt (BitVec.ofNat 32 r.1.toNat)
      some (n, (r.2.putFlow n { f with hdr := hdr }).tpCount 13)

/-- The flow of a tenant's own traffic. -/
def Dev.flowTo (d : Dev) (t : TenantId) (ep : EndPt) (lif cls : Nat) (ip : Ip) (port : BitVec 16) (mac : Mac) (peerPart : BitVec 4)
    (peerMgmt : Bool) : Option (Nat × Dev) := d.flowAs t t ep lif cls ip port mac peerPart peerMgmt

/-- Bytes in flight (R331). -/
def Flow.inflight (f : Flow) : Nat := (f.unacked.map (fun r => r.frame.length)).foldl (· + ·) 0

/-- The OPEN flag of a record's frame. -/
def TxRec.isOpen (r : TxRec) : Bool := hasFl (decHdr r.frame.payload).fl flOpen

/-- A record's frame with the fields that are known only when it leaves: FLOW, GEN, ACK, RETX and source port (R321, R324, R330). -/
def Dev.finish (d : Dev) (n : Nat) (f : Flow) (r : TxRec) (retx : Bool) : TxRec :=
  let h := decHdr r.frame.payload
  let data := r.frame.payload.drop 32
  let op := hasFl h.fl flOpen
  let h' := { h with flow := if op then n else f.peerFlow.toNat, gen := if op then 0 else f.peerGen.toNat, ack := f.rxNext.toNat,
                     fl := putFl (putFl h.fl flAckv f.established) flRetx retx }
  let sp := if op then d.lifPort f.lif else d.srcPort n f r.seq
  { r with retx := r.retx || retx, sentAt := d.ethCycle,
           frame := { r.frame with payload := paldalBytes h' data, udp := some ⟨true, sp, f.peerPort, 0⟩ } }

/-- Sends waiting frames while they fit the windows (R324, R327, R331). -/
def Dev.pumpAux (d : Dev) (n : Nat) : Nat → Dev
  | 0 => d
  | k + 1 =>
    match d.flow n with
    | none => d
    | some f =>
      match f.waitQ with
      | [] => d
      | r :: t =>
        if (f.established || r.isOpen) && seqLt r.seq f.txLimit && decide (f.inflight + r.frame.length ≤ f.cwnd) then
          let r' := d.finish n f r false
          ((d.setFlow n { f with waitQ := t, unacked := f.unacked ++ [r'] }).txPush n r'.lif r'.cls r'.frame).pumpAux n k
        else d

def Dev.pump (d : Dev) (n : Nat) : Dev :=
  match d.flow n with
  | some f => d.pumpAux n f.waitQ.length
  | none => d

/-- Armature and layout epoch of a tenant (R245). -/
def Dev.armEpoch (d : Dev) (t : TenantId) : BitVec 32 := BitVec.ofNat 32 (d.fld (R.collEpoch t) 63 32)
def Dev.layEpoch (d : Dev) (t : TenantId) : BitVec 32 := BitVec.ofNat 32 (d.fld (R.collEpoch t) 31 0)

/-- Queues a sequenced frame on a flow with given epochs, and sends what can leave. -/
def Dev.sendEp (d : Dev) (n op fl qw : Nat) (arm lay : BitVec 32) (data : List Byte) (what : TxWhat) : Dev :=
  match d.flow n with
  | none => d
  | some f =>
    let opening := !f.established && f.unacked.isEmpty && f.waitQ.isEmpty
    let h : PHdr :=
      { ver := 1, op := op, fl := putFl (putFl fl flOpen opening) flMgmt f.peerMgmt, tenant := f.hdr.val, part := f.peerPart.toNat,
        srcPart := f.ep.num, seq := f.txNext.toNat, ack := 0, gen := 0, qw := qw, rsv := 0, arm := arm.toNat, lay := lay.toNat, flow := 0,
        len := data.length, rsv3 := 0, crc := 0 }
    let fr := d.udpFrame f.lif f.cls f.peerMac f.peerIp 0 f.peerPort (h.bytes 0 ++ data)
    let r : TxRec := { seq := f.txNext, what := what, lif := f.lif, cls := f.cls, frame := fr, retx := false, fast := false, sentAt := d.ethCycle }
    (d.setFlow n { f with txNext := f.txNext + 1, waitQ := f.waitQ ++ [r] }).pump n

/-- Queues a sequenced frame under the tenant's current epochs. -/
def Dev.send (d : Dev) (n op fl qw : Nat) (data : List Byte) (what : TxWhat) : Dev :=
  match d.flow n with
  | none => d
  | some f => d.sendEp n op fl qw (d.armEpoch f.tenant) (d.layEpoch f.tenant) data what

/-! ## Replies, NACKs, ACKs (R322, R323, R326) -/

/-- Reply prefix (R322). -/
def replyPrefix (seq : BitVec 32) (st : Status) : List Byte := leBytes 4 seq.toNat ++ [st, 0, 0, 0]

/-- A reply to a request. -/
def Dev.reply (d : Dev) (r : Req) (op : Nat) (data : List Byte) : Dev :=
  d.send r.flow op flResp r.qw.toNat (replyPrefix r.seq St.ok ++ data) .reply

/-- Current generation of the partition a request names; 0 for the management island. -/
def Dev.reqGen (d : Dev) (r : Req) : Nat := if r.mgmt then 0 else d.gen r.part

/-- A NACK (R322). -/
def Dev.nack (d : Dev) (r : Req) (op : Nat) (st : Status) (detail : Nat) : Dev :=
  (d.send r.flow 0x11 flResp 0 (replyPrefix r.seq st ++ leBytes 1 op ++ [0] ++ leBytes 2 (d.reqGen r) ++ leBytes 4 detail) .reply).tpCount 15

/-- A request to a partition that is fenced is refused, any other goes on (check 11 of R332, R403). -/
def Dev.takeReq (d : Dev) (r : Req) (op : Nat) (f : Dev → Dev) : Dev :=
  if !r.mgmt && d.fenced r.part then d.nack r op St.partitionReset 0 else f d

/-- Runs of consecutive sequences, as pairs first received, first not received (R326). -/
def sackRuns : List (BitVec 32) → List (BitVec 32 × BitVec 32)
  | [] => []
  | a :: t =>
    match sackRuns t with
    | (b, e) :: u => if b = a + 1 then (a, e) :: u else (a, a + 1) :: (b, e) :: u
    | [] => [(a, a + 1)]

/-- Payload of an ACK (R326). -/
def ackPayload (limit echo : BitVec 32) (peerFlow gen : Nat) (st : Status) (sacks : List (BitVec 32 × BitVec 32))
    (credits : List (Nat × Nat × Nat)) : List Byte :=
  leBytes 4 limit.toNat ++ leBytes 4 echo.toNat ++ leBytes 2 peerFlow ++ leBytes 2 gen ++ [st] ++ leBytes 1 sacks.length
    ++ leBytes 1 credits.length ++ [0] ++ sacks.flatMap (fun s => leBytes 4 s.1.toNat ++ leBytes 4 s.2.toNat)
    ++ credits.flatMap (fun c => leBytes 8 (c.1 % 4096 * 2 ^ 52 + c.2.1 % 2 ^ 16 * 2 ^ 32 + c.2.2 % 2 ^ 32))

/-- Header of an ACK (R320, R326). -/
def ackHdr (tenant part srcPart ack gen flow fl len : Nat) (arm lay : BitVec 32) : PHdr :=
  { ver := 1, op := 0x10, fl := fl, tenant := tenant, part := part, srcPart := srcPart, seq := 0, ack := ack, gen := gen, qw := 0, rsv := 0,
    arm := arm.toNat, lay := lay.toNat, flow := flow, len := len, rsv3 := 0, crc := 0 }

/-- LIMIT: 1,024 sequences beyond the cumulative ACK, the most R326 allows (log entry 28). -/
def Flow.rxLimit (f : Flow) : BitVec 32 := f.rxNext + 1024

/-- Sends an ACK of flow `n`; `opening` answers an OPEN (R324, R326). -/
def Dev.sendAck (d : Dev) (n : Nat) (echo : BitVec 32) (opening : Bool) (credits : List (Nat × Nat × Nat)) : Dev :=
  match d.flow n with
  | none => d
  | some f =>
    let gen := match f.ep with
      | .part p => d.gen p
      | .mgmt => 0
    let data := ackPayload f.rxLimit echo (if opening then n else 0) (if opening then gen else 0) 0 ((sackRuns f.rxAbove).take 8) (credits.take 16)
    let h := ackHdr f.hdr.val f.peerPart.toNat f.ep.num f.rxNext.toNat f.peerGen.toNat f.peerFlow.toNat
      (flAckv + (if opening then flOpen else 0) + (if f.peerMgmt then flMgmt else 0)) data.length
      (d.armEpoch f.tenant) (d.layEpoch f.tenant)
    let fr := d.udpFrame f.lif f.cls f.peerMac f.peerIp (d.srcPort n f echo) f.peerPort (paldalBytes h data)
    (d.setFlow n { f with ackDue := 0 }).txPush n f.lif f.cls fr

end Sys2Proof.Machine
end

