-- ==== Sys2Proof/Machine/Move.lean ====
section
/-! DEFINITION. The move engines (R473 to R476, R41, R42) and the writers of working-shard entries (R156). -/
namespace Sys2Proof.Machine

/-! ## Writing a working-shard entry (R156) -/

/-- Whether the instruction that placed an entry in the filling state is still in progress. -/
def Dev.fillLive (d : Dev) (w : WFill) : Bool := (d.port w.part w.port).flights.any (fun f => f.id == w.id)

/-- Whether an entry holds version `s` already (R156). -/
def Dev.wsbHolds (d : Dev) (pe : PartId × Nat) (s : W64) : Bool := d.wsbState pe.1 pe.2 == 2 && d.wsbTag pe.1 pe.2 == s

/-- Whether a writer of version `s` may start (R156); an entry left filling by a writer that has stopped takes that version again
(R197, log entry 30). -/
def Dev.wsbFree (d : Dev) (pe : PartId × Nat) (s : W64) : Bool :=
  d.wsbHolds pe s || (d.wsbRef pe.1 pe.2 == 0 && (d.wsbState pe.1 pe.2 != 1 || (match Tab.find (d.part pe.1).fill pe.2 with
    | some w => w.version == s && !d.fillLive w
    | none => true)))

/-- Places an entry in the filling state for a writer; an entry that holds the version stays valid (R156). -/
def Dev.wsbBegin (d : Dev) (pe : PartId × Nat) (w : WFill) : Dev :=
  if d.wsbHolds pe w.version then d
  else
    let d := (d.setFld (R.wsbCtrl pe.1 pe.2) 25 24 1).setReg (R.wsbTag pe.1 pe.2) 0xFFFFFFFFFFFFFFFF
    d.modPart pe.1 (fun x => { x with fill := Tab.put x.fill pe.2 w })

/-- Tag and state of an entry whose writer has completed (R156). -/
def Dev.wsbEnd (d : Dev) (pe : PartId × Nat) (s : W64) : Dev :=
  let d := (d.setFld (R.wsbCtrl pe.1 pe.2) 25 24 2).setReg (R.wsbTag pe.1 pe.2) s
  d.modPart pe.1 (fun x => { x with fill := Tab.del x.fill pe.2 })

/-- Whether a destination may be written now (R156). -/
def Dev.dstFree (d : Dev) (x : Desc) (step : W64) : Bool :=
  !x.tagchk || (match d.wsbOf x.base with
    | some pe => d.wsbFree pe step
    | none => true)

/-- Begins writing a destination: its entry, if it names one, is filling. -/
def Dev.dstBegin (d : Dev) (x : Desc) (w : WFill) : Dev :=
  if x.tagchk then (match d.wsbOf x.base with
    | some pe => d.wsbBegin pe w
    | none => d) else d

/-- Whether an instruction fills the entry of its destination: its completion is then the entry's (WSB_FILL_COMPLETE). -/
def Dev.dstFilling (d : Dev) (x : Desc) (p : PartId) (q : Port) (id : Nat) : Bool :=
  x.tagchk && (match d.wsbOf x.base with
    | some pe => (match Tab.find (d.part pe.1).fill pe.2 with
      | some w => w.part == p && w.port.num == q.num && w.id == id
      | none => false)
    | none => false)

/-! ## Copies -/

/-- Source and destination byte addresses of a copy without conversion, element plane first, then scale plane (R41, R474): elements pair by
their place in the order of R41, blocks by theirs, as many as the source S1 has (DESIGN CHOICE, log entry 146). -/
def planeMap (x y : Desc) : List (Nat × Nat) :=
  if x.blocked then
    (List.range x.blocks).flatMap (fun b =>
      let ox := x.addr (x.off (x.blockIx b))
      let oy := y.addr (y.off (y.blockIx b))
      (List.range (fmtBlockBytes x.fmt)).map (fun j => (ox + j, oy + j)))
    ++ (List.range x.blocks).map (fun b => (x.scaleAddr (x.off (x.blockIx b)), y.scaleAddr (y.off (y.blockIx b))))
  else if x.fmt = 0xC then
    ((List.range x.count).map (fun i => (x.addr (x.off (ixOf x.dims i)), y.addr (y.off (ixOf y.dims i))))).eraseDups
  else
    (List.range x.count).flatMap (fun i =>
      let ox := x.addr (x.off (ixOf x.dims i))
      let oy := y.addr (y.off (ixOf y.dims i))
      (List.range (fmtBits x.fmt / 8)).map (fun j => (ox + j, oy + j)))

/-- A descriptor of saved block inputs (R41). -/
def Desc.saved (x : Desc) : Bool := !x.norec && x.kind == 2

/-- A MOVE copies bytes: into or out of kind 0x2, or between equal formats and kinds (R41, R123). -/
def bytesCopy (x y : Desc) : Bool := x.saved || y.saved || (x.fmt == y.fmt && x.kind == y.kind && x.norec == y.norec && x.axis == y.axis)

/-- Copies the codes of unblocked elements, the bytes of blocks and scales (R41). -/
def Dev.copyBytes (d : Dev) (x y : Desc) : Dev :=
  if y.blocked then
    let vals := (planeMap y x).map (fun m => (m.2, memGet d.mem m.1))
    d.each vals (fun d v => d.wr v.1 [v.2])
  else
    let codes := (List.range y.count).map (fun i => d.rdCode y (ixOf y.dims i))
    d.each (codes.mapIdx (fun i c => (i, c))) (fun d c => d.wrCode x (ixOf x.dims c.1) c.2)

/-- The value of an element as a conversion takes it: decoded to FP32 (R37, R42). -/
def Dev.moveVal (d : Dev) (y : Desc) (ix : List Nat) : Val := ofF32 (d.rdF32 y ix)

/-- What keys a move instruction's random bits (R46). -/
def MIns.key (i : MIns) (p : PartId) : RndKey :=
  { seed := i.seed, tensor := 0, source := i.port.num, part := p.val, hop := 0, step := i.step }

/-- MOVE (R42). -/
def Dev.runMove (d : Dev) (p : PartId) (i : MIns) : Dev :=
  if bytesCopy i.d i.s1 then d.copyBytes i.d i.s1
  else d.storeTensor p i.d false (i.key p) ((List.range i.d.count).map (fun j => .val (d.moveVal i.s1 (ixOf i.s1.dims j)) true))

/-- The value MFILL converts (R475). -/
def fillVal (x : Desc) (w1 : W64) : Val :=
  if x.fmt = 0xB ∨ x.fmt = 0xC ∨ x.fmt = 0xD then .ofInt (sext 32 (bits w1 31 0)) else ofF32 (BitVec.ofNat 32 (bits w1 31 0))

/-- MFILL (R475). -/
def Dev.runMfill (d : Dev) (p : PartId) (i : MIns) : Dev :=
  d.storeTensor p i.d false (i.key p) ((List.range i.d.count).map (fun _ => .val (fillVal i.d i.w1) true))

/-- Row `r` of a tensor as a descriptor-free list of positions. -/
def Desc.rowIxs (x : Desc) (r : Nat) : List (List Nat) := (List.range (x.dim 0)).map (x.rowIx r)

/-- Moves row `rs` of the source to row `rd` of the destination (R473, R41). -/
def Dev.moveRow (d : Dev) (p : PartId) (i : MIns) (rd rs : Nat) : Dev :=
  if bytesCopy i.d i.s1 then
    if i.d.blocked then
      let nb := ceilDiv (i.d.dim 0) 32
      d.each (List.range nb) (fun d b =>
        let src := i.s1.off (i.s1.rowIx rs (32 * b))
        let dst := i.d.off (i.d.rowIx rd (32 * b))
        (d.wr (i.d.addr dst) (d.rd (i.s1.addr src) (fmtBlockBytes i.d.fmt))).wr (i.d.scaleAddr dst) (d.rd (i.s1.scaleAddr src) 1))
    else
      let codes := (i.s1.rowIxs rs).map (fun ix => d.rdCode i.s1 ix)
      d.each (codes.mapIdx (fun k c => (k, c))) (fun d c => d.wrCode i.d (i.d.rowIx rd c.1) c.2)
  else d.storeSome p i.d (i.key p)
    ((i.s1.rowIxs rs).mapIdx (fun k ix => (flatOf i.d.dims (i.d.rowIx rd k), .val (d.moveVal i.s1 ix) true)))

/-- The list of MGATHER or MSCATTER in order; the position at which an index stops it, if one does (R473). -/
def Dev.moveList (d : Dev) (p : PartId) (i : MIns) (gather : Bool) (lim : Nat) : List (Nat × Int) → Dev × Option Nat
  | [] => (d, none)
  | (pos, ix) :: t =>
    if ix < 0 ∨ (lim : Int) ≤ ix then (d, some pos)
    else
      let d := if gather then d.moveRow p i pos ix.toNat else d.moveRow p i ix.toNat pos
      d.moveList p i gather lim t

/-! ## Peers (R474, R335) -/

/-- A collective group of a tenant: installed, in its range (R215). -/
def Dev.groupOf (d : Dev) (t : TenantId) (g : Nat) : Option Group :=
  let o := R.tenCfg t
  if d.fld o 31 20 ≤ g ∧ g < d.fld o 31 20 + d.fld o 19 7 then
    match Tab.find d.coll.groups g with
    | some x => if x.tenant = t then some x else none
    | none => none
  else none

/-- Joins bytes at consecutive addresses into runs of at most `n` bytes. -/
def joinRuns (n : Nat) : List (Nat × Byte) → List (Nat × List Byte)
  | [] => []
  | (a, b) :: t =>
    match joinRuns n t with
    | (x, l) :: u => if x = a + 1 ∧ l.length < n then (a, b :: l) :: u else (a, [b]) :: (x, l) :: u
    | [] => [(a, [b])]

/-- Data bytes a frame of an interface can carry behind `n` bytes of operation header (R320). -/
def Dev.roomFor (d : Dev) (lif : Nat) (ip : Ip) (n : Nat) : Nat :=
  Nat.min 9082 (d.lifMax lif - d.frameLen lif ip 32) - n

/-- Cuts elements `lo` to `hi - 1` into runs of at most `n`. -/
def cutAux (lo hi n : Nat) : Nat → List (Nat × Nat)
  | 0 => []
  | k + 1 => if hi ≤ lo then [] else (lo, min n (hi - lo)) :: cutAux (lo + n) hi n k

def cuts (lo hi n : Nat) : List (Nat × Nat) := cutAux lo hi (Nat.max 1 n) ((hi - lo) / Nat.max 1 n + 1)

/-- A reply of one frame, or of consecutive ones where it is longer than the interface's MAX_FRAME lets a frame be (R320): that each carries the
reply's first bytes again and then the next of the data is a DESIGN CHOICE (log entry 86). -/
def Dev.replyCut (d : Dev) (r : Req) (op : Nat) (data : List Byte) : Dev :=
  match d.flow r.flow with
  | none => d
  | some f => d.each (cuts 0 data.length (d.roomFor f.lif f.peerIp 8)) (fun d c => d.reply r op (sliceB data c.1 c.2))

/-- The flow from a partition to a rank of a group (R231, R330). -/
def Dev.rankFlow (d : Dev) (p : PartId) (g : Group) (r : Rank) : Option (Nat × Dev) :=
  match d.tenantLif g.tenant g.lif with
  | some k => d.flowTo g.tenant (.part p) k g.tclass r.ip (if r.port = 0 then 51430 else r.port) r.mac (BitVec.ofNat 4 r.part.val) false
  | none => none

/-- Whether that flow is there: its opening request has left. -/
def Dev.rankOpen (d : Dev) (p : PartId) (g : Group) (r : Rank) : Bool :=
  match d.tenantLif g.tenant g.lif with
  | some k => d.flows.any (fun e => e.2.joins g.tenant g.tenant (.part p) k g.tclass r.ip (if r.port = 0 then 51430 else r.port)
      (BitVec.ofNat 4 r.part.val) false)
  | none => false

/-- MPUT sends its runs (R474, R335): the device and the frames now outstanding. -/
def Dev.runMput (d : Dev) (p : PartId) (i : MIns) (g : Group) (r : Rank) : Option (Nat × Dev) :=
  match d.rankFlow p g r with
  | none => none
  | some (n, d) =>
    let k := (d.tenantLif g.tenant g.lif).getD 0
    let data := (planeMap i.s1 i.d).map (fun m => (m.2, memGet d.mem m.1))
    let runs := joinRuns (d.roomFor k r.ip 16) data
    some (runs.length, d.each runs (fun d run =>
      d.send n 0x06 0 (bits i.w1 35 28) (leBytes 8 run.1 ++ leBytes 4 0 ++ [0, 0, 0, 0] ++ run.2) (.mput p i.port i.id)))

/-- MGET asks for the runs of the peer's layout (R474, R335): the device and the bytes now outstanding. -/
def Dev.runMget (d : Dev) (p : PartId) (i : MIns) (g : Group) (r : Rank) : Option (Nat × Dev) :=
  match d.rankFlow p g r with
  | none => none
  | some (n, d) =>
    let addrs := (planeMap i.s1 i.d).map (fun m => (m.1, (0 : Byte)))
    let runs := joinRuns (2 ^ 24) addrs
    some (addrs.length, d.each runs (fun d run =>
      d.send n 0x05 0 (bits i.w1 35 28) (leBytes 8 run.1 ++ leBytes 4 run.2.length ++ leBytes 4 0) (.mget p i.port i.id run.1 run.2.length)))

/-! ## The engines (R119, R120) -/

def unitMove : Nat := 0xD

/-- A move instruction leaves its engine. -/
def Dev.moveDrop (d : Dev) (p : PartId) (i : MIns) : Dev :=
  d.modPart p (fun x => { x with mq := x.mq.filter (fun j => !(j.port.num == i.port.num && j.id == i.id)) })

def Dev.movePut (d : Dev) (p : PartId) (i : MIns) : Dev :=
  d.modPart p (fun x => { x with mq := x.mq.map (fun j => if j.port.num = i.port.num ∧ j.id = i.id then i else j) })

/-- A move instruction has written its destination: it completes, or its entry's filling completes it (R131, R156). -/
def Dev.moveDone (d : Dev) (p : PartId) (i : MIns) : Dev :=
  let d := d.moveDrop p i
  if d.dstFilling i.d p i.port i.id then d else d.complete p i.port i.id

/-- A move instruction stops at execution (R136). -/
def Dev.moveFault (d : Dev) (p : PartId) (i : MIns) (code : Status) (detail addr : Nat) : Dev :=
  (d.moveDrop p i).execFault p i.port i.id i.pc unitMove code detail addr

/-- Step tags and uncorrectable errors of the local sources (R128, R157, R163). -/
def Dev.moveReadCheck (d : Dev) (i : MIns) : Option (Status × Nat) :=
  let src := if i.opc = 0x61 then [] else if i.opc = 0x65 then i.s2.toList else i.s1 :: i.s2.toList
  match src.find? (fun x => !(d.tagOk x i.step)) with
  | some x => some (St.versionMismatch, x.base)
  | none =>
    match src.find? d.badData with
    | some x => some (St.eccUncorrected, d.badAt x)
    | none => none

/-- Rows of the indexed tensor, and the list itself. -/
def Dev.moveIndices (d : Dev) (i : MIns) : List (Nat × Int) :=
  match i.s2 with
  | some s => (List.range s.count).map (fun k => (k, d.rdInt s (ixOf s.dims k)))
  | none => []

/-- The rank that MPUT or MGET names. -/
def Dev.peerOf (d : Dev) (p : PartId) (w1 : W64) : Option (Group × Rank) :=
  match d.tenantOf p with
  | none => none
  | some t =>
    match d.groupOf t (bits w1 63 52) with
    | none => none
    | some g =>
      match g.ranks[bits w1 51 36]? with
      | some r => some (g, r)
      | none => none

/-- The local extents that a move instruction reads and writes. -/
def MIns.exts (i : MIns) : List Extent × List Extent :=
  ((if i.opc = 0x61 ∨ i.opc = 0x65 then [] else i.s1.exts) ++ (if i.opc = 0x65 then [] else i.s2.toList.flatMap Desc.exts),
    if i.opc = 0x64 then [] else i.d.exts)

/-- What another partition's router answers to an access to its memory (R15, R403). -/
def Dev.otherPart (d : Dev) (p : PartId) (w : Bool) (e : Extent) : Option Status :=
  match d.region e.lo with
  | some r => if r.part = p then none else d.reachRange p Reach.move w ((e.lo : Int), (e.hi : Int))
  | none => none

/-- What refuses a move instruction as it starts: a partition that it addresses has been fenced, or has become another tenant's, since it issued
(R15, R403). -/
def Dev.moveReach (d : Dev) (p : PartId) (i : MIns) : Option Status :=
  firstOf (i.exts.1.map (d.otherPart p false) ++ i.exts.2.map (d.otherPart p true))

/-- Why a move instruction stops before its first byte: a partition's refusal, a step tag, an uncorrectable error. -/
def Dev.moveBad (d : Dev) (p : PartId) (i : MIns) : Option (Status × Nat) :=
  match d.moveReach p i with
  | some c => some (c, 0)
  | none => d.moveReadCheck i

/-- Whether a move instruction may start: its destination may be written, and no channel that it needs retrains (R156, R165). -/
def Dev.moveReady (d : Dev) (i : MIns) : Bool :=
  (i.opc == 0x64 || d.dstFree i.d i.step) && !d.extsBusy (i.exts.1 ++ i.exts.2)

/-- Starts a move instruction whose destination is free. -/
def Dev.moveStart (d : Dev) (p : PartId) (i : MIns) : Dev :=
  let d := d.backToWork p (.move, i.port.num)
  match d.moveBad p i with
  | some e => (if e.1 = St.eccUncorrected then d.eccMark e.2 else d).moveFault p i e.1 (i.pc / 8) e.2
  | none =>
    let d := if i.opc = 0x64 then d else d.dstBegin i.d ⟨i.step, p, i.port, i.id, .move⟩
    match i.opc with
    | 0x60 => (d.runMove p i).moveDone p i
    | 0x61 => (d.runMfill p i).moveDone p i
    | 0x62 =>
      let r := d.moveList p i true i.s1.rows (d.moveIndices i)
      (match r.2 with
        | some pos => r.1.moveFault p i St.badDescriptor pos 0
        | none => r.1.moveDone p i)
    | 0x63 =>
      let r := d.moveList p i false i.d.rows (d.moveIndices i)
      (match r.2 with
        | some pos => r.1.moveFault p i St.badDescriptor pos 0
        | none => r.1.moveDone p i)
    | _ =>
      match d.peerOf p i.w1 with
      | none => d.moveFault p i St.memberLost (i.pc / 8) 0
      | some (g, r) =>
        match (if i.opc = 0x64 then d.runMput p i g r else d.runMget p i g r) with
        | none => d.moveFault p i St.queueFull (i.pc / 8) 0
        | some (n, d) => d.movePut p { i with begun := true, outstanding := n }

/-- The first instruction of a port's move engine that has not started. -/
def Part.moveHead (x : Part) (n : Nat) : Option MIns := x.mq.find? (fun i => i.port.num == n && !i.begun)

/-- A move engine starts its instructions in order until one must wait (R120, R156). -/
def Dev.moveGo (d : Dev) (p : PartId) (n : Nat) : Nat → Dev
  | 0 => d
  | k + 1 =>
    if d.fenced p then d
    else match (d.part p).moveHead n with
      | none => d
      | some i => if d.moveReady i then (d.moveStart p i).moveGo p n k else d

def Dev.moveRun (d : Dev) (p : PartId) (n : Nat) : Dev := d.moveGo p n ((d.part p).mq.length + 1)

/-! ## Issue -/

def Part.moveFull (x : Part) (q : Port) : Bool := decide (5 ≤ x.mq.countP (fun i => i.port.num == q.num && !i.begun))

/-- What a move opcode asks at issue: its word rule, its checks of D, S1 and S2, and the extents it reads and writes. -/
structure MForm where
  opc : Nat
  wordOk : Bool
  shape : Dev → Option Desc → Option Desc → Option Desc → Option Status
  ext : Option Desc → Option Desc → Option Desc → List Extent × List Extent

/-- What a move instruction captures at issue (R128). -/
def Dev.moveCapture (d : Dev) (p : PartId) (q : Port) (w : TWord) (opc id : Nat) : MIns :=
  let ps := d.port p q
  { id := id, port := q, pc := d.portPc p q, opc := opc, d := (ps.descAt w.d).getD (descOf 0), s1 := (ps.descAt w.s1).getD (descOf 0),
    s2 := ps.descAt w.s2, w1 := w.w1, step := ps.step, seed := ps.pwAt 14, begun := false, outstanding := 0 }

/-- A move instruction issues into the queue of its port's engine, which goes on with it. -/
def Dev.movePush (d : Dev) (p : PartId) (q : Port) (w : TWord) (opc : Nat) (e : List Extent × List Extent) : Dev :=
  let l := d.launch p q .move e.1 e.2
  ((l.2.adv p q w.len).modPart p (fun t => { t with mq := t.mq ++ [d.moveCapture p q w opc l.1] })).moveRun p q.num

/-- The common issue of a move instruction. -/
def Dev.moveIssue (d : Dev) (p : PartId) (q : Port) (w : TWord) (f : MForm) : Dev :=
  d.issue p q (encT f.opc w) w.snd (fun d =>
    let ps := d.port p q
    let e := d.tracked p (f.ext (ps.descAt w.d) (ps.descAt w.s1) (ps.descAt w.s2))
    if !f.wordOk then .refuse St.badDescriptor
    else match f.shape d (ps.descAt w.d) (ps.descAt w.s1) (ps.descAt w.s2) with
      | some c => .refuse c
      | none =>
        if (d.part p).moveFull q || d.held p q e.1 e.2 then .hold else .go (d.movePush p q w f.opc e))

/-- Extents of one destination and its sources. -/
def moveExts (x y z : Option Desc) : List Extent × List Extent :=
  (y.toList.flatMap Desc.exts ++ z.toList.flatMap Desc.exts, x.toList.flatMap Desc.exts)

/-- MOVE between kinds: into or out of kind 0x2 formats and block axes agree (R41); equal element counts, and equal sizes where
bytes are copied (log entry 29). -/
def moveShape (x y : Desc) : Option Status :=
  firstOf
    [ refuseIf ((x.saved || y.saved) && (x.fmt != y.fmt || x.axis != y.axis)) St.formatInvalid,
      refuseIf (x.count != y.count || (bytesCopy x y && x.blocked && x.dims != y.dims)) St.badDescriptor ]

/-- What MOVE checks and touches at issue. -/
def moveForm (p : PartId) (w : TWord) : MForm :=
  ⟨0x60,
    !w.x && w.mod == 0 && w.s2 == 0 && w.s3 == 0 && w.imm == 0,
    fun d x y _ => match x, y with
      | some x, some y => firstOf [d.checkSrc p Reach.move y, d.checkDst p Reach.move x, moveShape x y]
      | _, _ => some St.badDescriptor,
    moveExts⟩

/-- MOVE (R123, R41, R42). -/
def execMove (p : PartId) (q : Port) (w : TWord) (s : State) : Res := onDev (fun d => d.moveIssue p q w (moveForm p w)) s

/-- What MFILL checks and touches at issue. -/
def mfillForm (p : PartId) (w : TWord) : MForm :=
  ⟨0x61,
    w.x && w.mod == 0 && w.s1 == 0 && w.s2 == 0 && w.s3 == 0 && w.imm == 0 && bits w.w1 63 32 == 0,
    fun d x _ _ => match x with
      | some x => firstOf [d.checkDst p Reach.move x, refuseIf (x.saved && x.fmt != 0) St.formatInvalid]
      | _ => some St.badDescriptor,
    moveExts⟩

/-- MFILL (R475). -/
def execMfill (p : PartId) (q : Port) (w : TWord) (s : State) : Res := onDev (fun d => d.moveIssue p q w (mfillForm p w)) s

/-- Conditions of R473; `n` is the number of rows moved. -/
def rowShape (x y z : Desc) (n : Nat) : Option Status :=
  firstOf
    [ refuseIf (!(z.norec && z.fmt == 0xD) || z.count != n || x.dim 0 != y.dim 0 || (x.blocked && x.axis != 0) || (y.blocked && y.axis != 0))
        St.badDescriptor,
      refuseIf ((x.saved || y.saved) && (x.fmt != y.fmt || x.axis != y.axis)) St.formatInvalid ]

def rowsShape (p : PartId) (gather : Bool) (d : Dev) (x y z : Option Desc) : Option Status :=
  match x, y, z with
  | some x, some y, some z => firstOf
      [ d.checkSrc p Reach.move y, d.checkSrc p Reach.move z, d.checkDst p Reach.move x,
        rowShape x y z (if gather then x.rows else y.rows) ]
  | _, _, _ => some St.badDescriptor

/-- What MGATHER checks and touches at issue. -/
def mgatherForm (p : PartId) (w : TWord) : MForm :=
  ⟨0x62,
    !w.x && w.mod == 0 && w.s3 == 0 && w.imm == 0,
    rowsShape p true,
    moveExts⟩

/-- MGATHER (R473). -/
def execMgather (p : PartId) (q : Port) (w : TWord) (s : State) : Res := onDev (fun d => d.moveIssue p q w (mgatherForm p w)) s

/-- What MSCATTER checks and touches at issue. -/
def mscatterForm (p : PartId) (w : TWord) : MForm :=
  ⟨0x63,
    !w.x && w.mod == 0 && w.s3 == 0 && w.imm == 0,
    rowsShape p false,
    moveExts⟩

/-- MSCATTER (R473). -/
def execMscatter (p : PartId) (q : Port) (w : TWord) (s : State) : Res := onDev (fun d => d.moveIssue p q w (mscatterForm p w)) s

/-- The peer named by a second word, and the pair of descriptors (R474). -/
def Dev.peerCheck (d : Dev) (p : PartId) (w1 : W64) (peer own : Desc) (put : Bool) : Option Status :=
  firstOf
    [ refuseIf (match d.tenantOf p with
        | some t => (d.groupOf t (bits w1 63 52)).isNone
        | none => true) St.noPermission,
      refuseIf ((d.peerOf p w1).isNone || decide (64 ≤ bits w1 35 28) || bits w1 27 0 != 0) St.badDescriptor,
      peer.check, refuseIf (peer.tagchk || peer.chpin) St.badDescriptor, refuseIf (put && peer.wprot) St.noPermission,
      refuseIf (peer.fmt != own.fmt) St.formatInvalid, refuseIf (peer.axis != own.axis || peer.count != own.count) St.badDescriptor ]

/-- Word rule of MPUT and MGET. -/
def peerWord (w : TWord) : Bool := w.x && w.mod == 0 && w.s2 == 0 && w.s3 == 0 && w.imm == 0

/-- What MPUT checks and touches at issue. -/
def mputForm (p : PartId) (w : TWord) : MForm :=
  ⟨0x64,
    peerWord w,
    fun d x y _ => match x, y with
      | some x, some y => firstOf [d.checkSrc p Reach.move y, d.peerCheck p w.w1 x y true]
      | _, _ => some St.badDescriptor,
    fun _ y _ => moveExts none y none⟩

/-- MPUT (R474): D at the peer, S1 here. -/
def execMput (p : PartId) (q : Port) (w : TWord) (s : State) : Res := onDev (fun d => d.moveIssue p q w (mputForm p w)) s

/-- What MGET checks and touches at issue. -/
def mgetForm (p : PartId) (w : TWord) : MForm :=
  ⟨0x65,
    peerWord w,
    fun d x y _ => match x, y with
      | some x, some y => firstOf [d.checkDst p Reach.move x, d.peerCheck p w.w1 y x false]
      | _, _ => some St.badDescriptor,
    fun x _ _ => moveExts x none none⟩

/-- MGET (R474): S1 at the peer, D here. -/
def execMget (p : PartId) (q : Port) (w : TWord) (s : State) : Res := onDev (fun d => d.moveIssue p q w (mgetForm p w)) s

/-! ## What a peer's answer does -/

/-- The move instruction of a port by its number. -/
def Dev.moveIns (d : Dev) (p : PartId) (q : Port) (id : Nat) : Option MIns :=
  (d.part p).mq.find? (fun i => i.port.num == q.num && i.id == id && i.begun)

/-- Part of an MPUT or MGET is done; with nothing outstanding the instruction has written its destination (R335). -/
def Dev.moveGot (d : Dev) (p : PartId) (q : Port) (id n : Nat) : Dev :=
  match d.moveIns p q id with
  | none => d
  | some i =>
    if i.outstanding ≤ n then
      if i.opc = 0x64 then (d.moveDrop p i).complete p i.port i.id else d.moveDone p i
    else d.movePut p { i with outstanding := i.outstanding - n }

/-- A peer's refusal, or the loss of its flow, stops the instruction (R474, R329). -/
def Dev.moveNack (d : Dev) (p : PartId) (q : Port) (id : Nat) (code : Status) : Dev :=
  match d.moveIns p q id with
  | none => d
  | some i => d.moveFault p i code (i.pc / 8) 0

/-- Data of a WIN_READ reply land at the local addresses of an MGET (R474); a partition that has been fenced, or has become another
tenant's, since the instruction issued refuses them, which stops it (R15, R403). -/
def Dev.mgetData (d : Dev) (p : PartId) (q : Port) (id off : Nat) (data : List Byte) : Dev :=
  match d.moveIns p q id with
  | none => d
  | some i =>
    let m := planeMap i.s1 i.d
    let l := (data.mapIdx (fun j b => (off + j, b))).filterMap (fun c => (m.find? (fun e => e.1 == c.1)).map (fun e => (e.2, c.2)))
    match firstOf ((i.d.exts.filter (fun e => l.any (fun c => decide (e.lo ≤ c.1) && decide (c.1 < e.hi)))).map (d.otherPart p true)) with
    | some c => d.moveNack p q id c
    | none => (d.each l (fun d c => d.wr c.1 [c.2])).moveGot p q id data.length

end Sys2Proof.Machine
end

