-- ==== Sys2Proof/Machine/Array.lean ====
section
/-! DEFINITION. The matrix arrays (R56 to R80, R171 to R177): leaves, the cascade, tile loops and holds, draining, the top-k unit,
pairs, and the transposed operand path. -/
namespace Sys2Proof.Machine

/-! ## Operands of a product -/

/-- The classes of R57: exact leaves of 32 products, and rounded leaves of the half and single classes. -/
inductive PairCls where
  | exact
  | half
  | single
deriving DecidableEq, Repr

def isMx8 (f : Nat) : Bool := [3, 4, 5, 6, 7, 8, 0xA].contains f

/-- The class of a pair of formats (R57), `none` where the pair is not accepted. -/
def pairClass (a b : Nat) : Option PairCls :=
  if (isMx8 a && isMx8 b) || (a == 9 && isMx8 b) || (isMx8 a && b == 9) || (a == 9 && b == 9) then some .exact
  else if (a == 0xB || a == 0xC) && (b == 0xB || b == 0xC) then some .exact
  else if (a == 1 || a == 2) && (b == 1 || b == 2) then some .half
  else if a == 0 && b == 0 then some .single
  else none

/-- Products of a leaf (R57). -/
def leafLen : PairCls → Nat
  | .exact => 32
  | .half => 16
  | .single => 8

/-- Contraction length and outer length of an operand (R171); `t` is its transposed-path flag. -/
def opK (x : Desc) (t : Bool) : Nat := if t then x.dim 1 else x.dim 0
def opO (x : Desc) (t : Bool) : Nat := if t then x.dim 0 else x.dim 1

/-- Whether the transposed path re-blocks the operand along K (R171, R176). -/
def reblocks (x : Desc) (t : Bool) : Bool := t && x.blocked && x.axis == 0

/-- Index of element (outer `o`, contraction `k`). -/
def opIx (t : Bool) (o k : Nat) : List Nat := if t then [o, k, 0, 0] else [k, o, 0, 0]

/-- A block along K as the cells receive it: exact element values and the scale code (R58, R171, R175, R176). -/
def Dev.opBlock (d : Dev) (x : Desc) (t : Bool) (o kb n : Nat) : List Val × Nat :=
  let ixs := (List.range n).map (fun j => opIx t o (32 * kb + j))
  if reblocks x t then
    let r := convBlock x.fmt (ixs.map (fun ix => ⟨d.rdVal x ix, .rne, true⟩))
    (r.2.1.map (decElem x.fmt), r.1)
  else
    (ixs.map (fun ix => decElem x.fmt (d.rdCode x ix)), if x.blocked then d.rdScale x (opIx t o (32 * kb)) else 0x7F)

/-- Elements of one re-derived block that R38 clips (R177). -/
def clipsOf (c : Nat) (xs : List Val) : Nat :=
  let sc := scaleCode c xs
  if sc = 0xFF then 0
  else xs.countP (fun v => match v, fmtEnc c with
    | .fin _ m e, .flt f => m != 0 && decide (f.maxCode < magCode f .rne m (e + 127 - (sc : Int)))
    | .fin _ m e, .int w => decide (2 ^ (w - 1) - 1 < roundAt .rne m (e + 127 - (sc : Int)) (-6))
    | _, _ => false)

/-- What re-blocking an operand counts: clipped elements (R177), and the events of its conversions (R51, R176). -/
def Dev.reblockEvents (d : Dev) (x : Desc) (t : Bool) : Nat × Ev :=
  if reblocks x t then
    let nk := ceilDiv (opK x t) 32
    (List.range (opO x t * nk)).foldl (fun acc i =>
      let o := i / nk
      let kb := i % nk
      let vs := (List.range (Nat.min 32 (opK x t - 32 * kb))).map (fun j => d.rdVal x (opIx t o (32 * kb + j)))
      (acc.1 + clipsOf x.fmt vs, acc.2.add (convBlock x.fmt (vs.map (fun v => ⟨v, .rne, true⟩))).2.2)) (0, {})
  else (0, {})

/-- BWD_STATUS and the stored operands' layer counters take the events of both operands' re-blocking (R51, R176, R183). -/
def Dev.noteReblock (d : Dev) (p : PartId) (i : MatIns) : Dev :=
  let a := d.reblockEvents i.a i.ta
  let b := d.reblockEvents i.b i.tb
  let d := d.bump (R.bwdStatus p) 31 8 (a.1 + b.1)
  let d := if a.2.nanScale + b.2.nanScale ≠ 0 then d.setFlag (R.bwdStatus p) 0 true else d
  (d.count p i.a.layer.toNat a.2).count p i.b.layer.toNat b.2

/-! ## Leaves (R59 to R62) -/

/-- The exact sum of products, +0 for a zero sum. -/
def sumProducts (ps : List Val) : Val :=
  match ps.foldl Val.add (.fin false 0 0) with
  | .fin n m e => .fin (n && m != 0) m e
  | v => v

/-- Largest binary exponent of nonzero finite products. -/
def prodExp (ps : List Val) : Option Int := amaxExp ps

/-- A product aligned and truncated below 2 to the `l`, toward zero (R60). -/
def truncAt (l : Int) (v : Val) : Val :=
  match v with
  | .fin n m e => if l ≤ e then v else .fin n (m / 2 ^ (l - e).toNat) l
  | v => v

/-- A leaf of the half or single class (R60, R61). -/
def roundedLeaf (depth : Int) (ps : List Val) : Val :=
  match prodExp ps with
  | none => sumProducts ps
  | some e => sumProducts (ps.map (truncAt (e - depth)))

/-- The leaf of a cell from the element pairs and scales of its K range (R59 to R62). -/
def leafOf (c : PairCls) (a b : List Val) (sa sb : Nat) : Val :=
  let ps := a.zipWith Val.mul b
  match c with
  | .exact => if sa = 0xFF ∨ sb = 0xFF then .nan else (sumProducts ps).scale ((sa : Int) + (sb : Int) - 254)
  | .half => roundedLeaf 28 ps
  | .single => roundedLeaf 27 ps

/-- Whether rounding an exact value to FP32 yields a nonzero magnitude below 2^−126 (R67, log entry 20). -/
def isSubn (v : Val) : Bool :=
  match v with
  | .fin _ m e => m != 0 && decide ((toF32 v).toNat % 2 ^ 31 < 0x00800000) && decide (flog2 m e < -100)
  | _ => false

/-- Elements of an operand for leaf `l` of outer position `o`: values and scale. -/
def Dev.leafOperand (d : Dev) (c : PairCls) (x : Desc) (t : Bool) (o l : Nat) : List Val × Nat :=
  let len := leafLen c
  let n := Nat.min len (opK x t - len * l)
  match c with
  | .exact => d.opBlock x t o l n
  | _ => ((List.range n).map (fun j => decElem x.fmt (d.rdCode x (opIx t o (len * l + j)))), 0x7F)

/-- Leaf `l` of a 32 by 32 tile at row `r0` and column `c0` (R56, R62): exact leaf values, row by row. -/
def Dev.tileLeaf (d : Dev) (i : MatIns) (c : PairCls) (r0 c0 l : Nat) : List Val :=
  let rows := (List.range 32).map (fun r => if r0 + r < opO i.a i.ta then some (d.leafOperand c i.a i.ta (r0 + r) l) else none)
  let cols := (List.range 32).map (fun k => if c0 + k < opO i.b i.tb then some (d.leafOperand c i.b i.tb (c0 + k) l) else none)
  rows.flatMap (fun a => cols.map (fun b => match a, b with
    | some a, some b => leafOf c a.1 b.1 a.2 b.2
    | _, _ => .fin false 0 0))

/-! ## The cascade (R63 to R65) -/

/-- Adds two tiles cell by cell; also whether an addition was subnormal (R67). -/
def tileAdd (a b : List F32) : List F32 := a.zipWith f32Add b

def tileAddSubn (a b : List F32) : Bool := (a.zipWith (fun x y => isSubn ((ofF32 x).add (ofF32 y))) b).any id

/-- A carry enters at level `i` (R63): the new levels, and whether an addition was subnormal. -/
def pushCarry : Nat → List (Option (List F32)) → List F32 → List (Option (List F32)) × Bool
  | _, [], carry => ([some carry], false)
  | _, none :: t, carry => (some carry :: t, false)
  | i, some v :: t, carry =>
    let s := tileAddSubn v carry
    if i < 19 then
      let r := pushCarry (i + 1) t (tileAdd v carry)
      (none :: r.1, s || r.2)
    else (some (tileAdd v carry) :: t, s)

/-- A leaf enters its context (R63, R64). -/
def Ctx.enter (c : Ctx) (leaf : List Val) : Ctx :=
  let r := pushCarry 0 c.lev (leaf.map toF32)
  { lev := r.1, count := Nat.min (c.count + 1) 0x1FFFFF, longsum := c.longsum || decide (2 ^ 20 ≤ c.count),
    subn := c.subn || leaf.any isSubn || r.2 }

/-- Leaves `l`, `l + 1`, ... of a tile enter a context. -/
def Dev.enterLeaves (d : Dev) (i : MatIns) (c : PairCls) (r0 c0 : Nat) (x : Ctx) (l : Nat) : Nat → Ctx
  | 0 => x
  | n + 1 => d.enterLeaves i c r0 c0 (x.enter (d.tileLeaf i c r0 c0 l)) (l + 1) n

/-- Collapse of a stack, lowest level first (R70). -/
def collapse : Option (List F32) → Bool → List (Option (List F32)) → Option (List F32) × Bool
  | acc, s, [] => (acc, s)
  | acc, s, none :: t => collapse acc s t
  | none, s, some v :: t => collapse (some v) s t
  | some a, s, some v :: t => collapse (some (tileAdd v a)) (s || tileAddSubn v a) t

def Ctx.isEmpty (c : Ctx) : Bool := c.count == 0 && c.lev.all (fun l => l.isNone)

def ArraySt.ctx (x : ArraySt) (c : Fin 2) : Ctx := if c = 0 then x.ctx0 else x.ctx1
def ArraySt.setCtx (x : ArraySt) (c : Fin 2) (v : Ctx) : ArraySt := if c = 0 then { x with ctx0 := v } else { x with ctx1 := v }

/-- Whether a drain of a context is under way. -/
def ArraySt.draining (x : ArraySt) (c : Fin 2) : Bool := x.toks.any (fun t => t.ctx == c)

def otherCtx (c : Fin 2) : Fin 2 := if c = 0 then 1 else 0

/-- The context of the next tile of a tile loop (R68). -/
def ArraySt.nextCtx (x : ArraySt) : Fin 2 :=
  match x.lastCtx with
  | some c => otherCtx c
  | none => 0

/-! ## Running an array -/

/-- Columns and rows of the tile walk (R68). -/
def MatIns.tilesN (i : MatIns) : Nat := ceilDiv (opO i.b i.tb) 32
def MatIns.tilesM (i : MatIns) : Nat := ceilDiv (opO i.a i.ta) 32
def MatIns.tiles (i : MatIns) : Nat := i.tilesM * i.tilesN

def Dev.arr (d : Dev) (p : PartId) (a : Fin 2) : ArraySt := (d.part p).arr a
def Dev.setArr (d : Dev) (p : PartId) (a : Fin 2) (x : ArraySt) : Dev := d.modPart p (fun t => t.setArr a x)

/-- Whether the array waits for an instruction's partner (R172, R174): the partner has not issued and the port still issues, or
the pair has not begun. -/
def Dev.pairHeld (d : Dev) (p : PartId) (i : MatIns) : Bool :=
  i.paired == 2 || (i.paired == 1 && (match i.port.seq? with
    | some x => d.seqState p x == 1 || d.seqState p x == 3
    | none => true))

/-- The next instruction an array takes: round-robin among F, B and U, the scalar port last (R120); `o` is the port whose pair the other array
has at its head. -/
def ArraySt.pick (x : ArraySt) (o : Option Port) : Option MatIns :=
  let free := fun (i : MatIns) => i.paired == 0 || (match o with
    | some q => q == i.port
    | none => true)
  let first := fun n => (x.ins.find? (fun i => i.port.num == n)).filter free
  let order := [(x.last + 1) % 3, (x.last + 2) % 3, x.last % 3, 3]
  (order.filterMap first).head?

/-- The port whose pair an array has at its head (R172). -/
def ArraySt.pairPort (x : ArraySt) : Option Port :=
  match x.cur with
  | some i => if i.paired = 0 then none else some i.port
  | none => none

/-- An array takes its next instruction when it runs none; while the other array has port `o`'s pair at its head, no pair of another port, which
could not start before that one (R174). -/
def ArraySt.take (x : ArraySt) (o : Option Port) : ArraySt :=
  match x.cur with
  | some _ => x
  | none =>
    match x.pick o with
    | none => x
    | some i => { x with cur := some i, ins := x.ins.erase i, last := if i.port.num < 3 then i.port.num else x.last }

/-- UNIT of a fault record of array `a` (R410). -/
def unitArr (a : Fin 2) : Nat := 0xA + a.val

/-- The array's current instruction ends by a fault at execution (R68, R136). -/
def Dev.arrayFault (d : Dev) (p : PartId) (a : Fin 2) (i : MatIns) (code : Status) (addr : Nat) : Dev :=
  (d.setArr p a { d.arr p a with cur := none }).execFault p i.port i.id i.pc (unitArr a) code (i.pc / 8) addr

/-- LONGSUM bits of ARRAYa_STATUS follow the contexts (R64, R80). -/
def Dev.noteLongsum (d : Dev) (p : PartId) (a : Fin 2) (c : Fin 2) : Dev :=
  if ((d.arr p a).ctx c).longsum then d.setFlag (R.arrayStatus p a) c.val true else d

/-- Checks before an instruction reads its operands: step tags, then uncorrectable errors (R128, R163). -/
def Dev.matReadCheck (d : Dev) (i : MatIns) : Option (Status × Nat) :=
  if !(d.tagOk i.a i.step) then some (St.versionMismatch, i.a.base)
  else if !(d.tagOk i.b i.step) then some (St.versionMismatch, i.b.base)
  else if d.badData i.a then some (St.eccUncorrected, d.badAt i.a)
  else if d.badData i.b then some (St.eccUncorrected, d.badAt i.b)
  else none

/-- A reader's fault also marks an uncorrectable error where the memory lies. -/
def Dev.markIfEcc (d : Dev) (e : Status × Nat) : Dev := if e.1 = St.eccUncorrected then d.eccMark e.2 else d

/-- A hold at the head (R68): waits for its context's drain, then adds its leaves, drains or discards. -/
def Dev.runHold (d : Dev) (p : PartId) (a : Fin 2) (i : MatIns) : Option Dev :=
  let x := d.arr p a
  if x.draining i.ctx then none
  else if i.discard then
    some ((d.setArr p a { (x.setCtx i.ctx Ctx.empty) with cur := none }).complete p i.port i.id)
  else match d.matReadCheck i with
    | some e => some ((d.markIfEcc e).arrayFault p a i e.1 e.2)
    | none =>
      let c := (pairClass i.a.fmt i.b.fmt).getD .exact
      let d := d.noteReblock p i
      let v := d.enterLeaves i c 0 0 (x.ctx i.ctx) 0 (ceilDiv (opK i.a i.ta) (leafLen c))
      let tok : DrainTok := ⟨i.id, i.port, i.ctx, i.tag, opO i.a i.ta, opO i.b i.tb, none, 0, false, false, true⟩
      let x := { (x.setCtx i.ctx v) with cur := none, lastCtx := some i.ctx, toks := if i.drain then x.toks ++ [tok] else x.toks }
      let d := (d.setArr p a x).noteLongsum p a i.ctx
      some (if i.drain then d else d.complete p i.port i.id)

/-- The token of tile `t` of a tile loop (R68, R72, R75). -/
def MatIns.token (i : MatIns) (t : Nat) (c : Fin 2) : DrainTok :=
  let r := t / i.tilesN
  let k := t % i.tilesN
  { id := i.id, port := i.port, ctx := c, tag := i.tag + BitVec.ofNat 16 (if i.topk.isSome then r else t),
    rows := Nat.min 32 (opO i.a i.ta - 32 * r), cols := Nat.min 32 (opO i.b i.tb - 32 * k), topk := i.topk, tileCol := 32 * k,
    firstOfBlock := k == 0, lastOfBlock := k + 1 == i.tilesN, lastOfInstr := t + 1 == i.tiles }

/-- One tile of the tile loop at the head (R68), or its start; `none` where it must wait. -/
def Dev.runTile (d : Dev) (p : PartId) (a : Fin 2) (i : MatIns) : Option Dev :=
  let x := d.arr p a
  let c := x.nextCtx
  let leftover := fun k : Fin 2 => !(x.ctx k).isEmpty && !x.draining k
  if i.tile = 0 ∧ (leftover 0 ∨ leftover 1) then some (d.arrayFault p a i St.badDescriptor 0)
  else match (if i.tile = 0 then d.matReadCheck i else none) with
    | some e => some ((d.markIfEcc e).arrayFault p a i e.1 e.2)
    | none =>
      if x.draining c || !(x.ctx c).isEmpty then none
      else
        let cls := (pairClass i.a.fmt i.b.fmt).getD .exact
        let d := if i.tile = 0 then d.noteReblock p i else d
        let v := d.enterLeaves i cls (32 * (i.tile / i.tilesN)) (32 * (i.tile % i.tilesN)) Ctx.empty 0
          (ceilDiv (opK i.a i.ta) (leafLen cls))
        let i' := { i with tile := i.tile + 1 }
        let x := { (x.setCtx c v) with toks := x.toks ++ [i.token i.tile c], lastCtx := some c,
                                       cur := if i'.tile < i.tiles then some i' else none }
        some ((d.setArr p a x).noteLongsum p a c)

/-- An array runs until it must wait (R65, R68, R165): at most two tiles and the instructions that wait for it. -/
def Dev.arrayGo (d : Dev) (p : PartId) (a : Fin 2) : Nat → Dev
  | 0 => d
  | n + 1 =>
    let x := (d.arr p a).take (d.arr p (otherCtx a)).pairPort
    let d := d.setArr p a x
    match x.cur with
    | none => d
    | some i =>
      if d.fenced p || d.pairHeld p i || (!i.discard && d.extsBusy (i.a.exts ++ i.b.exts)) then d
      else match (if i.hold then d.runHold p a i else d.runTile p a i) with
        | none => d
        | some d => (d.backToWork p (.array a, 0)).arrayGo p a n

def Dev.arrayRun (d : Dev) (p : PartId) (a : Fin 2) : Dev := d.arrayGo p a ((d.arr p a).ins.length + 4)

/-! ## Issue (R123, R57, R58, R68, R75, R172) -/

/-- Operand checks of a matrix instruction (R57, R58, R68): formats, ranks and lengths, block axes; then its mode's own limits. The order is a
DESIGN CHOICE (log entry 123). -/
def matShape (a b : Desc) (ta tb : Bool) : Option Status :=
  firstOf
    [ refuseIf (pairClass a.fmt b.fmt).isNone St.formatInvalid,
      refuseIf (a.rank != 1 || b.rank != 1 || opK a ta != opK b tb) St.badDescriptor,
      refuseIf ((!ta && a.blocked && a.axis != 0) || (!tb && b.blocked && b.axis != 0)) St.formatInvalid ]

/-- The word that follows in program order: from program memory, or the next in the core's port queue (R172). -/
def Dev.nextWord (d : Dev) (p : PartId) (q : Port) (len : Nat) : Option (W64 × W64) :=
  match q with
  | .s c =>
    match ((d.part p).cores[c]).queue.tail with
    | (w, w1) :: _ => some (w, w1.getD 0)
    | [] => none
  | _ =>
    let a := d.portPc p q + 8 * len
    if pcOk p a then some (BitVec.ofNat 64 (d.rdN a 8), BitVec.ofNat 64 (d.rdN (a + 8) 8)) else none

/-- An MMUL word to array `a` that is a tile loop without top-k. -/
def plainMmul (w : TWord) (a : Fin 2) : Bool := bit w.mod 6 == (a == 1) && !bit w.mod 2

/-- Whether an MMUL to array 0 finds its partner in the next word: the first four conditions of R172. -/
def Dev.seesPartner (d : Dev) (p : PartId) (q : Port) (w : TWord) : Bool :=
  plainMmul w 0 && !bit w.d 7 && (match d.nextWord p q w.len with
    | some (n, n1) => bits n 63 56 == 0x20 && plainMmul (decT n n1) 1 && (decT n n1).s1 == w.s1 && bit (decT n n1).d 7
    | none => false)

/-- Whether the shared operand's planes fit the A sides (R172). -/
def pairFits (a : Desc) : Bool := decide ((a.exts.map (fun e => e.hi - e.lo)).foldl (· + ·) 0 ≤ 512 * 1024)

/-- An array's queue for a port is full (R119). -/
def ArraySt.full (x : ArraySt) (q : Port) : Bool := decide (4 ≤ x.ins.countP (fun i => i.port.num == q.num))

/-- Marks the instruction that waits for its partner as paired. -/
def ArraySt.partner (x : ArraySt) (q : Port) : ArraySt :=
  let f := fun (i : MatIns) => if i.paired = 1 ∧ i.port = q then { i with paired := 2 } else i
  { x with ins := x.ins.map f, cur := x.cur.map f }

/-- What a port remembers of an MMUL to array 0 whose partner may be its next word (R172). -/
def Dev.pairCand (d : Dev) (p : PartId) (q : Port) : Option (BitVec 8 × Bool) :=
  match q with
  | .s c => ((d.part p).cores[c]).pairCand
  | _ => (d.port p q).pairCand

def Dev.setPairCand (d : Dev) (p : PartId) (q : Port) (v : BitVec 8 × Bool) : Dev :=
  match q with
  | .s c => d.modPart p (fun x => { x with cores := x.cores.set c { x.cores[c] with pairCand := some v } })
  | _ => d.modPort p q (fun t => { t with pairCand := some v })

/-- Whether a sequencer's stream has stopped with the word it has just issued (R138, R172). -/
def Dev.portStopped (d : Dev) (p : PartId) (q : Port) : Bool :=
  match q.seq? with
  | some x => d.seqState p x == 4
  | none => false

/-- MMUL enters its array's queue, forming or missing a pair (R172, R173). -/
def Dev.issueMmul (d : Dev) (p : PartId) (q : Port) (w : TWord) (a : Fin 2) (ad bd : Desc) (tk : Option TopkArg) : Dev :=
  let ps := d.port p q
  let isPartner := a == 1 && plainMmul w 1 && bit w.d 7 && (match d.pairCand p q with
    | some (e, _) => e == w.s1
    | none => false)
  let formed := isPartner && ((d.arr p 0).cur.toList ++ (d.arr p 0).ins).any (fun i => i.paired == 1 && i.port == q)
  let sees := d.seesPartner p q w
  let fits := pairFits ad
  let d := if formed then (d.setArr p 0 ((d.arr p 0).partner q)).bump (R.bwdStatus p) 63 48 1
    else if isPartner && !fits then d.bump (R.bwdStatus p) 47 32 1 else d
  let l := d.launch p q .matrix (ad.exts ++ bd.exts) []
  let i : MatIns :=
    { id := l.1, port := q, pc := d.portPc p q, hold := false, ctx := 0, drain := true, discard := false, a := ad, b := bd,
      ta := bit w.d 7, tb := bit w.d 6, tag := w.imm, topk := tk, step := ps.step, tile := 0, entry := w.s1,
      paired := if formed then 2 else if sees && fits then 1 else 0 }
  let d := l.2.adv p q w.len
  let d := d.setArr p a { d.arr p a with ins := (d.arr p a).ins ++ [i] }
  let d := if sees then d.setPairCand p q (w.s1, fits) else d
  (if d.portStopped p q then d.unpairPort p q else d).arrayRun p a

/-- TKDIR and the second word have a meaning with TK alone, which requires that word (R122, R123). -/
def mmulWordOk (w : TWord) : Bool :=
  if bit w.mod 2 then w.x && bits w.w1 31 7 == 0 else !bit w.mod 1 && (!w.x || w.w1 == 0)

/-- MMUL (R68, R75). -/
def execMmul (p : PartId) (q : Port) (w : TWord) (s : State) : Res :=
  onDev (fun d => d.ctlPort p q (encT 0x20 w) w.snd
    (bits w.mod 5 3 == 0 && !bit w.mod 0 && bits w.d 5 0 == 0 && w.s3 == 0 && mmulWordOk w) (fun d =>
    let ps := d.port p q
    let a : Fin 2 := if bit w.mod 6 then 1 else 0
    match ps.descAt w.s1, ps.descAt w.s2 with
    | some ad, some bd =>
      let n := opO bd (bit w.d 6)
      let k := bits w.w1 6 0
      let cb := bits w.w1 63 32
      let tk : Option TopkArg := if bit w.mod 2 then some ⟨k, bit w.mod 1, cb⟩ else none
      match firstOf [d.checkSrc p Reach.own ad, d.checkSrc p Reach.own bd, matShape ad bd (bit w.d 7) (bit w.d 6),
          refuseIf (tk.isSome && (k == 0 || decide (64 < k) || decide (0xFFFFFFFF < cb + n - 1))) St.badDescriptor] with
      | some c => .refuse c
      | none =>
        if (d.arr p a).full q || d.held p q (ad.exts ++ bd.exts) [] then .hold
        else .go (d.issueMmul p q w a ad bd tk)
    | _, _ => .refuse St.badDescriptor)) s

/-- An absent operand (a hold with DISCARD names none). -/
def noDesc : Desc := descOf 0

/-- MMULH enters its array's queue. -/
def Dev.issueMmulh (d : Dev) (p : PartId) (q : Port) (w : TWord) (a : Fin 2) (ad bd : Desc) (reads : List Extent) : Dev :=
  let l := d.launch p q .matrix reads []
  let i : MatIns :=
    { id := l.1, port := q, pc := d.portPc p q, hold := true, ctx := if bit w.mod 5 then 1 else 0, drain := bit w.mod 4,
      discard := bit w.mod 3, a := ad, b := bd, ta := bit w.d 7, tb := bit w.d 6, tag := w.imm, topk := none,
      step := (d.port p q).step, tile := 0, entry := w.s1, paired := 0 }
  let d := l.2.adv p q 1
  (d.setArr p a { d.arr p a with ins := (d.arr p a).ins ++ [i] }).arrayRun p a

/-- MMULH (R68): hold, with DRAIN or DISCARD. -/
def execMmulh (p : PartId) (q : Port) (w : TWord) (s : State) : Res :=
  onDev (fun d => d.ctlPort p q (encT 0x21 w) w.snd
    (!w.x && bits w.mod 2 0 == 0 && bits w.d 5 0 == 0 && w.s3 == 0) (fun d =>
    let ps := d.port p q
    let a : Fin 2 := if bit w.mod 6 then 1 else 0
    if bit w.mod 3 then
      if bit w.mod 4 || w.s1 != 0 || w.s2 != 0 || bits w.d 7 6 != 0 then .refuse St.badDescriptor
      else if (d.arr p a).full q || d.held p q [] [] then .hold
      else .go (d.issueMmulh p q w a noDesc noDesc [])
    else match ps.descAt w.s1, ps.descAt w.s2 with
      | some ad, some bd =>
        match firstOf [d.checkSrc p Reach.own ad, d.checkSrc p Reach.own bd, matShape ad bd (bit w.d 7) (bit w.d 6),
            refuseIf (decide (32 < opO ad (bit w.d 7)) || decide (32 < opO bd (bit w.d 6))) St.badDescriptor] with
        | some c => .refuse c
        | none =>
          if (d.arr p a).full q || d.held p q (ad.exts ++ bd.exts) [] then .hold
          else .go (d.issueMmulh p q w a ad bd (ad.exts ++ bd.exts))
      | _, _ => .refuse St.badDescriptor)) s

/-- How an array stands to the product of a pair at its head (R65, R68): it can begin, it must wait, or it must refuse it because a hold left
leaves behind. -/
inductive PairSt where
  | ready | wait | bad
deriving DecidableEq, Repr

def Dev.pairState (d : Dev) (p : PartId) (a : Fin 2) : PairSt :=
  let x := d.arr p a
  let leftover := fun k : Fin 2 => !(x.ctx k).isEmpty && !x.draining k
  match x.cur with
  | some i =>
    if i.paired ≠ 2 then .wait
    else if leftover 0 ∨ leftover 1 then .bad
    else if x.draining x.nextCtx || d.extsBusy (i.a.exts ++ i.b.exts) then .wait else .ready
  | none => .wait

/-- Both arrays go on with the products at their heads, no longer held for each other. -/
def Dev.pairBegin (d : Dev) (p : PartId) : Dev :=
  let free := fun (x : ArraySt) => { x with cur := x.cur.map (fun i => { i with paired := 0 }) }
  (((d.setArr p 0 (free (d.arr p 0))).setArr p 1 (free (d.arr p 1))).arrayRun p 0).arrayRun p 1

/-- Both arrays can start and begin their products together; where one must refuse its product, no pair begins and the other runs its own
(R174). -/
def Dev.pairTry (d : Dev) (p : PartId) : Dev :=
  let d := (d.arrayRun p 0).arrayRun p 1
  match (d.arr p 0).cur, (d.arr p 1).cur with
  | some i, some j =>
    if i.paired = 2 ∧ j.paired = 2 ∧ i.port = j.port then
      match d.pairState p 0, d.pairState p 1 with
      | .wait, _ => d
      | _, .wait => d
      | _, _ => d.pairBegin p
    else d
  | _, _ => d

/-- PAIR_START (R174). -/
def execPairStart (p : PartId) (s : State) : Res := onDev (fun d => d.pairTry p) s

/-! ## Draining (R69 to R77) -/

/-- Rows of 32 values of a tile. -/
def tileRows (t : List F32) (n : Nat) : List (List F32) := (List.range n).map (fun r => (t.drop (32 * r)).take 32)

/-- What a context yields: its collapsed tile, and whether a rounding was subnormal (R70). -/
def Ctx.drain (c : Ctx) : List F32 × Bool :=
  let r := collapse none c.subn c.lev
  (r.1.getD (List.replicate 1024 f32Zero), r.2)

/-- A drain status word (R72). -/
def statusWord (tag : BitVec 16) (leaves cols rows : Nat) (empty topk nan inf sub long : Bool) (a c : Fin 2) : W64 :=
  BitVec.ofNat 64 (tag.toNat * 2 ^ 48 + leaves * 2 ^ 27 + cols * 2 ^ 21 + rows * 2 ^ 15 + bitAt empty 7 + bitAt topk 6 + bitAt nan 5
    + bitAt inf 4 + bitAt sub 3 + bitAt long 2 + a.val * 2 + c.val)

/-- Whether candidate `a` ranks before `b` (R76). -/
def rankBefore (smallest : Bool) (a b : F32 × Nat) : Bool :=
  match f32Cmp a.1 b.1 with
  | some c => if c = 0 then decide (a.2 < b.2) else if smallest then decide (c < 0) else decide (0 < c)
  | none => false

/-- Inserts a candidate into a ranked list. -/
def rankIns (smallest : Bool) (x : F32 × Nat) : List (F32 × Nat) → List (F32 × Nat)
  | [] => [x]
  | y :: t => if rankBefore smallest x y then x :: y :: t else y :: rankIns smallest x t

/-- Merges candidates into a list of the best `k` (R75, R76): a NaN is never a candidate. -/
def rankMerge (k : Nat) (smallest : Bool) (l : List (F32 × Nat)) (xs : List (F32 × Nat)) : List (F32 × Nat) :=
  (xs.foldl (fun acc x => if f32IsNan x.1 then acc else rankIns smallest x acc) l).take k

/-- A list padded to `k` pairs (R76). -/
def rankPad (k : Nat) (smallest : Bool) (l : List (F32 × Nat)) : List (F32 × Nat) :=
  l ++ List.replicate (k - l.length) (if smallest then 0x7F800000 else 0xFF800000, 0xFFFFFFFF)

/-- A list as 2k words: value and column position of each pair (R77). -/
def rankWords (l : List (F32 × Nat)) : List F32 := l.flatMap (fun x => [x.1, BitVec.ofNat 32 x.2])

def TopkSt.fresh : TopkSt :=
  { lists := List.replicate 32 [], allEmpty := true, nan := false, inf := false, subn := false, longsum := false }

/-- A drained tile merged into the lists of its row block (R75, R76). -/
def TopkSt.merge (t : TopkSt) (k : TopkArg) (tok : DrainTok) (c : Ctx) (tile : List F32) (sub : Bool) : TopkSt :=
  let rows := tileRows tile tok.rows
  let cand := rows.map (fun r => (r.take tok.cols).mapIdx (fun j v => (v, k.colBase + tok.tileCol + j)))
  { lists := (List.range 32).map (fun r => rankMerge k.k k.smallest (t.lists.getD r []) (cand.getD r [])),
    allEmpty := t.allEmpty && c.isEmpty, nan := t.nan || rows.any (fun r => r.any f32IsNan),
    inf := t.inf || rows.any (fun r => r.any f32IsInf), subn := t.subn || sub, longsum := t.longsum || c.longsum }

/-- Removes the front token and its context's leaves; the instruction completes behind its last token (R65, R131). -/
def Dev.popToken (d : Dev) (p : PartId) (a : Fin 2) (tok : DrainTok) (tk : Option TopkSt) : Dev :=
  let x := d.arr p a
  let d := d.setArr p a { (x.setCtx tok.ctx Ctx.empty) with toks := x.toks.tail, topk := tk }
  let d := if tok.lastOfInstr then d.complete p tok.port tok.id else d
  d.arrayRun p a

/-- Rows of `n` slots each that the input's 32 slots hold (R92). -/
def fitRows (n : Nat) : Nat := 32 / n

/-- Rows and a status word reach the accumulator input (R74, R92): `n` is the slots that a row takes; rows beyond the input's credits stay with
the array until the input frees slots (R23). -/
def Dev.deliver (d : Dev) (p : PartId) (a : Fin 2) (w : W64) (n : Nat) (rows : List (List F32)) : Dev :=
  let rest := rows.drop (fitRows n)
  d.modPart p (fun x => (x.setInp a { x.inp a with status := some w, rows := rows.take (fitRows n), short := !rest.isEmpty }).setArr a
    { x.arr a with emit := rest })

/-- Whether the accumulator input has its slots free (R71, R92). -/
def AccIn.free (x : AccIn) : Bool := x.status.isNone && x.rows.isEmpty

/-- A drained tile with +0 in the columns at or beyond `cols` (R71). -/
def maskCols (cols : Nat) (t : List F32) : List F32 := t.mapIdx (fun j v => if j % 32 < cols then v else f32Zero)

/-- A drain (R69 to R77): the oldest drain token acts; the tile streams to the accumulator input, or is merged by the top-k unit,
which emits behind the last tile of a row block. It waits while the input holds rows; an emission of more rows than the input has slots
goes on as a VACC takes them (VACC_TILE). -/
def Dev.drainOne (d : Dev) (p : PartId) (a : Fin 2) : Dev :=
  let d := d.arrayRun p a
  let x := d.arr p a
  match x.toks with
  | [] => d
  | tok :: _ =>
    let c := x.ctx tok.ctx
    let r := (maskCols tok.cols c.drain.1, c.drain.2)
    if d.fenced p || !x.emit.isEmpty then d
    else match tok.topk with
      | none =>
        if !((d.part p).inp a).free then d
        else
          let rows := tileRows r.1 tok.rows
          let w := statusWord tok.tag c.count tok.cols tok.rows c.isEmpty false (rows.any (fun r => r.any f32IsNan))
            (rows.any (fun r => r.any f32IsInf)) r.2 c.longsum a tok.ctx
          (d.deliver p a w 1 rows).popToken p a tok x.topk
      | some k =>
        let t := (if tok.firstOfBlock then TopkSt.fresh else x.topk.getD TopkSt.fresh).merge k tok c r.1 r.2
        if !tok.lastOfBlock then d.popToken p a tok (some t)
        else if !((d.part p).inp a).free then d
        else
          let rows := (t.lists.take tok.rows).map (fun l => rankWords (rankPad k.k k.smallest l))
          let w := statusWord tok.tag c.count (k.k - 1) tok.rows t.allEmpty true t.nan t.inf t.subn t.longsum a tok.ctx
          let d := d.deliver p a w (ceilDiv k.k 16) rows
          if (d.arr p a).emit.isEmpty then d.popToken p a tok none else d.setArr p a { d.arr p a with topk := some t }

/-- DRAIN (R69 to R77). -/
def execDrain (p : PartId) (a : Fin 2) (s : State) : Res := onDev (fun d => d.drainOne p a) s

end Sys2Proof.Machine
end

