-- ==== Sys2Proof/Machine/Sfu.lean ====
section
/-! DEFINITION. The special-function unit (R98 to R102) and reductions in the order of R91. -/
namespace Sys2Proof.Machine

/-! ## Loaded tables (R98, R101) -/

def imgF32 (img : List Byte) (o : Nat) : F32 := BitVec.ofNat 32 (leNat (sliceB img o 4))
def imgB (img : List Byte) (o : Nat) : Nat := (img.getD o 0).toNat

/-- Segment `s` of the value or derivative table evaluated at `t` (R98). -/
def evalSeg (img : List Byte) (der : Bool) (s : Nat) (t : F32) : F32 :=
  let o := (if der then 0xC40 else 0x40) + 12 * s
  f32Fma (f32Fma (imgF32 img (o + 8)) t (imgF32 img (o + 4))) t (imgF32 img o)

/-- floor of a nonnegative finite FP32 value below 256. -/
def f32Floor (z : F32) : Nat :=
  match ofF32 z with
  | .fin false m e => if 0 ≤ e then m * 2 ^ e.toNat else m / 2 ^ (-e).toNat
  | _ => 0

/-- Sign flip of the table that is odd (R98). -/
def oddFlip (img : List Byte) (der : Bool) (x r : F32) : F32 :=
  let odd := if der then imgB img 8 == 1 else imgB img 8 == 2
  if odd && f32Cmp x 0 == some (-1) then f32Neg r else r

/-- A loaded table at `x` (R98, R101); a NaN z gives NaN (DESIGN CHOICE, log entry 142). -/
def evalLoaded (img : List Byte) (der : Bool) (x : F32) : F32 :=
  if f32IsNan x then f32Nan
  else
    let u := if imgB img 8 = 0 then x else f32Abs x
    let z := f32Mul (f32Sub u (imgF32 img 0)) (imgF32 img 4)
    let r :=
      if f32Cmp u (imgF32 img 0) = some (-1) then
        match imgB img 9 with
        | 0 => evalSeg img der 0 f32Zero
        | 1 => if der then imgF32 img 0x14 else imgF32 img 0xC
        | _ => f32Nan
      else if f32IsNan z then f32Nan
      else if f32Cmp z 0x43800000 ≠ some (-1) then
        match imgB img 0xA with
        | 0 => evalSeg img der 255 f32One
        | 1 => if der then imgF32 img 0x18 else imgF32 img 0x10
        | 2 => if der then imgF32 img 0x18 else u
        | _ => f32Nan
      else
        let s := f32Floor z
        evalSeg img der s (f32Sub z (f32OfInt s))
    oddFlip img der x r

/-- Whether an image may be loaded (R101, R102). -/
def imageOk (img : List Byte) : Bool :=
  let invw := ofF32 (imgF32 img 4)
  imgB img 0xB == 0 && (sliceB img 0x20 32).all (· == 0) && !invw.negative && !invw.isZero && !invw.isNan && !invw.isInf
    && decide (imgB img 8 ≤ 2) && decide (imgB img 9 ≤ 2) && decide (imgB img 0xA ≤ 3)
    && (imgB img 8 == 0 || (ofF32 (imgF32 img 0)).isZero)

/-! ## True values of the built-in functions, as multiples of 2 to the −128 -/

/-- A value moved by at most `k` units in the last place of its encoding (log entry 2). -/
def nudge (k : Nat) (n : Int) (x : F32) : F32 :=
  match ofF32 x with
  | .fin _ m _ =>
    let c : Int := (x.toNat % 2 ^ 31 : Nat)
    let j : Int := max (-(k : Int)) (min (k : Int) n)
    let c' := max 0 (min 0x7F7FFFFF (c + j))
    if m = 0 then x else BitVec.ofNat 32 (c'.toNat + x.toNat / 2 ^ 31 * 2 ^ 31)
  | _ => x

def fxOne : Int := 2 ^ 128
def fxMul (a b : Int) : Int := a * b / 2 ^ 128
def fxDiv (a b : Int) : Int := a * 2 ^ 128 / b

/-- A finite value in fixed point. -/
def fxOf (v : Val) : Int :=
  match v with
  | .fin n m e =>
    let x : Int := if 0 ≤ e + 128 then (m * 2 ^ (e + 128).toNat : Nat) else (m / 2 ^ (-(e + 128)).toNat : Nat)
    if n then -x else x
  | _ => 0

/-- Fixed point as an exact value. -/
def fxVal (x : Int) : Val := .fin (decide (x < 0)) x.natAbs (-128)

def fxLn2 : Int := 235865763225513294137944142764154484399
def fxTwoSqrtPi : Int := 383967533763538142977158567454335403656
def fxSqrtHalf : Int := 240615969168004511545033772477625056927
def fxSqrtTwoPi : Int := 271506046879672464325182014351570923903
def fxGauss : Int := 135753023439836232162591007175785461951

/-- Sum of `n` terms of the exponential series from term `k`. -/
def expTerms (r : Int) : Nat → Nat → Int → Int
  | 0, _, _ => 0
  | n + 1, k, t => t + expTerms r n (k + 1) (fxMul t r / (k + 1))

/-- exp of x as a mantissa of [1, 2) and its exponent. -/
def fxExp2 (x : Int) : Int × Int :=
  let n := x / fxLn2
  (expTerms (x - n * fxLn2) 45 0 fxOne, n)

def fxExp (x : Int) : Int :=
  let r := fxExp2 x
  if 0 ≤ r.2 then r.1 * 2 ^ r.2.toNat else r.1 / 2 ^ (-r.2).toNat

def atanhTerms (s2 : Int) : Nat → Nat → Int → Int
  | 0, _, _ => 0
  | n + 1, k, t => t / (2 * k + 1) + atanhTerms s2 n (k + 1) (fxMul t s2)

/-- log of a positive value. -/
def fxLog (v : Val) : Int :=
  match v with
  | .fin false m e =>
    let k := flog2 m e
    let x : Int := (m * 2 ^ 128 / 2 ^ Nat.log2 m : Nat)
    let s := fxDiv (x - fxOne) (x + fxOne)
    k * fxLn2 + 2 * atanhTerms (fxMul s s) 45 0 s
  | _ => 0

def erfTerms (x2 : Int) : Nat → Nat → Int → Int
  | 0, _, _ => 0
  | n + 1, k, t => t / (2 * k + 1) + erfTerms x2 n (k + 1) (-(fxMul t x2) / (k + 1))

def fxErf (x : Int) : Int := fxMul fxTwoSqrtPi (erfTerms (fxMul x x) 170 0 x)
def fxTanh (x : Int) : Int :=
  let t := fxExp (-2 * (x.natAbs : Int))
  let r := fxDiv (fxOne - t) (fxOne + t)
  if x < 0 then -r else r
def fxSigmoid (x : Int) : Int :=
  let t := fxExp (-(x.natAbs : Int))
  let r := fxDiv fxOne (fxOne + t)
  if x < 0 then fxOne - r else r
/-- Φ and φ of the normal distribution. -/
def fxPhi (x : Int) : Int := (fxOne + fxErf (fxMul x fxSqrtHalf)) / 2
def fxDens (x : Int) : Int := fxMul fxGauss (fxExp (-(fxMul x x) / 2))

/-- The argument of the tanh form of GELU, and its derivative. -/
def fxGeluArg (x : Int) : Int := fxMul fxSqrtTwoPi (x + fxMul (fxOne * 44715 / 1000000) (fxMul x (fxMul x x)))
def fxGeluArg' (x : Int) : Int := fxMul fxSqrtTwoPi (fxOne + 3 * fxMul (fxOne * 44715 / 1000000) (fxMul x x))

/-- A built-in function, or its derivative, on its table's domain (R99): codes 2 to 8. -/
def fxFun (code : Nat) (der : Bool) (x : Int) : Int :=
  match code, der with
  | 2, false => fxTanh x
  | 2, true => fxOne - fxMul (fxTanh x) (fxTanh x)
  | 3, false => fxSigmoid x
  | 3, true => fxMul (fxSigmoid x) (fxOne - fxSigmoid x)
  | 4, false => fxMul x (fxPhi x)
  | 4, true => fxPhi x + fxMul x (fxDens x)
  | 5, false => fxMul x (fxOne + fxTanh (fxGeluArg x)) / 2
  | 5, true =>
    let t := fxTanh (fxGeluArg x)
    (fxOne + t + fxMul x (fxMul (fxOne - fxMul t t) (fxGeluArg' x))) / 2
  | 6, false => fxMul x (fxSigmoid x)
  | 6, true => fxMul (fxSigmoid x) (fxOne + fxMul x (fxOne - fxSigmoid x))
  | 7, false => fxLog (fxVal (fxOne + fxExp x))
  | 8, false => fxErf x
  | 8, true => fxMul fxTwoSqrtPi (fxExp (-(fxMul x x)))
  | _, _ => 0

/-- The stated error of codes 2 to 8 at x, without its ulp (R99), and those ulp. -/
def fxBound (code : Nat) (der : Bool) (x : Int) : Int × Nat :=
  let p := fun (k : Nat) => fxOne / 2 ^ k
  match code, der with
  | 2, _ => (p 17, 0)
  | 3, _ => (p 18, 0)
  | 4, false => ((x.natAbs : Int) / 2 ^ 21, 1)
  | 5, false => ((x.natAbs : Int) / 2 ^ 18, 2)
  | 6, false => ((x.natAbs : Int) / 2 ^ 18, 1)
  | 8, _ => (p 20, 0)
  | _, _ => (p 16, 0)

/-! ## Built-in functions (R99) -/

/-- FP32 encodings in the order of their values, and back; −0 is next below +0. -/
def f32Ord (x : F32) : Int := if x.toNat < 2 ^ 31 then (x.toNat : Int) else 2 ^ 31 - 1 - (x.toNat : Int)
def f32OfOrd (i : Int) : F32 := BitVec.ofInt 32 (if 0 ≤ i then i else 2 ^ 31 - 1 - i)

/-- One unit in the last place of a result. -/
def ulpOf (x : F32) : Val :=
  match ofF32 x with
  | .fin _ m e => .fin false 1 (if m = 0 then -149 else max (flog2 m e) (-126) - 23)
  | _ => .fin false 0 0

/-- A table's result (log entry 2): `n` values away from the correctly rounded one where the stated error of the true value `t` allows it, else the
correctly rounded one. `b` is the error without its `k` ulp. -/
def tableVal (n : Int) (t b : Val) (k : Nat) : F32 :=
  let c0 := toF32 t
  let c := f32OfOrd (f32Ord c0 + n)
  let lim := b.add ((ulpOf c0).mul (.ofInt k))
  match ofF32 c with
  | .fin s m e => if (((Val.fin s m e).add t.neg).abs.cmp lim).any (· ≤ 0) then c else c0
  | _ => c0

def Val.zero : Val := .fin false 0 0

/-- A built-in function of codes 2 to 8 on its table's domain. -/
def sfuTable (img code : Nat) (der : Bool) (x : F32) : F32 :=
  let v := fxOf (ofF32 x)
  let b := fxBound code der v
  tableVal (Config.builtin img code der x) (fxVal (fxFun code der v)) (fxVal b.1) b.2

/-- reciprocal, function 0x09: at most 3 ulp from 1/x; ±0 gives ±infinity and ±infinity ±0 (R99). -/
def sfuRecip (img : Nat) (x : F32) : F32 :=
  match ofF32 x with
  | .fin _ m _ => if m = 0 then f32Div f32One x else tableVal (Config.builtin img 9 false x) ((Val.fin false 1 0).div (ofF32 x)) Val.zero 3
  | _ => f32Div f32One x

/-- rsqrt, function 0x0A: within 2^−20 relative; its special values as R99 states. -/
def sfuRsqrt (img : Nat) (x : F32) : F32 :=
  match ofF32 x with
  | .nan => f32Nan
  | .inf n => if n then f32Nan else f32Zero
  | .fin n m _ =>
    if m = 0 then (if n then 0xFF800000 else 0x7F800000)
    else if n then f32Nan
    else
      let t := (Val.fin false 1 0).div (ofF32 x).sqrt
      tableVal (Config.builtin img 0xA false x) t (t.scale (-20)) 0

/-- Comparison with a constant: x ≥ c, x < c, x ≤ c. -/
def f32Ge (x c : F32) : Bool := f32Cmp x c == some 0 || f32Cmp x c == some 1
def f32Lt (x c : F32) : Bool := f32Cmp x c == some (-1)
def f32Le (x c : F32) : Bool := f32Cmp x c == some 0 || f32Cmp x c == some (-1)

/-- exp, function 0x00: at most 2 ulp; beyond 88.72 and −103.97, whose nearest FP32 values lie beyond them, +∞ and +0 (R99). -/
def sfuExp (img : Nat) (x : F32) : F32 :=
  if f32IsNan x then f32Nan
  else if f32Ge x 0x42B170A4 then 0x7F800000
  else if f32Le x 0xC2CFF0A4 then f32Zero
  else
    let r := fxExp2 (fxOf (ofF32 x))
    tableVal (Config.builtin img 0 false x) (.fin false r.1.toNat (r.2 - 128)) Val.zero 2

/-- log, function 0x01: at most 2^−23 on [0.5, 2), elsewhere at most 2 ulp (R99). -/
def sfuLog (img : Nat) (x : F32) : F32 :=
  match ofF32 x with
  | .nan => f32Nan
  | .inf n => if n then f32Nan else 0x7F800000
  | .fin n m e =>
    if m = 0 then 0xFF800000
    else if n then f32Nan
    else if flog2 m e = -1 ∨ flog2 m e = 0 then
      tableVal (Config.builtin img 1 false x) (fxVal (fxLog (ofF32 x))) (.fin false 1 (-23)) 0
    else tableVal (Config.builtin img 1 false x) (fxVal (fxLog (ofF32 x))) Val.zero 2

/-- A function with an odd value table and an even derivative table on [0, lim), ±1 and +0 outside (R98, R99: tanh, erf). -/
def sfuOdd (img code : Nat) (lim : F32) (der : Bool) (x : F32) : F32 :=
  let u := f32Abs x
  if der then (if f32Ge u lim then f32Zero else sfuTable img code true u)
  else
    let r := if f32Ge u lim then f32One else sfuTable img code false u
    if f32Lt x 0 then f32Neg r else r

def sfuSigmoid (img : Nat) (der : Bool) (x : F32) : F32 :=
  if f32Ge x 0x41800000 then (if der then sfuExp img (f32Neg x) else f32One)
  else if f32Le x 0xC1800000 then sfuExp img x
  else if der then sfuTable img 3 true (f32Abs x)
  else if f32Lt x 0 then f32Sub f32One (sfuTable img 3 false (f32Abs x))
  else sfuTable img 3 false x

/-- GELU in either form: x and 1 from 8 on, -0 and +0 below −8 (R99). -/
def sfuGelu (img code : Nat) (der : Bool) (x : F32) : F32 :=
  if f32Ge x 0x41000000 then (if der then f32One else x)
  else if f32Lt x 0xC1000000 then (if der then f32Zero else 0x80000000)
  else sfuTable img code der x

def sfuSilu (img : Nat) (der : Bool) (x : F32) : F32 :=
  if f32Ge x 0x41800000 then (if der then f32One else x)
  else if f32Lt x 0xC1800000 then (if der then f32Zero else f32Mul x (sfuExp img x))
  else sfuTable img 6 der x

def sfuSoftplus (img : Nat) (der : Bool) (x : F32) : F32 :=
  if der then sfuSigmoid img false x
  else if f32Ge x 0x41800000 then x
  else if f32Lt x 0xC1800000 then sfuExp img x
  else sfuTable img 7 false x

/-- A built-in function or its derivative (R99). -/
def evalBuiltin (img code : Nat) (der : Bool) (x : F32) : F32 :=
  if f32IsNan x then f32Nan
  else match code with
    | 0 => sfuExp img x
    | 1 => if der then sfuRecip img x else sfuLog img x
    | 2 => sfuOdd img 2 0x41000000 der x
    | 3 => sfuSigmoid img der x
    | 4 => sfuGelu img 4 der x
    | 5 => sfuGelu img 5 der x
    | 6 => sfuSilu img der x
    | 7 => sfuSoftplus img der x
    | 8 => sfuOdd img 8 0x40800000 der x
    | 9 =>
      let r := sfuRecip img x
      if der then f32Neg (f32Mul r r) else r
    | _ =>
      let r := sfuRsqrt img x
      if der then f32Mul (f32Neg (f32Mul (f32Mul r r) r)) 0x3F000000 else r

/-- The functions an instruction may name (R99). -/
def sfuCodeOk (code : Nat) : Bool := code ≤ 0xA || (0x20 ≤ code && code ≤ 0x3F)

/-- The special-function unit of a partition; a slot never loaded returns NaN (R98, R102). -/
def Part.sfuEval (x : Part) (code : Nat) (der : Bool) (v : F32) : F32 :=
  if code < 0x20 then evalBuiltin x.sfuImage code der v
  else match Tab.find x.sfu (code - 0x20) with
    | some img => evalLoaded img der v
    | none => f32Nan

/-! ## Reductions (R91) -/

/-- One level of the balanced pairwise tree; a lane without partner passes. -/
def pairLevel : List F32 → List F32
  | a :: b :: t => f32Add a b :: pairLevel t
  | l => l

def pairTree : Nat → List F32 → F32
  | 0, l => l.headD f32Zero
  | n + 1, l => pairTree n (pairLevel l)

/-- Lane `l` of 512: its elements in order, added one after another, or their squares fused. -/
def lanePartial (sq : Bool) (xs : List F32) : F32 :=
  match xs with
  | [] => f32Zero
  | x :: t => t.foldl (fun acc y => if sq then f32Fma y y acc else f32Add acc y) (if sq then f32Mul x x else x)

/-- Elements at positions `l`, `l + 512`, ... -/
def laneElems (xs : List F32) (l : Nat) : List F32 :=
  (List.range (ceilDiv (xs.length - l) 512)).map (fun j => xs.getD (l + 512 * j) f32Zero)

/-- Sum, or sum of squares, in the fixed order of R91. -/
def redSum (sq : Bool) (xs : List F32) : F32 :=
  pairTree 9 ((List.range (Nat.min 512 xs.length)).map (fun l => lanePartial sq (laneElems xs l)))

def redMax : List F32 → F32
  | [] => 0xFF800000
  | x :: t => t.foldl f32Max x

def redMin : List F32 → F32
  | [] => 0x7F800000
  | x :: t => t.foldl f32Min x

/-- Index of the largest value, the lowest among equals; of the first NaN where there is one (R91). -/
def argMax (xs : List F32) : Nat :=
  match xs.findIdx? f32IsNan with
  | some i => i
  | none => (xs.findIdx? (fun x => f32Cmp x (redMax xs) == some 0)).getD 0

/-- The reductions of VRED but arg-max (R91). -/
def reduce (op : Nat) (xs : List F32) : F32 :=
  match op with
  | 0 => redSum false xs
  | 1 => redSum true xs
  | 2 => redMax xs
  | 3 => redMin xs
  | _ => redMax (xs.map f32Abs)

end Sys2Proof.Machine
end

