-- ==== Sys2Proof/Machine/UpdProg.lean ====
section
/-! DEFINITION. Optimiser programs of the update units (R186 to R190): images, their checks, and their execution over the elements
of a state block or an embedding row. -/
namespace Sys2Proof.Machine

/-! ## Images (R186, R187, R189) -/

def progMfmt (img : List Byte) : Nat := imgB img 4
def progPlanes (img : List Byte) : Nat := imgB img 5
/-- A bit of PLANES: 0 M1 kept, 1 M2 kept, 2 parity, 3 M1 BF16, 4 M2 BF16, 5 M2 factored, 6 row mode. -/
def plane (img : List Byte) (i : Nat) : Bool := progPlanes img / 2 ^ i % 2 == 1
def progMlen (img : List Byte) : Nat := imgB img 8
def progWlen (img : List Byte) : Nat := imgB img 9
def progWord (img : List Byte) (k : Nat) : Nat := leNat (sliceB img (0x40 + 4 * k) 4)

def uOp (w : Nat) : Nat := w / 2 ^ 26 % 64
def uRd (w : Nat) : Nat := w / 2 ^ 22 % 16
def uA (w : Nat) : Nat := w / 2 ^ 17 % 32
def uB (w : Nat) : Nat := w / 2 ^ 12 % 32
def uC (w : Nat) : Nat := w / 2 ^ 7 % 32

/-- The words of the moment phase and of the weight phase. -/
def momentCode (img : List Byte) : List Nat := (List.range (progMlen img)).map (progWord img)
def weightCode (img : List Byte) : List Nat := (List.range (progWlen img)).map (fun k => progWord img (progMlen img + k))

/-- Operands an opcode reads: none, A, A and B, all three. -/
def uArity (op : Nat) : Nat :=
  match op with
  | 0x01 | 0x02 | 0x03 | 0x05 | 0x06 | 0x07 => 2
  | 0x04 | 0x0D => 3
  | 0x08 | 0x09 | 0x0A | 0x0B | 0x0C | 0x0E | 0x18 | 0x19 | 0x1A | 0x1B => 1
  | _ => 0

/-- Whether an opcode is defined (R187). -/
def uDefined (op : Nat) : Bool := op ≤ 0x0E || (0x10 ≤ op && op ≤ 0x15) || (0x18 ≤ op && op ≤ 0x1B)

/-- Whether an opcode writes RD. -/
def uWrites (op : Nat) : Bool := op != 0 && op < 0x18

/-- Registers read before the phase has written them (R189). -/
def readsUnwritten : List Nat → List Nat → Bool
  | _, [] => false
  | wr, w :: t =>
    let ops := [uA w, uB w, uC w].take (uArity (uOp w))
    ops.any (fun o => o < 16 && !wr.contains o) || readsUnwritten (if uWrites (uOp w) then uRd w :: wr else wr) t

def countOp (op : Nat) (l : List Nat) : Nat := l.countP (fun w => uOp w == op)

/-- The field combinations of R186. -/
def planesOk (img : List Byte) : Bool :=
  let m1 := plane img 0
  let m2 := plane img 1
  let f1 := imgB img 6
  let f2 := imgB img 7
  if plane img 7 then false
  else if plane img 6 then progPlanes img == 0x40 && f1 == 0 && f2 == 0 && [5, 0xA, 9, 1].contains (progMfmt img)
  else
    (progMfmt img == 1 || progMfmt img == 0)
    && (if plane img 2 then m1 && m2 && !plane img 3 && !plane img 4 && !plane img 5 && f1 == 5 && f2 == 5
        else
          (!plane img 3 || (m1 && !m2)) && (!plane img 4 || (m2 && !m1)) && (!plane img 5 || (m2 && !plane img 4))
          && f1 == (if !m1 then 0 else if plane img 3 then 1 else 5)
          && f2 == (if !m2 then 0 else if plane img 4 then 1 else 0xE))

/-- The rules of a phase that do not depend on which phase it is. -/
def phaseOk (img : List Byte) (l : List Nat) : Bool :=
  !readsUnwritten [] l && countOp 0x15 l ≤ 1 && (countOp 0x12 l == 0 || plane img 0) && (countOp 0x13 l == 0 || plane img 1)
  && ((countOp 0x14 l == 0 && countOp 0x1B l == 0) || plane img 6)

/-- Whether ULOAD takes an image (R189). -/
def progOk (img : List Byte) : Bool :=
  let n := progMlen img + progWlen img
  let m := momentCode img
  let w := weightCode img
  n ≤ 64 && (sliceB img 0xA 0x36).all (· == 0) && (List.range (64 - n)).all (fun k => progWord img (n + k) == 0)
  && (m ++ w).all (fun x => x % 128 == 0 && uDefined (uOp x)) && planesOk img && phaseOk img m && phaseOk img w
  && countOp 0x1A m == 0 && countOp 0x1A w == 1 && countOp 0x18 w == 0 && countOp 0x19 w == 0 && countOp 0x1B w == 0
  && (if plane img 6 then countOp 0x1B m == 1 && countOp 0x18 m == 0 && countOp 0x19 m == 0
      else if plane img 2 then countOp 0x18 m == 1 && countOp 0x19 m == 0
      else countOp 0x18 m == b2n (plane img 0) && countOp 0x19 m == b2n (plane img 1))

/-- Whether every format that an image names is one that an update unit accepts in its place: MFMT, M1FMT and M2FMT (R31, R186). -/
def progFmtsOk (img : List Byte) : Bool :=
  (if plane img 6 then [5, 0xA, 9, 1] else [0, 1]).contains (progMfmt img) && [0, 1, 5].contains (imgB img 6)
  && [0, 1, 5, 0xE].contains (imgB img 7)

/-! ## Scalar sets (R190) -/

def setF (set : List Byte) (i : Nat) : F32 := imgF32 set (4 * i)
def setStride (set : List Byte) : Nat := Nat.max 1 (leNat (sliceB set 0x30 2))
def setEvt (set : List Byte) : Nat := leNat (sliceB set 0x32 2)
def setNanMax (set : List Byte) : Nat := leNat (sliceB set 0x34 4)
def setBase (set : List Byte) : Nat := leNat (sliceB set 0x38 8)
def setLo (set : List Byte) : F32 := imgF32 set 0x40
def setHi (set : List Byte) : F32 := imgF32 set 0x44

/-- Whether USCAL takes a set image (R190). -/
def setOk (set : List Byte) : Bool := (sliceB set 0x48 0x38).all (· == 0) && setEvt set / 2 ^ 9 % 64 == 0

/-- s0 to s15 with update factor `k` and group width `g`: s12 = k, s13 = s0 × s12, s14 = 1/g, s15 = +0.0. -/
def setScalars (set : List Byte) (k g : Nat) : List F32 :=
  (List.range 12).map (setF set) ++ [f32OfInt k, f32Mul (setF set 0) (f32OfInt k), f32Div f32One (f32OfInt g), f32Zero]

/-! ## Execution (R185, R187) -/

/-- What a phase reads: the element count and group width, gradient, master, moments, row state, scalars, random bits, and the
free value that STR stores of elements that differ (R187 names no element: log entry 1). -/
structure UEnv where
  n : Nat
  g : Nat
  grad : List F32
  w : List F32
  m1 : List F32
  m2 : List F32
  row : F32
  scal : List F32
  rnd : List Nat
  str : F32
deriving DecidableEq, Repr

/-- What a phase has computed: registers, one list of element values each, and what it stored. -/
structure URun where
  regs : List (List F32)
  m1 : Option (List F32)
  m2 : Option (List F32)
  w : Option (List F32)
  row : Option F32
deriving DecidableEq, Repr

def URun.init (n : Nat) : URun :=
  { regs := List.replicate 16 (List.replicate n f32Zero), m1 := none, m2 := none, w := none, row := none }

/-- Whether `y` is within 1 ulp of 1/√x (R185). -/
def rsqrtClose (x y : F32) : Bool :=
  match ofF32 y, ofF32 x with
  | .fin false m e, .fin false mx ex =>
    let one := Val.fin false 1 0
    let lo := ((Val.fin false (m - 1) e).mul (.fin false (m - 1) e)).mul (.fin false mx ex)
    let hi := ((Val.fin false (m + 1) e).mul (.fin false (m + 1) e)).mul (.fin false mx ex)
    lo.cmp one != some 1 && hi.cmp one != some (-1)
  | _, _ => false

/-- RSQRT of an update unit: a value within 1 ulp of 1/√x (R185, log entry 2). -/
def uRsqrt (x : F32) : F32 :=
  let r := toF32 ((Val.fin false 1 0).div (ofF32 x).sqrt)
  let y := nudge 1 (Config.ulpError x) r
  if rsqrtClose x y then y else r

/-- SIGN (R187): −1, +0 or +1; NaN of a NaN. -/
def uSign (x : F32) : F32 :=
  match f32Cmp x f32Zero with
  | none => f32Nan
  | some c => if c < 0 then 0xBF800000 else if c = 0 then f32Zero else f32One

/-- Balanced pairwise tree over any number of values. -/
def pairAll (l : List F32) : F32 := pairTree (Nat.log2 l.length + 1) l

/-- Consecutive groups of `g` elements. -/
def groupsOf (g : Nat) : Nat → List F32 → List (List F32)
  | 0, _ => []
  | k + 1, l => l.take g :: groupsOf g k (l.drop g)

/-- RSUM: each group's sum in every element of the group (R187). -/
def uRsum (e : UEnv) (l : List F32) : List F32 :=
  (groupsOf e.g (ceilDiv e.n (Nat.max 1 e.g)) l).flatMap (fun x => List.replicate x.length (pairAll x))

/-- An operand: a register or a scalar (R187). -/
def URun.get (r : URun) (e : UEnv) (i : Nat) : List F32 :=
  if i < 16 then r.regs.getD i [] else List.replicate e.n (e.scal.getD (i - 16) f32Zero)

def zip3 (f : F32 → F32 → F32 → F32) (a b c : List F32) : List F32 := (a.zip b).zipWith (fun x y => f x.1 x.2 y) c

/-- RND: (r + 0.5) × 2^−16 (R187). -/
def uRnd (r : Nat) : F32 := toF32 (.fin false (2 * r + 1) (-17))

/-- One instruction over all elements. -/
def URun.step (e : UEnv) (r : URun) (w : Nat) : URun :=
  let a := r.get e (uA w)
  let b := r.get e (uB w)
  let c := r.get e (uC w)
  let put := fun (v : List F32) => { r with regs := r.regs.set (uRd w) v }
  match uOp w with
  | 0x01 => put (a.zipWith f32Add b)
  | 0x02 => put (a.zipWith f32Sub b)
  | 0x03 => put (a.zipWith f32Mul b)
  | 0x04 => put (zip3 f32Fma a b c)
  | 0x05 => put (a.zipWith f32Min b)
  | 0x06 => put (a.zipWith f32Max b)
  | 0x07 => put (a.zipWith f32Div b)
  | 0x08 => put (a.map f32Sqrt)
  | 0x09 => put (a.map uRsqrt)
  | 0x0A => put (a.map f32Abs)
  | 0x0B => put (a.map f32Neg)
  | 0x0C => put (a.map uSign)
  | 0x0D => put (zip3 (fun x y z => if f32Cmp x f32Zero = some 1 then y else z) a b c)
  | 0x0E => put (uRsum e a)
  | 0x10 => put e.grad
  | 0x11 => put e.w
  | 0x12 => put e.m1
  | 0x13 => put e.m2
  | 0x14 => put (List.replicate e.n e.row)
  | 0x15 => put (e.rnd.map uRnd)
  | 0x18 => { r with m1 := some a }
  | 0x19 => { r with m2 := some a }
  | 0x1A => { r with w := some a }
  | 0x1B => { r with row := some (if a.all (· == a.headD f32Zero) then a.headD f32Zero else e.str) }
  | _ => r

/-- A phase of a program. -/
def runPhase (e : UEnv) (code : List Nat) : URun := code.foldl (URun.step e) (URun.init e.n)

end Sys2Proof.Machine
end

