-- ==== Sys2Proof/Machine/Block.lean ====
section
/-! DEFINITION. State blocks (R151 to R154), the planes an update unit reads and writes (R188), and what casts and maquettes take
of a block (R195, R274, R288). -/
namespace Sys2Proof.Machine

/-! ## Layout (R151, R152, R154) -/

/-- Bytes of a state block by master format (0 FP32, 1 BF16). -/
def sbSize (mf : Nat) : Nat := if mf = 0 then 24896 else 16704
def sbMaster : Nat := 0x40
def sbE1 (mf : Nat) : Nat := if mf = 0 then 0x4040 else 0x2040
def sbE2 (mf : Nat) : Nat := sbE1 mf + 0x1000
def sbS1 (mf : Nat) : Nat := sbE1 mf + 0x2000
def sbS2 (mf : Nat) : Nat := sbE1 mf + 0x2080

/-- Bytes of a gradient slot by format (R154). -/
def slotSize (f : Nat) : Nat := if f = 1 then 8192 else 4224

/-- A little-endian field of a header. -/
def hdrF (h : List Byte) (o n : Nat) : Nat := leNat (sliceB h o n)
def hMseq (h : List Byte) : Nat := hdrF h 0 8
def hWseq (h : List Byte) : Nat := hdrF h 8 8
def hBlock (h : List Byte) : Nat := hdrF h 0x10 8 / 2 ^ 16
def hLayer (h : List Byte) : Nat := hdrF h 0x10 8 / 2 ^ 6 % 2 ^ 10
def hCastCopy (h : List Byte) : Bool := hdrF h 0x10 8 / 32 % 2 == 1
def hRem (h : List Byte) : Bool := hdrF h 0x10 8 / 16 % 2 == 1
def hMfmt (h : List Byte) : Nat := hdrF h 0x10 8 % 16
def hCastStep (h : List Byte) : Nat := hdrF h 0x18 8
def hRemAddr (h : List Byte) : Nat := hdrF h 0x20 8 % 2 ^ 48

/-- A header with a field replaced. -/
def hSet (h : List Byte) (o n v : Nat) : List Byte := patchB h o (leBytes n v)

/-- A header with BLOCK, LAYER, CASTCOPY, REM and MFMT. -/
def hIdent (h : List Byte) (block layer : Nat) (copy rem : Bool) (mf : Nat) : List Byte :=
  hSet h 0x10 8 (block * 2 ^ 16 + layer % 1024 * 2 ^ 6 + b2n copy * 32 + b2n rem * 16 + mf % 16)

/-- A header with REM and REM_ADDR. -/
def hPutRem (h : List Byte) (b : Bool) (a : Nat) : List Byte :=
  hSet (hIdent h (hBlock h) (hLayer h) (hCastCopy h) b (hMfmt h)) 0x20 8 (if b then a else 0)

/-! ## Planes (R188) -/

/-- `n` values stored from `a`, scales of a blocked format from `s`. -/
def Dev.rdVals (d : Dev) (c a s n : Nat) : List F32 :=
  (List.range n).map (fun j =>
    let v := decElem c (d.rdBitsAt a (fmtBits c * j) (fmtBits c))
    toF32 (if fmtBlocked c then withScale (memGet d.mem (s + j / 32)).toNat v else v))

/-- What a store converts: element bytes, scale bytes, events, and the values as they now read. -/
structure Stored where
  bytes : List Byte
  scales : List Byte
  ev : Ev
  back : List F32
deriving DecidableEq, Repr

def Stored.empty : Stored := ⟨[], [], {}, []⟩

/-- Blocks of 32 values into a blocked format (R37, R38). -/
def storeBlks (c : Nat) : Nat → List F32 → Stored
  | 0, _ => Stored.empty
  | n + 1, l =>
    let r := convBlock c ((l.take 32).map (fun v => ⟨ofF32 v, .rne, true⟩))
    let t := storeBlks c n (l.drop 32)
    ⟨blockBytes c r.2.1 ++ t.bytes, BitVec.ofNat 8 r.1 :: t.scales, r.2.2.add t.ev,
      r.2.1.map (fun k => toF32 (withScale r.1 (decElem c k))) ++ t.back⟩

/-- Values into an unblocked format. -/
def storeFlat (c : Nat) : List F32 → Stored
  | [] => Stored.empty
  | v :: l =>
    let r := convElem c .rne (ofF32 v)
    let t := storeFlat c l
    ⟨leBytes (fmtBits c / 8) r.1 ++ t.bytes, [], r.2.add t.ev, toF32 (decElem c r.1) :: t.back⟩

/-- Converts values under a recipe with round to nearest even (R39, R188). -/
def storeVals (c : Nat) (l : List F32) : Stored := if fmtBlocked c then storeBlks c (ceilDiv l.length 32) l else storeFlat c l

/-- Writes what a store converted at `a`, scales at `s`. -/
def Dev.wrStored (d : Dev) (x : Stored) (a s : Nat) : Dev := (d.wr a x.bytes).wr s x.scales

/-- The master of the block at `a`, without its remainder. -/
def Dev.master (d : Dev) (mf a : Nat) : List F32 := d.rdVals mf (a + sbMaster) 0 4096

/-- The remainder run at an address (R154, R201). -/
def Dev.remRun (d : Dev) (a : Nat) : List F32 := d.rdVals 6 a (a + 4096) 4096

/-- The bytes R195 emits from a master: 4,096 working elements, then 128 scales (R287). -/
def workRun (w : List F32) : List Byte := (storeVals 5 w).bytes ++ (storeVals 5 w).scales

/-! ## Channels -/

/-- The channel of a partition whose pinned sub-range holds an address (R147). -/
def Dev.chanOf (d : Dev) (p : PartId) (a : Nat) : Fin 4 := (d.pinChan p a (a + 1)).getD 0

/-- Whether UPDc_OPEN names the block at `a` (R194, R211). -/
def Dev.isOpenAt (d : Dev) (p : PartId) (a : Nat) : Bool :=
  (List.finRange 4).any (fun c => bit (d.reg (R.updOpen p c)) 63 && d.fld (R.updOpen p c) 47 6 == a / 64)

/-! ## Casts (R274) -/

/-- What a cast sends of the block at `a`, and whether it is a skip. Its conversion of the master counts no numeric event (DESIGN CHOICE,
log entry 140). -/
def Dev.castImage (d : Dev) (p : PartId) (x : CastSt) (a : Nat) : List Byte × Bool :=
  let h := d.rd a 64
  let n := x.step.toNat
  if hMseq h == n && hWseq h == n && !d.isOpenAt p a then
    if hRem h then
      let w := (d.master x.mfmt a).zipWith f32Add (d.remRun (hRemAddr h))
      (hPutRem h false 0 ++ (storeFlat x.mfmt w).bytes ++ d.rd (a + sbE1 x.mfmt) (sbSize x.mfmt - sbE1 x.mfmt), false)
    else (d.rd a (sbSize x.mfmt), false)
  else (List.replicate 16 0xFF ++ List.replicate (sbSize x.mfmt - 16) 0, true)

/-- The cast `n` of a partition. -/
def Part.castOf (x : Part) (n : Nat) : Option CastSt := x.cast.find? (fun c => c.n == n)

def Part.putCast (x : Part) (c : CastSt) : Part := { x with cast := x.cast.map (fun y => if y.n = c.n then c else y) }

/-- A unit reads block `j` of a cast: a skip counts in TX_SKIP, a block that is sent takes the cast's STEP as its CAST_STEP. -/
def Dev.castTake (d : Dev) (p : PartId) (c : CastSt) (j : Nat) (hold : Bool) : Dev :=
  let a := c.blocks.getD j 0
  let r := d.castImage p c a
  let d := if r.2 then d.bump (R.castStatus p) 15 0 1 else d.wr (a + 0x18) (leBytes 8 c.step.toNat)
  d.modPart p (fun x => x.putCast { c with read := Tab.put c.read j r.1, hold := if hold then c.hold ++ [j] else c.hold })

/-- Blocks in the cast hold of a unit. -/
def Dev.castHeld (d : Dev) (p : PartId) (c : Fin 4) : Nat :=
  ((d.part p).cast.map (fun x => x.hold.countP (fun j => d.chanOf p (x.blocks.getD j 0) == c))).foldl (· + ·) 0

/-- Index of an address in a list. -/
def indexIn (l : List Nat) (a : Nat) : Option Nat := l.findIdx? (· == a)

/-- The casts that have registered the block at `a` and not read it, with its index (R274). -/
def Dev.castNeeds (d : Dev) (p : PartId) (a : Nat) : List (CastSt × Nat) :=
  (d.part p).cast.filterMap (fun c => match indexIn c.blocks a with
    | some j => if (Tab.find c.read j).isNone then some (c, j) else none
    | none => none)

/-! ## The spill of a maquette (R288) -/

/-- The maquette with the offsets of its entries for the block at `a` that it has not read. -/
def Dev.maqNeeds (d : Dev) (p : PartId) (a : Nat) : Option (MaqSt × List Nat) :=
  match (d.part p).maq with
  | some m => some (m, (m.blocks.filter (fun b => b.1 == a)).map (·.2))
  | none => none

/-- Converts a block's run into the spill ring before a phase writes the block (R288); the conversion counts no numeric event (DESIGN CHOICE, log
entry 140). -/
def Dev.maqSpill (d : Dev) (p : PartId) (m : MaqSt) (a off : Nat) : Dev :=
  let slot := m.spillNext % Nat.max 1 m.spillCap
  let d := d.wr (m.spillAddr + 4224 * slot) (workRun (d.master (hMfmt (d.rd a 64)) a))
  d.modPart p (fun x => { x with maq := some { m with blocks := m.blocks.erase (a, off),
                                                      spill := m.spill ++ [(off, slot)], spillNext := m.spillNext + 1 } })

/-- Spills up to `n` entries of a block; whether none is left. -/
def Dev.maqYield (d : Dev) (p : PartId) (a : Nat) : Nat → Dev × Bool
  | 0 => (d, true)
  | n + 1 =>
    match d.maqNeeds p a with
    | some (m, off :: _) => if m.spillCap ≤ m.spill.length then (d, false) else (d.maqSpill p m a off).maqYield p a n
    | _ => (d, true)

/-- Casts that have registered a block and not read it take it into the hold; whether all could (R274). -/
def Dev.castYield (d : Dev) (p : PartId) (c : Fin 4) (a : Nat) : Dev × Bool :=
  let l := d.castNeeds p a
  if 2 < d.castHeld p c + l.length then (d, false) else (d.each l (fun d e => d.castTake p e.1 e.2 true), true)

/-- Prepares a block for a phase's writes: casts and the maquette read it first; whether the phase may write (R274, R288). -/
def Dev.yieldBlock (d : Dev) (p : PartId) (c : Fin 4) (a : Nat) : Dev × Bool :=
  let n := match d.maqNeeds p a with
    | some (_, l) => l.length
    | none => 0
  let r := d.maqYield p a n
  if r.2 then r.1.castYield p c a else r

end Sys2Proof.Machine
end

