-- ==== Sys2Proof/Machine/Update.lean ====
section
/-! DEFINITION. The update units: UPD (R192 to R201), UROUTE (R204 to R207), ULOAD and USCAL (R189 to R191), gradient-slot writes
(R196) and the watch of update sizes (R208, R209). -/
namespace Sys2Proof.Machine

/-- UNIT of R410 for the update unit of channel `c`. -/
def unitUpd (c : Fin 4) : Nat := 0xE + c.val

/-! ## Watching (R208, R209) -/

def USums.zero : USums := ⟨f32Zero, f32Zero, 0, 0, 0⟩

/-- Figures added to figures: FP32 sums, counts that saturate. -/
def USums.add (a b : USums) : USums :=
  ⟨f32Add a.d2 b.d2, f32Add a.w2 b.w2, satAdd 32 a.nan b.nan, satAdd 32 a.inf b.inf, satAdd 32 a.applied b.applied⟩

/-- Σ x² in element order (log entry 34). -/
def sumSq (l : List F32) : F32 := l.foldl (fun s x => f32Add s (f32Mul x x)) f32Zero

/-- Address of the watch entry of a layer, where the watch is on (R208, R212). -/
def Dev.watchAt (d : Dev) (p : PartId) (layer : Nat) : Option Nat :=
  let b := d.fld (R.updWatch p) 47 15 * 2 ^ 15
  if b = 0 then none else some (b + 32 * (layer % 1024))

/-- Brings a watch entry to a step: another step's figures are cleared. -/
def Dev.watchStep (d : Dev) (a : Nat) (n : W64) : Dev :=
  if d.rdN a 8 = n.toNat then d else d.wr a (leBytes 8 n.toNat ++ List.replicate 24 0)

/-- Adds figures into a layer's watch entry (R208). -/
def Dev.watchAdd (d : Dev) (p : PartId) (layer : Nat) (n : W64) (s : USums) : Dev :=
  match d.watchAt p layer with
  | none => d
  | some a =>
    let d := d.watchStep a n
    let f := fun o => BitVec.ofNat 32 (d.rdN (a + o) 4)
    let t := USums.add ⟨f 8, f 12, (f 16).toNat, (f 20).toNat, (f 24).toNat⟩ s
    d.wr (a + 8) (leBytes 4 t.d2.toNat ++ leBytes 4 t.w2.toNat ++ leBytes 4 t.nan ++ leBytes 4 t.inf ++ leBytes 4 t.applied)

/-- √(SUM_D2 / SUM_W2). -/
def USums.ratio (s : USums) : F32 := f32Sqrt (f32Div s.d2 s.w2)

def f32Gt (a b : F32) : Bool := f32Cmp a b == some 1

/-- LOW, HIGH and NANINF (R209). -/
def USums.events (s : USums) (set : List Byte) : Bool × Bool × Bool :=
  let on := decide (0 < s.applied)
  (on && f32Gt (setLo set) s.ratio,
   (on && f32Gt s.ratio (setHi set)) || (f32Cmp s.w2 f32Zero == some 0 && f32Gt s.d2 f32Zero),
   decide (setNanMax set < s.nan + s.inf))

/-- Evaluates the events at completion, in the watch entry and UPDc_STATUS; whether any occurred (R209). -/
def Dev.updEvents (d : Dev) (p : PartId) (c : Fin 4) (layer : Nat) (n : W64) (s : USums) (set : List Byte) : Dev × Bool :=
  let e := s.events set
  let any := e.1 || e.2.1 || e.2.2
  if !any then (d, false)
  else
    let d := match d.watchAt p layer with
      | none => d
      | some a =>
        let d := d.watchStep a n
        let old := d.rdN (a + 28) 4
        d.wr (a + 28) (leBytes 4 (Nat.lor old (b2n e.1 + 2 * b2n e.2.1 + 4 * b2n e.2.2)))
    let o := R.updStatus p c
    let d := if e.1 then d.setFlag o 6 true else d
    let d := if e.2.1 then d.setFlag o 7 true else d
    let d := if e.2.2 then d.setFlag o 5 true else d
    (d, true)

/-- The event post of R209: 1 to EVT_CTR where it is enabled. -/
def Dev.updEventPost (d : Dev) (p : PartId) (any : Bool) (set : List Byte) : Dev :=
  if any && decide (2 ^ 15 ≤ setEvt set) then d.addCtr p (setEvt set % 512) 1 else d

/-! ## The phases of a block (R188, R193, R198, R199, R201) -/

/-- The address of block `i` of a UPD, of its gradient slot and of its remainder run (R192). -/
def UIns.blockAt (i : UIns) (k : Nat) : Nat := i.s2.base + k * sbSize i.s2.fmt
def UIns.slotAt (i : UIns) (k : Nat) : Nat := i.s1.base + k * slotSize i.s1.fmt
def UIns.blocksN (i : UIns) : Nat := i.s2.count / 4096

/-- The random bits of a block's RND (R198). -/
def UIns.rnd (i : UIns) (p : PartId) (k phase : Nat) : List Nat :=
  (List.range 4096).map (fun j => randBits
    { seed := i.seed, tensor := i.s2.tensorId, source := 5, part := p.val, hop := phase, step := i.step - 1 }
    (i.s2.indexBase + 4096 * k + j))

/-- Element and scale plane of the first moment written at step `n` in parity mode (R186). -/
def parityPlane (mf n : Nat) : Nat × Nat := if n % 2 = 0 then (sbE1 mf, sbS1 mf) else (sbE2 mf, sbS2 mf)

/-- The first moment as the channel holds it; in parity mode that of step `n`. -/
def Dev.momentOne (d : Dev) (img : List Byte) (mf a n : Nat) : List F32 :=
  if plane img 2 then d.rdVals 5 (a + (parityPlane mf n).1) (a + (parityPlane mf n).2) 4096
  else if plane img 3 then d.rdVals 1 (a + sbE1 mf) 0 4096
  else d.rdVals 5 (a + sbE1 mf) (a + sbS1 mf) 4096

/-- The second moment (√v) as the channel holds it; in parity mode the first moment of step `n` − 1 in the weight phase. -/
def Dev.momentTwo (d : Dev) (img : List Byte) (mf a n : Nat) : List F32 :=
  if plane img 2 then d.rdVals 5 (a + (parityPlane mf (n + 1)).1) (a + (parityPlane mf (n + 1)).2) 4096
  else if plane img 4 then d.rdVals 1 (a + sbE1 mf) 0 4096
  else if plane img 5 then (d.rdVals 0xE (a + sbE2 mf) (a + sbS2 mf) 128).flatMap (fun v => List.replicate 32 v)
  else d.rdVals 0xE (a + sbE2 mf) (a + sbS2 mf) 4096

/-- What LDW returns: the master, with the remainder of a block whose REM is set (R188, R201), read where REM_ADDR says, in the block's channel or not
(DESIGN CHOICE, log entry 148). -/
def Dev.ldw (d : Dev) (i : UIns) (a : Nat) : List F32 :=
  let h := d.rd a 64
  let w := d.master i.s2.fmt a
  if hRem h then w.zipWith f32Add (d.remRun (hRemAddr h)) else if i.s3.isSome then w.map (fun x => f32Add x f32Zero) else w

/-- The gradient of a block from its slot (R192). -/
def Dev.slotGrad (d : Dev) (i : UIns) (k : Nat) : List F32 := d.rdVals i.s1.fmt (i.slotAt k) (i.slotAt k + 4096) 4096

/-- STRIDE as it acts: 1 in remainder mode (R199). -/
def UIns.stride (i : UIns) : Nat := if i.s3.isSome then 1 else setStride i.set

/-- Whether step `n` applies the weight phase (R199). -/
def UIns.applies (i : UIns) : Bool :=
  i.s3.isSome || (decide (setBase i.set < i.step.toNat) && (i.step.toNat - setBase i.set) % i.stride == 0)

/-- NaNs and infinities among stored values. -/
def badCounts (l : List F32) : Nat × Nat := (l.countP f32IsNan, l.countP f32IsInf)

/-- Free values for a load that the specification states no result for (log entry 1). -/
def Dev.freeList (d : Dev) (n : Nat) : List F32 × Dev :=
  ((List.range n).map (fun j => BitVec.ofNat 32 (Config.freeWord (d.freeCount + j)).toNat), { d with freeCount := d.freeCount + n })

/-- The moment phase of a block: the new moments, then MSEQ (R188, R193). In parity mode R188 states no result for a moment-phase
LDM2: its values are free. -/
def Dev.momentPhase (d : Dev) (p : PartId) (i : UIns) (k : Nat) : Dev × USums :=
  let img := i.prog
  let mf := i.s2.fmt
  let a := i.blockAt k
  let n := i.step.toNat
  let fr := if plane img 2 then d.freeList 4096 else (d.momentTwo img mf a n, d)
  let env : UEnv :=
    { n := 4096, g := 32, grad := d.slotGrad i k, w := d.ldw i a, m1 := d.momentOne img mf a (n + 1), m2 := fr.1, row := f32Zero,
      scal := setScalars i.set i.stride 32, rnd := i.rnd p k 1, str := f32Zero }
  let r := runPhase env (momentCode img)
  let d := fr.2
  let s1 := match r.m1 with
    | some v => storeVals (if plane img 3 then 1 else 5) v
    | none => Stored.empty
  let s2 := match r.m2 with
    | some v => if plane img 5 then storeVals 0xE ((List.range 128).map (fun g => v.getD (32 * g) f32Zero))
                else storeVals (if plane img 4 then 1 else 0xE) v
    | none => Stored.empty
  let at1 := if plane img 2 then parityPlane mf n else (sbE1 mf, sbS1 mf)
  let at2 := if plane img 4 then (sbE1 mf, sbS2 mf) else (sbE2 mf, sbS2 mf)
  let d := (d.wrStored s1 (a + at1.1) (a + at1.2)).wrStored s2 (a + at2.1) (a + at2.2)
  let d := d.count p i.s2.layer.toNat (s1.ev.add s2.ev)
  let b := badCounts (s1.back ++ s2.back)
  (d.wr a (hSet (d.rd a 64) 0 8 n), ⟨f32Zero, f32Zero, b.1, b.2, 0⟩)

/-- The weight phase of a block where its stride applies: the new master, the remainder, then WSEQ (R188, R199, R201). The master's events count under
S2's LAYER and the remainder's under S3's (R51). -/
def Dev.weightPhase (d : Dev) (p : PartId) (i : UIns) (k : Nat) : Dev × USums :=
  let img := i.prog
  let mf := i.s2.fmt
  let a := i.blockAt k
  let n := i.step.toNat
  let h := d.rd a 64
  if !i.applies then (d.wr a (hSet h 8 8 n), USums.zero)
  else
    let w := d.ldw i a
    let env : UEnv :=
      { n := 4096, g := 32, grad := d.slotGrad i k, w := w, m1 := d.momentOne img mf a n, m2 := d.momentTwo img mf a n, row := f32Zero,
        scal := setScalars i.set i.stride 32, rnd := i.rnd p k 2, str := f32Zero }
    let y := ((runPhase env (weightCode img)).w).getD w
    let st := storeVals mf y
    let d := (d.wr (a + sbMaster) st.bytes).count p i.s2.layer.toNat st.ev
    let r := match i.s3 with
      | some s3 =>
        let at3 := s3.base + 4224 * k
        let rem := storeVals 6 (y.zipWith f32Sub st.back)
        ((d.wrStored rem at3 (at3 + 4096)).count p s3.layer.toNat rem.ev, hPutRem h true at3)
      | none => (d, if hRem h then hPutRem h false 0 else h)
    let b := badCounts st.back
    (r.1.wr a (hSet r.2 8 8 n), ⟨sumSq (st.back.zipWith f32Sub w), sumSq w, b.1, b.2, 1⟩)

/-! ## Emission (R195, R156) -/

/-- Converts a block's working values into D. -/
def Dev.emit (d : Dev) (p : PartId) (i : UIns) (k : Nat) (w : List F32) : Dev :=
  let key : RndKey := { seed := i.seed, tensor := 0, source := 5, part := p.val, hop := 0, step := i.step }
  let lane := fun idx => if 4096 * k ≤ idx ∧ idx < 4096 * k + 4096 then Lane.val (ofF32 (w.getD (idx - 4096 * k) f32Zero)) true else .keep
  let r :=
    if i.d.blocked then
      let b0 := i.d.blockOf (4096 * k)
      d.storeBlocks i.d false key lane b0 (i.d.blockOf (4096 * k + 4095) + 1 - b0)
    else d.storeRun i.d false key (4096 * k) ((List.range 4096).map (fun j => lane (4096 * k + j)))
  r.1.count p i.d.layer.toNat r.2

/-- Emits what a unit holds for an instruction, once its entry can be written. -/
def Dev.emitHeld (d : Dev) (p : PartId) (i : UIns) : Dev × UIns :=
  if i.held.isEmpty then (d, i)
  else
    let d := d.dstBegin i.d ⟨i.step, p, i.port, i.id, .update⟩
    (d.each i.held (fun d b => d.emit p i b.1 b.2), { i with held := [] })

/-! ## Running (R193 to R197) -/

/-- What a unit does with an instruction next: goes on, waits in a STATE of UPDc_STATUS, or stops. -/
inductive UOut where
  | next (d : Dev) (i : UIns)
  | wait (d : Dev) (i : UIns) (st : Nat)
  | stop (d : Dev) (i : UIns) (code : Status) (addr : Nat)
  | done (d : Dev) (i : UIns)

/-- Whether a unit may write working values into D: the entry is free or the instruction's own (R156, R29), and D needs no channel that
retrains (R165). -/
def Dev.mayEmit (d : Dev) (p : PartId) (i : UIns) : Bool :=
  (d.dstFree i.d i.step || d.dstFilling i.d p i.port i.id) && !d.extsBusy i.d.exts

/-- The checks of R193 before a block. -/
def Dev.blockCheck (d : Dev) (p : PartId) (i : UIns) (k : Nat) : Option Status :=
  let h := d.rd (i.blockAt k) 64
  firstOf
    [ refuseIf (hLayer h != i.s2.layer.toNat || hBlock h != i.s2.indexBase / 4096 + k || hMfmt h != i.s2.fmt || hCastCopy h)
        St.badDescriptor,
      refuseIf (d.isOpenAt p (i.blockAt k)) St.versionMismatch ]

/-- The phases a block's header asks for: the moment phase and the weight phase; `none` on a missed or future step (R193). -/
def blockWork (h : List Byte) (n phase : Nat) : Option (Bool × Bool) :=
  if hWseq h = n then some (false, false)
  else if hMseq h = n ∧ hWseq h + 1 = n then some (false, true)
  else if hMseq h + 1 = n ∧ hWseq h + 1 = n ∧ phase = 0 then some (true, true)
  else none

/-- Values held for working-shard entries in a unit's output queue (R184, R195). -/
def UpdUnit.heldN (u : UpdUnit) : Nat := (u.q.map (fun i => i.held.length)).foldl (· + ·) 0

/-- Runs the phases of block `k` and emits it. -/
def Dev.runBlock (d : Dev) (p : PartId) (c : Fin 4) (i : UIns) (k : Nat) (w : Bool × Bool) : UOut :=
  match (if w.2 then d.yieldBlock p c (i.blockAt k) else (d, true)) with
  | (d, false) => .wait d i (if w.1 then 1 else 2)
  | (d, true) =>
    let r1 := if w.1 then d.momentPhase p i k else (d, USums.zero)
    let r2 := if w.2 then r1.1.weightPhase p i k else (r1.1, USums.zero)
    let s := r1.2.add r2.2
    let d := if w.2 && (i.applies || w.1) then r2.1.watchAdd p i.s2.layer.toNat i.step s else r2.1
    let i := { i with sums := i.sums.add s }
    let vals := d.master i.s2.fmt (i.blockAt k)
    if i.held.isEmpty && d.mayEmit p i then
      .next ((d.dstBegin i.d ⟨i.step, p, i.port, i.id, .update⟩).emit p i k vals) { i with next := k + 1 }
    else if ((d.part p).units[c]).heldN < 2 then .next d { i with next := k + 1, held := i.held ++ [(k, vals)] }
    else .wait d i 3

/-- The program of a slot, if one is loaded. -/
def Part.prog (x : Part) (n : Nat) : Option (List Byte) := Tab.find x.slots n

/-- A scalar set (reset: 128 zero bytes). -/
def Part.scalars (x : Part) (n : Nat) : List Byte := (Tab.find x.sets n).getD (List.replicate 128 0)

/-- An instruction that starts its first block copies its program and scalar set into the unit (R191). -/
def Dev.updBegin (d : Dev) (p : PartId) (i : UIns) : UIns :=
  if i.begun then i else { i with begun := true, prog := ((d.part p).prog i.slot).getD [], set := (d.part p).scalars i.setNo }

/-- A stop at the next block: the blocks before it are written into D first (R197). -/
def Dev.updStopAt (d : Dev) (i : UIns) (code : Status) (addr : Nat) : UOut :=
  if i.held.isEmpty then .stop d i code addr else .wait d i 3

/-- One block of a UPD, or its end; a unit waits while its channel retrains (R165). -/
def Dev.updStep (d : Dev) (p : PartId) (c : Fin 4) (i : UIns) : UOut :=
  if !i.held.isEmpty && d.mayEmit p i then
    let r := d.emitHeld p i
    .next r.1 r.2
  else if i.blocksN ≤ i.next then (if i.held.isEmpty then .done d i else .wait d i 3)
  else if d.chanShut p c then .wait d i 4
  else
    let i := d.updBegin p i
    let k := i.next
    match d.blockCheck p i k with
    | some code => d.updStopAt i code (i.blockAt k)
    | none =>
      match blockWork (d.rd (i.blockAt k) 64) i.step.toNat i.phase with
      | none => d.updStopAt i St.versionMismatch (i.blockAt k)
      | some w =>
        match (i.s1 :: i.s2 :: i.s3.toList).find? (fun y => !d.tagOk y i.step) with
        | some y => d.updStopAt i St.versionMismatch y.base
        | none =>
          if d.bad (i.blockAt k) (sbSize i.s2.fmt) || d.bad (i.slotAt k) (slotSize i.s1.fmt) then
            d.updStopAt i St.eccUncorrected (i.blockAt k)
          else d.runBlock p c i k w

def Part.setUnit (x : Part) (c : Fin 4) (u : UpdUnit) : Part := { x with units := x.units.set c u }

/-- Replaces an instruction of a unit. -/
def Dev.updPut (d : Dev) (p : PartId) (c : Fin 4) (i : UIns) : Dev :=
  d.modPart p (fun x =>
    let u := x.units[c]
    x.setUnit c { u with q := u.q.map (fun j => if j.port.num = i.port.num ∧ j.id = i.id then i else j) })

/-- An instruction leaves a unit. -/
def Dev.updDrop (d : Dev) (p : PartId) (c : Fin 4) (i : UIns) : Dev :=
  d.modPart p (fun x =>
    let u := x.units[c]
    x.setUnit c { u with q := u.q.filter (fun j => !(j.port.num == i.port.num && j.id == i.id)) })

/-- The block at which an instruction stops: the first whose working values D does not hold (R195, R197). -/
def UIns.stopBlock (i : UIns) : Nat := (i.held.map (·.1)).headD i.next

/-- A unit stops an instruction (R197, R136). -/
def Dev.updFault (d : Dev) (p : PartId) (c : Fin 4) (i : UIns) (code : Status) (addr : Nat) : Dev :=
  let o := R.updStatus p c
  let d := (((d.setFld o 63 56 code.toNat).setFld o 55 52 5).setFld o 47 16 i.stopBlock).setFlag o 0 true
  ((if code = St.eccUncorrected then d.eccMark addr else d).updDrop p c i).execFault p i.port i.id i.pc (unitUpd c) code i.stopBlock addr

/-- A UPD ends: events, then completion, or its entry's filling completes it (R195, R209, R156). -/
def Dev.updDone (d : Dev) (p : PartId) (c : Fin 4) (i : UIns) : Dev :=
  let r := d.updEvents p c i.s2.layer.toNat i.step i.sums i.set
  let d := ((r.1.updEventPost p r.2 i.set).updDrop p c i).setFld (R.updStatus p c) 55 52 0
  if d.dstFilling i.d p i.port i.id then d else d.complete p i.port i.id

/-- The first instruction of each port in a unit's queue (R120). -/
def UpdUnit.heads (u : UpdUnit) : List UIns :=
  (List.range 4).filterMap (fun n => u.q.find? (fun i => i.port.num == n))

/-- Whether a ULOAD, USCAL or UROUTE of the same port stands in the queues before an instruction (R120). -/
def Part.uopAhead (x : Part) (i : UIns) : Bool := x.uops.any (fun o => o.port.num == i.port.num && decide (o.id < i.id))

/-- A port's turn in a unit: its first instruction's next block, emission or end; whether the unit went on. -/
def Dev.updTurn (d : Dev) (p : PartId) (c : Fin 4) (n : Nat) : Dev × Bool :=
  match ((d.part p).units[c]).q.find? (fun i => i.port.num == n) with
  | none => (d, false)
  | some i =>
    if d.fenced p || (d.part p).uopAhead i then (d, false)
    else
      let turned := fun (d : Dev) => (d.backToWork p (.update c, 0)).modPart p (fun x => x.setUnit c { (x.units[c]) with rr := if n = 3 then (x.units[c]).rr else n })
      match d.updStep p c i with
      | .next d i => (turned (d.updPut p c i), true)
      | .wait d i st => ((d.updPut p c i).setFld (R.updStatus p c) 55 52 st, false)
      | .stop d i code addr => (d.updFault p c i code addr, true)
      | .done d i => (turned (d.updDone p c i), true)

/-- `n` bytes that the specification gives no layout for, from the `k`-th free value on (log entry 1). -/
def freeBytesAt (k n : Nat) : List Byte := (List.range n).map (fun i => BitVec.ofNat 8 (Config.freeWord (k + i)).toNat)

def Dev.freeBytes (d : Dev) (n : Nat) : List Byte × Dev := (freeBytesAt d.freeCount n, { d with freeCount := d.freeCount + n })

/-- A write of `n` bytes at `a` that has been cut: each run of 64 bytes holds what it held, or what the whole write gives it (R25); which of
the two is open (log entry 1). -/
def Dev.cutWrite (d new : Dev) (a n : Nat) : Dev :=
  let r := (List.range (ceilDiv n 64)).foldl (fun (z : Dev) g =>
    if bit (Config.freeWord (d.freeCount + g)) 0 then z.wr (a + 64 * g) (new.rd (a + 64 * g) 64) else z) d
  { r with freeCount := d.freeCount + ceilDiv n 64 }

/-- UPDc_OPEN names a block or record, and the phase: 0 the moment phase, 1 the weight phase or a row update (R194, R211). -/
def Dev.setOpen (d : Dev) (p : PartId) (c : Fin 4) (weight : Bool) (a : Nat) : Dev :=
  d.setReg (R.updOpen p c) (BitVec.ofNat 64 (2 ^ 63 + b2n weight * 2 ^ 62 + a))

/-- The moment phase of an instruction's next block ends, its figures with it. -/
def Dev.momentEnd (d : Dev) (p : PartId) (i : UIns) : Dev :=
  let r := d.momentPhase p i i.next
  r.1.watchAdd p i.s2.layer.toNat i.step r.2

/-- A moment phase that has been cut: masters, remainder and header stand as they were (R194). -/
def Dev.cutMoment (d : Dev) (p : PartId) (c : Fin 4) (i : UIns) : Dev :=
  let new := (d.momentPhase p i i.next).1
  let mf := i.s2.fmt
  (({ d with freeCount := new.freeCount } : Dev).cutWrite new (i.blockAt i.next + sbE1 mf) (sbSize mf - sbE1 mf)).setOpen p c false (i.blockAt i.next)

/-- A weight phase that has been cut: moments and header stand as they were (R194). -/
def Dev.cutWeight (d : Dev) (p : PartId) (c : Fin 4) (i : UIns) : Dev :=
  let new := (d.weightPhase p i i.next).1
  let d := d.cutWrite new (i.blockAt i.next + sbMaster) (sbE1 i.s2.fmt - sbMaster)
  (match i.s3 with
    | some s3 => d.cutWrite new (s3.base + 4224 * i.next) 4224
    | none => d).setOpen p c true (i.blockAt i.next)

/-- The phases of an instruction's next block that are still to run, where nothing stops the unit before them (R193). -/
def Dev.phasesLeft (d : Dev) (p : PartId) (i : UIns) : Option (Bool × Bool) :=
  let a := i.blockAt i.next
  if i.blocksN ≤ i.next || (d.blockCheck p i i.next).isSome || !((i.s1 :: i.s2 :: i.s3.toList).all (fun y => d.tagOk y i.step))
      || d.bad a (sbSize i.s2.fmt) || d.bad (i.slotAt i.next) (slotSize i.s1.fmt) then none
  else blockWork (d.rd a 64) i.step.toNat i.phase

/-- A unit is cut off in an instruction's next block (R194). Which phase it had reached is open (log entry 1): none of the two, the moment
phase or the weight phase; and whether it had finished the moment phase and not begun the weight phase. -/
def Dev.updTearOf (d : Dev) (p : PartId) (c : Fin 4) (i : UIns) : Dev :=
  let i := d.updBegin p i
  match d.phasesLeft p i with
  | some (m, true) =>
    let r := d.free
    let d := if m && bit r.1 1 then r.2.momentEnd p i else r.2
    if !bit r.1 0 then d
    else if m && !bit r.1 1 then d.cutMoment p c i
    else d.cutWeight p c i
  | _ => d

/-- The ports F, B and U in turn after the last one served (R120). -/
def portsAfter (n : Nat) : List Nat := (List.range 3).map (fun k => (n + 1 + k) % 3)

/-- A turn of each of the ports F, B and U; where none went on, one of the scalar issue port, which takes the lowest place (R120). Whether
any went on. -/
def Dev.updRound (d : Dev) (p : PartId) (c : Fin 4) : Dev × Bool :=
  let r := (portsAfter ((d.part p).units[c]).rr).foldl (fun r n => ((r.1.updTurn p c n).1, r.2 || (r.1.updTurn p c n).2)) (d, false)
  if r.2 then r else r.1.updTurn p c 3

/-- Gradient-slot writes that have reached a unit are applied in order, unless its channel retrains (R196, R165). -/
def Dev.slotFlush (d : Dev) (p : PartId) (c : Fin 4) : Dev :=
  if d.chanShut p c then d
  else
    let u := (d.part p).units[c]
    (d.each u.slotQ (fun d w => d.wr w.1 w.2)).modPart p (fun x => x.setUnit c { (x.units[c]) with slotQ := [] })

/-- A unit takes blocks from its ports in turn until every port waits (R120). -/
def Dev.updGo (d : Dev) (p : PartId) (c : Fin 4) : Nat → Dev
  | 0 => d
  | n + 1 => if (d.updRound p c).2 then (d.updRound p c).1.updGo p c n else (d.updRound p c).1

/-- A unit runs until every instruction it holds waits. -/
def Dev.updRun (d : Dev) (p : PartId) (c : Fin 4) : Dev :=
  let d := d.slotFlush p c
  let d := d.updGo p c ((((d.part p).units[c]).q.map (fun i => i.blocksN + 3)).foldl (· + ·) 1)
  let u := (d.part p).units[c]
  if u.q.isEmpty && d.fld (R.updStatus p c) 55 52 != 5 then d.setFld (R.updStatus p c) 55 52 0 else d

/-! ## Issue of UPD (R192) -/

/-- Bytes of a UPD's blocks, slots and remainders. -/
def spanOf (x : Desc) (n : Nat) : Int × Int := ((x.base : Int), (x.base : Int) + n)

/-- R127 for the operands that lie in pinned sub-ranges: the checks of the entry, then the reach of the bytes the unit takes. -/
def Dev.checkPin (d : Dev) (p : PartId) (x : Desc) (n : Nat) (write : Bool) : Option Status :=
  firstOf [x.check, d.reachRange p Reach.upd write (spanOf x n), refuseIf (write && x.wprot) St.noPermission,
    d.placeCheck x [toExtent (spanOf x n)]]

/-- A rank-0 CHPIN operand of a kind. -/
def pinKind (x : Desc) (k : Nat) : Bool := x.rank == 0 && x.chpin && !x.norec && x.kind == k

def updSlot (w : TWord) : Nat := bits w.imm 15 8
def updSet (w : TWord) : Nat := bits w.imm 7 0
def updPhase (w : TWord) : Nat := bits w.mod 6 5

/-- The program that an instruction of a port issued now finds in a slot: what the port's last ULOAD of it that still waits has read, else the
slot's (R191). -/
def Part.progFor (x : Part) (q : Port) (n : Nat) : Option (List Byte) :=
  match x.uops.reverse.findSome? (fun o => match o.act with
    | .load s img => if o.port.num = q.num ∧ s = n then some img else none
    | _ => none) with
  | some img => some img
  | none => x.prog n

/-- The checks of R192 after R127. -/
def Dev.updCheck (d : Dev) (p : PartId) (q : Port) (w : TWord) (x y z : Desc) (r : Option Desc) : Option Status :=
  let n := z.count / 4096
  let chan := d.pinChan p z.base (z.base + n * sbSize z.fmt)
  firstOf
    [ refuseIf (!pinKind z 8 || z.count % 4096 != 0 || z.indexBase % 4096 != 0) St.badDescriptor,
      refuseIf (!pinKind y 5 || y.count != z.count) St.badDescriptor,
      (match r with
        | some r => refuseIf (!pinKind r 0xA || r.count != z.count) St.badDescriptor
        | none => none),
      refuseIf (chan.isNone || d.pinChan p y.base (y.base + n * slotSize y.fmt) != chan
        || (match r with
          | some r => d.pinChan p r.base (r.base + n * 4224) != chan
          | none => false)) St.badDescriptor,
      refuseIf (!x.tagchk || x.norec || x.kind != 0 || x.count != z.count || x.axis != 0) St.badDescriptor,
      refuseIf (x.blocked && decide (0 < x.rank) && x.dim 0 % 32 != 0 && 4096 % x.dim 0 != 0) St.badDescriptor,
      (match (d.part p).progFor q (updSlot w) with
        | some img => firstOf [refuseIf (plane img 6) St.badDescriptor, refuseIf (decide (2 ≤ updPhase w)) St.badDescriptor,
            refuseIf (z.fmt != progMfmt img) St.formatInvalid]
        | none => some St.badDescriptor) ]

/-- The reach of a UPD's D: its own channel's pinned sub-range, and what an array reaches (R149). -/
def Dev.updReach (d : Dev) (p : PartId) (z : Desc) (e : Int × Int) : Reach :=
  if (d.pinChan p e.1.toNat e.2.toNat).isSome && d.pinChan p e.1.toNat e.2.toNat == d.pinChan p z.base (z.base + 1) then Reach.upd else Reach.own

/-- R127 for the operands of a UPD. -/
def Dev.updPre (d : Dev) (p : PartId) (x y z : Desc) (r : Option Desc) : Option Status :=
  let n := z.count / 4096
  firstOf
    [ d.checkDstBy p (d.updReach p z) x, d.checkPin p y (n * slotSize y.fmt) false, d.checkPin p z (n * sbSize z.fmt) true,
      (match r with
        | some r => d.checkPin p r (n * 4224) true
        | none => none) ]

/-- R127 and R192 in order. -/
def Dev.updRefuse (d : Dev) (p : PartId) (q : Port) (w : TWord) (x y z : Desc) (r : Option Desc) : Option Status :=
  firstOf [d.updPre p x y z r, d.updCheck p q w x y z r]

/-- A refused UPD: CODE in the unit that its S2 names, and FAULT at block 0 where R192 refuses it (R197, R210). -/
def Dev.updRefused (d : Dev) (p : PartId) (z : Option Desc) (fault : Bool) (code : Status) : Iss :=
  match z.bind (fun z => d.pinChan p z.base (z.base + 1)) with
  | some c =>
    let o := R.updStatus p c
    let d := d.setFld o 63 56 code.toNat
    .refuseAt code (if fault then (d.setFld o 47 16 0).setFlag o 0 true else d)
  | none => .refuse code

/-- Whether a unit's queue for a port is full: the UPDs it holds, and what waits in all four units (R119). -/
def Part.updFull (x : Part) (c : Fin 4) (q : Port) : Bool :=
  decide (5 ≤ (x.units[c]).q.countP (fun i => i.port.num == q.num) + x.uops.countP (fun o => o.port.num == q.num))

/-- What a UPD captures at issue (R128). -/
def Dev.updIns (d : Dev) (p : PartId) (q : Port) (w : TWord) (x y z : Desc) (r : Option Desc) (id : Nat) : UIns :=
  { id := id, port := q, pc := d.portPc p q, phase := updPhase w, slot := updSlot w, setNo := updSet w, begun := false, prog := [], set := [],
    d := x, s1 := y, s2 := z, s3 := r, step := (d.port p q).step, seed := (d.port p q).pwAt 14,
    next := 0, held := [], sums := USums.zero }

/-- The bytes a UPD reads and writes: D by its descriptor, the rest as runs of `n` blocks. -/
def updExts (x y z : Desc) (r : Option Desc) (n : Nat) : List Extent × List Extent :=
  let es := fun (t : Desc) (k : Nat) => toExtent (spanOf t (n * k))
  let zs := es z (sbSize z.fmt)
  let rs := r.toList.map (fun t => es t 4224)
  (es y (slotSize y.fmt) :: zs :: rs, x.exts ++ zs :: rs)

/-- Places an instruction in a unit's queue. -/
def Dev.updQueue (d : Dev) (p : PartId) (c : Fin 4) (i : UIns) : Dev :=
  d.modPart p (fun t => t.setUnit c { (t.units[c]) with q := (t.units[c]).q ++ [i] })

/-! ## Embedding rows (R204 to R207) -/

def rowMapOf (m : List Byte) : RowMap :=
  let f := fun o n => leNat (sliceB m o n)
  { base := (List.range 4).map (fun c => f (8 * c) 8), rows := f 0x20 4, width := f 0x24 2, prog := f 0x26 1, set := f 0x27 1,
    cache := f 0x28 8, slots := f 0x30 4, layer := f 0x34 2, fmt := f 0x36 1,
    clean := (sliceB m 0x37 9).all (· == 0) }

/-- Element bytes, scale bytes and record size of a row (R205). -/
def RowMap.elemBytes (m : RowMap) : Nat := m.width * fmtBits m.fmt / 8
def RowMap.scaleBytes (m : RowMap) : Nat := if fmtBlocked m.fmt then m.width / 32 else 0
def RowMap.recSize (m : RowMap) : Nat := 64 * ceilDiv (16 + m.elemBytes + m.scaleBytes) 64

/-- The field rules of a map (R204). -/
def Dev.rowMapOk (d : Dev) (p : PartId) (m : RowMap) : Bool :=
  m.clean && decide (m.layer < 1024) && m.base.all (fun b => decide (b < 2 ^ 48)) && m.width % 32 == 0 && decide (32 ≤ m.width)
  && decide (m.width ≤ 4096) && [5, 0xA, 9, 1].contains m.fmt && decide (0 < m.rows)
  && (List.finRange 4).all (fun c => d.pinChan p (m.base.getD c.val 0) (m.base.getD c.val 0 + m.rows * m.recSize) == some c)
  && (m.cache == 0 || (decide (sramBase p ≤ m.cache) && decide (m.cache + m.slots * m.recSize ≤ sramBase p + 2 ^ 28)))

/-- Address of row `r`'s record. -/
def RowMap.recAt (m : RowMap) (r : Nat) : Nat := m.base.getD (r % 4) 0 + r / 4 * m.recSize

/-- A record of a row (R205): STATE, VERSION, LAST, CACHE, elements and scales, padding. -/
def rowRecord (m : RowMap) (state : F32) (version last cache : Nat) (x : Stored) : List Byte :=
  sliceB (leBytes 4 state.toNat ++ leBytes 4 version ++ leBytes 4 last ++ leBytes 4 cache ++ x.bytes ++ x.scales) 0 m.recSize

/-- The cache slot address a record names, if the map has that slot. -/
def RowMap.slotOf (m : RowMap) (cache : Nat) : Option Nat :=
  if m.cache ≠ 0 ∧ cache < m.slots then some (m.cache + cache * m.recSize) else none

/-- One row update (R206, R207): both phases, then the record and its cache slot. RND follows R198 with S2's tensor identifier; the element index
of a row, which R198 does not state, is free (log entry 1). -/
def Dev.rowUpdate (d : Dev) (p : PartId) (u : RowIns) (prog set : List Byte) (k r : Nat) : Dev × USums :=
  let m := u.m
  let a := m.recAt r
  let fr := d.freeList 2
  let rnd := fun (phase : Nat) => (List.range m.width).map (fun j => randBits
    { seed := u.seed, tensor := u.s2.tensorId, source := 5, part := p.val, hop := phase, step := u.step - 1 } ((fr.1.getD 0 0).toNat + j))
  let w := d.rdVals m.fmt (a + 16) (a + 16 + m.elemBytes) m.width
  let env : UEnv :=
    { n := m.width, g := m.width, grad := (List.range m.width).map (fun j => d.rdF32 u.s1 (u.s1.rowIx k j)), w := w, m1 := [], m2 := [],
      row := BitVec.ofNat 32 (d.rdN a 4), scal := setScalars set 1 m.width, rnd := rnd 1,
      str := fr.1.getD 1 f32Zero }
  let state := ((runPhase env (momentCode prog)).row).getD env.row
  let y := ((runPhase { env with row := state, rnd := rnd 2 } (weightCode prog)).w).getD w
  let st := storeVals m.fmt y
  let bytes := rowRecord m state (d.rdN (a + 4) 4 + 2) (u.step.toNat % 2 ^ 32) (d.rdN (a + 12) 4) st
  let d := (fr.2.wr a bytes).count p m.layer st.ev
  let d := match m.slotOf (leNat (sliceB bytes 12 4)) with
    | some c => d.wr c bytes
    | none => d
  let b := badCounts st.back
  (d, ⟨sumSq (st.back.zipWith f32Sub w), sumSq w, b.1, b.2, 1⟩)

/-- Assign: CACHE of a row, and its record copied into the slot (R206). -/
def Dev.rowAssign (d : Dev) (u : RowIns) (r : Nat) (slot : Int) : Dev :=
  let a := u.m.recAt r
  let d := d.wr (a + 12) (leBytes 4 (wrapInt 32 slot))
  match u.m.slotOf (wrapInt 32 slot) with
  | some c => d.wr c (d.rd a u.m.recSize)
  | none => d

/-- The list of rows in order, with each channel's figures; the position at which an index stops it, with that index. -/
def Dev.rowList (d : Dev) (p : PartId) (u : RowIns) (prog set : List Byte) (sums : List USums) : List (Nat × Int) → Dev × List USums × Option (Nat × Int)
  | [] => (d, sums, none)
  | (k, ix) :: t =>
    if ix < 0 ∨ (4 * u.m.rows : Int) ≤ ix then (d, sums, some (k, ix))
    else
      let r := ix.toNat
      if u.mode = 2 then (d.rowAssign u r (d.rdInt u.s1 (ixOf u.s1.dims k))).rowList p u prog set sums t
      else if u.mode = 1 ∧ d.rdN (u.m.recAt r + 8) 4 = u.step.toNat % 2 ^ 32 then d.rowList p u prog set sums t
      else
        let z := d.rowUpdate p u prog set k r
        let d := z.1.watchAdd p u.m.layer u.step z.2
        d.rowList p u prog set (sums.mapIdx (fun c x => if c = r % 4 then x.add z.2 else x)) t

/-- Shapes of a UROUTE's operands (R206). -/
def rowsShapeOk (m : RowMap) (mode : Nat) (y z : Desc) : Bool :=
  z.norec && z.fmt == 0xD
  && (if mode = 2 then y.norec && y.fmt == 0xD && y.count == z.count
      else !y.norec && y.kind == 5 && y.dim 0 == m.width && y.axis == 0 && y.rows == z.count)

/-- R127 for the operands of a UROUTE. -/
def Dev.uroutePre (d : Dev) (p : PartId) (x y z : Desc) : Option Status :=
  firstOf [d.checkImage p x 64, d.checkSrc p Reach.own y, d.checkSrc p Reach.own z, refuseIf (!x.norec) St.badDescriptor]

/-- What R204 and R206 ask of the map and of the operands beside it. -/
def Dev.urouteCheck (d : Dev) (p : PartId) (q : Port) (w : TWord) (y z : Desc) (m : RowMap) : Option Status :=
  firstOf
    [ refuseIf (!d.rowMapOk p m || updPhase w == 3) St.badDescriptor,
      (match (d.part p).progFor q m.prog with
        | some img => firstOf [refuseIf (!plane img 6) St.badDescriptor, refuseIf (m.fmt != progMfmt img) St.formatInvalid]
        | none => some St.badDescriptor),
      refuseIf (!rowsShapeOk m (updPhase w) y z) St.badDescriptor ]

/-- CODE of a refused UROUTE in the partition's four units (R210). -/
def Dev.urouteRefused (d : Dev) (p : PartId) (code : Status) : Dev :=
  d.each (List.finRange 4) (fun d c => d.setFld (R.updStatus p c) 63 56 code.toNat)

/-- A unit stops a UROUTE at a list position (R197, R210, R136). -/
def Dev.rowsFault (d : Dev) (p : PartId) (q : Port) (id pc : Nat) (c : Fin 4) (code : Status) (pos addr : Nat) : Dev :=
  let o := R.updStatus p c
  ((((d.setFld o 63 56 code.toNat).setFld o 55 52 5).setFld o 47 16 pos).setFlag o 0 true).execFault p q id pc (unitUpd c) code pos addr

/-- Runs a UROUTE: its rows, the units' events, then completion or its stop (R206, R209, R197). -/
def Dev.urouteRun (d : Dev) (p : PartId) (q : Port) (id pc : Nat) (u : RowIns) : Dev :=
  let prog := ((d.part p).prog u.m.prog).getD []
  let set := (d.part p).scalars u.m.set
  let fault := fun (d : Dev) (c : Fin 4) (code : Status) (pos addr : Nat) => d.rowsFault p q id pc c code pos addr
  if !(d.tagOk u.s1 u.step && d.tagOk u.s2 u.step) then fault d 0 St.versionMismatch 0 u.s1.base
  else if d.badData u.s1 || d.badData u.s2 then (let a := d.badAt (if d.badData u.s1 then u.s1 else u.s2)
    fault (d.eccMark a) 0 St.eccUncorrected 0 a)
  else
    let r := d.rowList p u prog set (List.replicate 4 USums.zero) ((List.range u.s2.count).map (fun k => (k, d.rdInt u.s2 (ixOf u.s2.dims k))))
    match r.2.2 with
    | some (pos, ix) => fault r.1 (Fin.ofNat 4 (wrapInt 32 ix)) St.badDescriptor pos 0
    | none =>
      let e := (List.finRange 4).foldl (fun (z : Dev × Bool) c =>
        let w := z.1.updEvents p c u.m.layer u.step (r.2.1.getD c.val USums.zero) set
        (w.1, z.2 || w.2)) (r.1, false)
      (e.1.updEventPost p e.2 set).complete p q id

/-! ## What the four units do together (R119, R120, R191, R206) -/

/-- Whether the rows of a UROUTE need a channel that retrains (R165). -/
def Dev.rowsBusy (d : Dev) (p : PartId) (u : RowIns) : Bool :=
  d.extsBusy (u.s1.exts ++ u.s2.exts) || (List.finRange 4).any (fun c => d.chanShut p c
    && (List.range u.s2.count).any (fun k => d.rdInt u.s2 (ixOf u.s2.dims k) % 4 == (c.val : Int)))

/-- Whether an instruction of the four units together is its port's first. -/
def Part.uopFirst (x : Part) (o : UOp) : Bool :=
  !(x.uops.any (fun y => y.port.num == o.port.num && decide (y.id < o.id)))
    && (List.finRange 4).all (fun c => !((x.units[c]).q.any (fun i => i.port.num == o.port.num && decide (i.id < o.id))))

/-- Whether an instruction of the four units together waits for a channel that retrains. -/
def Dev.uopBusy (d : Dev) (p : PartId) (o : UOp) : Bool :=
  match o.act with
  | .rows u => d.rowsBusy p u
  | _ => false

/-- Whether an instruction of the four units together may act: it is its port's first, and needs no channel that retrains. -/
def Dev.uopReady (d : Dev) (p : PartId) (o : UOp) : Bool := !d.fenced p && (d.part p).uopFirst o && !d.uopBusy p o

/-- The next of them to act; one of the scalar issue port only where no other may (R120). -/
def Dev.uopNext (d : Dev) (p : PartId) : Option UOp :=
  ((d.part p).uops.find? (fun o => o.port.num != 3 && d.uopReady p o)) <|> (d.part p).uops.find? (d.uopReady p)

/-- A UROUTE that waits for a channel shows in that channel's unit (R210). -/
def Dev.rowsWait (d : Dev) (p : PartId) : Dev :=
  d.each ((List.finRange 4).filter (d.chanShut p)) (fun d c =>
    if (d.part p).uops.any (fun o => (d.part p).uopFirst o && d.uopBusy p o) then d.setFld (R.updStatus p c) 55 52 4 else d)

/-- The list positions of a UROUTE whose rows lie in a channel, with their rows. -/
def Dev.rowsOf (d : Dev) (u : RowIns) (c : Fin 4) : List (Nat × Nat) :=
  (((List.range u.s2.count).map (fun k => (k, d.rdInt u.s2 (ixOf u.s2.dims k)))).filter
    (fun e => decide (0 ≤ e.2) && decide (e.2 < (4 * u.m.rows : Int)) && e.2 % 4 == (c.val : Int))).map (fun e => (e.1, e.2.toNat))

/-- A unit is cut off in a UROUTE's first row of its channel (R194, R207): whether it had begun the row is open, and so is how much of the
record behind the first granule it has written; VERSION is odd, LAST as it was. -/
def Dev.rowTear (d : Dev) (p : PartId) (c : Fin 4) (u : RowIns) : Dev :=
  match if u.mode = 2 then [] else d.rowsOf u c with
  | [] => d
  | (k, r) :: _ =>
    let f := d.free
    if !bit f.1 0 then f.2
    else
      let a := u.m.recAt r
      let new := (f.2.rowUpdate p u (((d.part p).prog u.m.prog).getD []) ((d.part p).scalars u.m.set) k r).1
      let v := d.rdN (a + 4) 4
      let d := ({ f.2 with freeCount := new.freeCount } : Dev).wr a (patchB (new.rd a 64) 4 (leBytes 4 (v + 1) ++ d.rd (a + 8) 4))
      (d.cutWrite new (a + 64) (u.m.recSize - 64)).setOpen p c true a

/-- The phase or row that a unit is in is cut (R194). -/
def Dev.updTear (d : Dev) (p : PartId) (c : Fin 4) : Dev :=
  match ((d.part p).units[c]).heads.find? (fun i => !(d.part p).uopAhead i && decide (i.next < i.blocksN)) with
  | some i => d.updTearOf p c i
  | none =>
    match (d.part p).uops.find? (fun o => (d.part p).uopFirst o && d.uopBusy p o) with
    | some o => (match o.act with
      | .rows u => d.rowTear p c u
      | _ => d)
    | none => d

/-- An instruction of the four units together acts. -/
def Dev.uopAct (d : Dev) (p : PartId) (o : UOp) : Dev :=
  let d := d.modPart p (fun x => { x with uops := x.uops.filter (· != o) })
  match o.act with
  | .load n img => (d.modPart p (fun x => { x with slots := Tab.put x.slots n img })).complete p o.port o.id
  | .scalars n img => (d.modPart p (fun x => { x with sets := Tab.put x.sets n img })).complete p o.port o.id
  | .rows u => d.urouteRun p o.port o.id o.pc u

/-- The units run; as long as one of the instructions of all four may act, it acts and they go on. -/
def Dev.unitsRun (d : Dev) (p : PartId) : Nat → Dev
  | 0 => d.each (List.finRange 4) (fun d c => d.updRun p c)
  | n + 1 =>
    let d := d.each (List.finRange 4) (fun d c => d.updRun p c)
    match d.uopNext p with
    | some o => (d.uopAct p o).unitsRun p n
    | none => d

/-- A partition's update units run until every instruction they hold waits. -/
def Dev.unitsGo (d : Dev) (p : PartId) : Dev := (d.unitsRun p (d.part p).uops.length).rowsWait p

/-- Issues a UPD that has passed its checks to its channel's unit. -/
def Dev.updIssue (d : Dev) (p : PartId) (q : Port) (w : TWord) (x y z : Desc) (r : Option Desc) (e : List Extent × List Extent)
    (c : Fin 4) : Iss :=
  if (d.part p).updFull c q || d.held p q e.1 e.2 then .hold
  else
    let l := d.launch p q .update e.1 e.2
    .go (((l.2.adv p q 1).updQueue p c (d.updIns p q w x y z r l.1)).unitsGo p)

/-- UPD (R192 to R201). -/
def execUpd (p : PartId) (q : Port) (w : TWord) (s : State) : Res :=
  onDev (fun d => d.issue p q (encT 0x80 w) w.snd (fun d =>
    let ps := d.port p q
    if w.x || bits w.mod 4 0 != 0 then d.updRefused p (ps.descAt w.s2) false St.badDescriptor
    else match ps.descAt w.d, ps.descAt w.s1, ps.descAt w.s2 with
      | some x, some y, some z =>
        (match d.updRefuse p q w x y z (ps.descAt w.s3) with
          | some code => d.updRefused p (some z) (d.updPre p x y z (ps.descAt w.s3)).isNone code
          | none => d.updIssue p q w x y z (ps.descAt w.s3) (updExts x y z (ps.descAt w.s3) (z.count / 4096)) (d.chanOf p z.base))
      | _, _, z => d.updRefused p z false St.badDescriptor)) s

/-! ## ULOAD, USCAL (R189 to R191) -/

/-- Places an instruction in the queues of the four units. -/
def Dev.uopQueue (d : Dev) (p : PartId) (o : UOp) : Dev := d.modPart p (fun x => { x with uops := x.uops ++ [o] })

/-- Whether some unit's queue for a port is full (R119). -/
def Part.anyUpdFull (x : Part) (q : Port) : Bool := (List.finRange 4).any (fun c => x.updFull c q)

/-- The common issue of ULOAD and USCAL: the image lies at S1. -/
def Dev.imageIssue (d : Dev) (p : PartId) (q : Port) (opc : Nat) (w : TWord) (len lim : Nat) (why : List Byte → Option Status)
    (act : List Byte → UAct) : Dev :=
  d.issue p q (encT opc w) w.snd (fun d =>
    match (d.port p q).descAt w.s1 with
    | none => .refuse St.badDescriptor
    | some y =>
      let ext := toExtent (imageExt y len)
      if w.x || w.mod != 0 || w.d != 0 || w.s2 != 0 || w.s3 != 0 || decide (lim ≤ w.imm.toNat) then .refuse St.badDescriptor
      else match d.checkImage p y len with
        | some code => .refuse code
        | none =>
          if (d.part p).anyUpdFull q || d.held p q [ext] [] || d.chanBusy ext.lo ext.hi then .hold
          else
            let l := d.launch p q .update [ext] []
            let at' := l.2.adv p q 1
            if !d.tagOk y (d.port p q).step then
              .go (at'.execFault p q l.1 (d.portPc p q) (unitUpd 0) St.versionMismatch (d.portPc p q / 8) y.base)
            else if d.bad y.base len then
              .go ((at'.eccMark (d.badWord y.base len)).execFault p q l.1 (d.portPc p q) (unitUpd 0) St.eccUncorrected (d.portPc p q / 8)
                (d.badWord y.base len))
            else match why (d.rd y.base len) with
              | some code => .refuse code
              | none => .go ((at'.uopQueue p ⟨l.1, q, d.portPc p q, act (d.rd y.base len)⟩).unitsGo p))

/-- Why ULOAD refuses an image (R31, R189): a format that the unit does not accept is named before any other fault (DEDUCED, log entry 129). -/
def progRefuse (img : List Byte) : Option Status :=
  firstOf [refuseIf (!progFmtsOk img) St.formatInvalid, refuseIf (!progOk img) St.badDescriptor]

/-- Why USCAL refuses an image (R190). -/
def setRefuse (img : List Byte) : Option Status := refuseIf (!setOk img) St.badDescriptor

/-- ULOAD (R31, R189, R191). -/
def execUload (p : PartId) (q : Port) (w : TWord) (s : State) : Res :=
  onDev (fun d => d.imageIssue p q 0x82 w 320 16 progRefuse (.load w.imm.toNat)) s

/-- USCAL (R190, R191). -/
def execUscal (p : PartId) (q : Port) (w : TWord) (s : State) : Res :=
  onDev (fun d => d.imageIssue p q 0x83 w 128 256 setRefuse (.scalars w.imm.toNat)) s

/-- The bytes a UROUTE writes: the record of each row, and the cache slot that its CACHE names or is to name (R206, R207). -/
def Dev.rowWrites (d : Dev) (u : RowIns) : List Extent :=
  let m := u.m
  ((List.finRange 4).flatMap (d.rowsOf u)).flatMap (fun e =>
    let a := m.recAt e.2
    let cache := if u.mode = 2 then wrapInt 32 (d.rdInt u.s1 (ixOf u.s1.dims e.1)) else d.rdN (a + 12) 4
    ⟨a, a + m.recSize⟩ :: (m.slotOf cache).toList.map (fun t => ⟨t, t + m.recSize⟩))

/-- A UROUTE whose map may be consumed: the checks of R204 and R206, then its place in the units' queues. -/
def Dev.urouteIssue (d : Dev) (p : PartId) (q : Port) (w : TWord) (y z : Desc) (reads : List Extent) (m : RowMap) : Iss :=
  match d.urouteCheck p q w y z m with
  | some code => .refuseAt code (d.urouteRefused p code)
  | none =>
    let u : RowIns := ⟨m, y, z, updPhase w, (d.port p q).step, (d.port p q).pwAt 14⟩
    if d.held p q reads (d.rowWrites u) then .hold
    else
      let l := d.launch p q .update reads (d.rowWrites u)
      .go (((l.2.adv p q 1).uopQueue p ⟨l.1, q, d.portPc p q, .rows u⟩).unitsGo p)

/-- UROUTE (R204 to R207). -/
def execUroute (p : PartId) (q : Port) (w : TWord) (s : State) : Res :=
  onDev (fun d => d.issue p q (encT 0x81 w) w.snd (fun d =>
    let ps := d.port p q
    let refuse := fun (code : Status) => Iss.refuseAt code (d.urouteRefused p code)
    if w.x || bits w.mod 4 0 != 0 || w.s3 != 0 || w.imm != 0 then refuse St.badDescriptor
    else match ps.descAt w.d, ps.descAt w.s1, ps.descAt w.s2 with
      | some x, some y, some z =>
        let map := toExtent (imageExt x 64)
        let reads := map :: y.exts ++ z.exts
        (match d.uroutePre p x y z with
          | some code => refuse code
          | none =>
            if (d.part p).anyUpdFull q || d.held p q reads [] || d.chanBusy map.lo map.hi then .hold
            else if d.tagOk x ps.step && !d.bad map.lo 64 then d.urouteIssue p q w y z reads (rowMapOf (d.rd x.base 64))
            else
              let l := d.launch p q .update reads []
              let at' := l.2.adv p q 1
              if !d.tagOk x ps.step then .go (at'.rowsFault p q l.1 (d.portPc p q) 0 St.versionMismatch 0 x.base)
              else .go ((at'.eccMark (d.badWord map.lo 64)).rowsFault p q l.1 (d.portPc p q) 0 St.eccUncorrected 0 (d.badWord map.lo 64)))
      | _, _, _ => refuse St.badDescriptor)) s

/-- GRAD_SLOT_WRITE (R196): the oldest gradient-slot write that waits at a unit is applied, unless
its channel retrains (R165). -/
def execGradSlotWrite (p : PartId) (c : Fin 4) (s : State) : Res :=
  onDev (fun d =>
    match (if d.chanShut p c then [] else ((d.part p).units[c]).slotQ) with
    | [] => d
    | x :: rest => (d.wr x.1 x.2).modPart p (fun t => t.setUnit c { (t.units[c]) with slotQ := rest })) s

end Sys2Proof.Machine
end

