-- ==== Sys2Proof/Machine/Coll.lean ====
section
/-! DEFINITION. Groups of the collective engine (R230 to R232), segments (R224, R225), placement maps (R222), and the payloads it
converts, forwards and writes (R219, R220). -/
namespace Sys2Proof.Machine

/-! ## Groups (R230 to R232, R279) -/

def Rank.none : Rank :=
  { ip := 0, mac := 0, part := 0, self := false, lost := false, relay := 0xFFFF, port := 0, module := 0 }

def Group.n (g : Group) : Nat := g.ranks.length
def Group.rank (g : Group) (r : Nat) : Rank := g.ranks.getD r Rank.none
/-- Rank at a ring position, positions taken modulo N. -/
def Group.at (g : Group) (q : Nat) : Nat := g.order.getD (q % Nat.max 1 g.n) 0
/-- Ring position of a rank. -/
def Group.pos (g : Group) (r : Nat) : Nat := (indexIn g.order r).getD 0
def Group.buddy (g : Group) (r : Nat) : Option Nat := (g.buddies[r]?).getD none
def Group.lost (g : Group) (r : Nat) : Bool := (g.rank r).lost
/-- Whether a rank is run by this module: its own, or a lost one that it has adopted (R279). -/
def Group.mine (g : Group) (r : Nat) : Bool := r == g.own || ((g.rank r).lost && (g.rank r).self)
/-- Ring positions this module runs. -/
def Group.places (g : Group) : List Nat := (List.range g.n).filter (fun q => g.mine (g.at q))
/-- The rank whose flow carries what is for a rank: its adopter's for a LOST one, which is reached at the same address (R279). -/
def Group.host (g : Group) (r : Nat) : Nat :=
  let x := g.rank r
  ((List.range g.n).find? (fun k => (g.rank k).ip == x.ip && (g.rank k).part == x.part && !g.lost k)).getD r
def Group.anyLost (g : Group) : Bool := g.ranks.any (·.lost)
/-- The position after `q` along the ring, or against it. -/
def Group.step (g : Group) (fwd : Bool) (q : Nat) : Nat := if fwd then (q + 1) % Nat.max 1 g.n else (q + g.n - 1) % Nat.max 1 g.n
/-- Parent and children of a position in the heap over the ring order (R232). -/
def Group.parent (g : Group) (q : Nat) : Option Nat := if q = 0 then none else some ((q - 1) / Nat.max 1 g.degree)
def Group.children (g : Group) (q : Nat) : List Nat := (List.range g.n).filter (fun k => k != 0 && g.parent k == some q)

/-- The two halves of a shard go opposite ways on a bidirectional ring (R221); the first half is rounded up to whole blocks of 32
(log entry 35). -/
def Group.half (g : Group) (e : Nat) : Nat := if g.topo = 1 then 32 * ceilDiv e 64 else e
/-- Whether the element at offset `o` of a tensor of shards of `e` goes along the ring order. -/
def Group.fwd (g : Group) (e o : Nat) : Bool := decide (o % Nat.max 1 e < g.half e)

/-! ## Segments (R224, R225) -/

/-- Elements of a segment: SEG_ELEMS, or fewer where 8,448 bytes bind. -/
def segLen (g : Group) (f : Nat) : Nat := Nat.max 32 (min g.segElems (32 * (8448 / (4 * fmtBits f + b2n (fmtBlocked f)))))

/-- The segments of shard `i` of size `e`. -/
def Group.shardCuts (g : Group) (e f i : Nat) : List (Nat × Nat) :=
  cuts (i * e) (i * e + g.half e) (segLen g f) ++ cuts (i * e + g.half e) (i * e + e) (segLen g f)

/-- The header of a segment, most significant byte first (R224). -/
def segHdr (grp op num : Nat) (s : OutSeg) (step : W64) (tensor : Nat) : List Byte :=
  beBytes 8 (grp % 4096 * 2 ^ 52 + op % 16 * 2 ^ 48 + num % 2 ^ 16 * 2 ^ 32 + s.src % 2 ^ 16 * 2 ^ 16 + s.hop % 256 * 2 ^ 8
    + b2n s.final * 2 ^ 7 + b2n s.cast * 2 ^ 6 + b2n s.buddy * 2 ^ 5 + b2n s.last * 2 ^ 4)
  ++ beBytes 8 step.toNat
  ++ beBytes 8 (s.off % 2 ^ 48 * 2 ^ 16 + s.elems % 2 ^ 16)
  ++ beBytes 8 (s.fmt % 16 * 2 ^ 60 + s.kind % 16 * 2 ^ 56 + tensor % 2 ^ 16 * 2 ^ 32 + s.dest % 2 ^ 16 * 2 ^ 16)

/-- The header fields of a received segment beside those of `OutSeg`. -/
structure SegIn where
  grp : Nat
  op : Nat
  num : BitVec 16
  step : W64
  tensor : Nat
  seg : OutSeg
deriving DecidableEq, Repr

/-- Decodes a segment; the rank it goes to next is not in the header. -/
def decSeg (l : List Byte) : SegIn :=
  let w := fun k => beNat (sliceB l (8 * k) 8)
  let f := fun v lo n => v / 2 ^ lo % 2 ^ n
  { grp := f (w 0) 52 12, op := f (w 0) 48 4, num := BitVec.ofNat 16 (f (w 0) 32 16), step := BitVec.ofNat 64 (w 1), tensor := f (w 3) 32 16,
    seg := { tgt := f (w 3) 16 16, src := f (w 0) 16 16, dest := f (w 3) 16 16, hop := f (w 0) 8 8, final := f (w 0) 7 1 == 1,
             buddy := f (w 0) 5 1 == 1, cast := f (w 0) 6 1 == 1, last := f (w 0) 4 1 == 1, off := f (w 2) 16 48, elems := f (w 2) 0 16,
             fmt := f (w 3) 60 4, kind := f (w 3) 56 4, data := l.drop 32 } }

/-! ## Payloads (R225) -/

/-- Element codes and scale bytes as a payload. -/
def payloadOf (f : Nat) (codes : List Nat) (scales : List Byte) : List Byte :=
  leBytes (ceilDiv (codes.length * fmtBits f) 8) (packCodes (fmtBits f) codes) ++ scales

/-- Bytes of the element plane of `n` elements. -/
def planeLen (f n : Nat) : Nat := ceilDiv (n * fmtBits f) 8

/-- Element codes of a payload of `n` elements, and its scale bytes. -/
def payloadCodes (f n : Nat) (l : List Byte) : List Nat :=
  let v := leNat (l.take (planeLen f n))
  (List.range n).map (fun j => v / 2 ^ (fmtBits f * j) % 2 ^ fmtBits f)

def payloadScales (f n : Nat) (l : List Byte) : List Byte := l.drop (planeLen f n)

/-- Elements of a payload decoded to FP32. -/
def payloadVals (f n : Nat) (l : List Byte) : List F32 :=
  let sc := payloadScales f n l
  (payloadCodes f n l).mapIdx (fun j c =>
    toF32 (if fmtBlocked f then withScale (sc.getD (j / 32) 0).toNat (decElem f c) else decElem f c))

/-- Whether the blocks of a tensor are its runs of 32 flattened elements, as those of a payload are (R36, R225). -/
def Desc.runs32 (x : Desc) : Bool := x.axis == 0 && (x.rows == 1 || x.dim 0 % 32 == 0)

/-- Values as a payload of a blocked format: codes, and a scale for each 32 of them. -/
def payloadEnc (f : Nat) : Nat → List F32 → List Nat × List Byte
  | 0, _ => ([], [])
  | n + 1, l =>
    let r := convBlock f ((l.take 32).map (fun v => ⟨ofF32 v, .rne, false⟩))
    let t := payloadEnc f n (l.drop 32)
    (r.2.1.take (min 32 l.length) ++ t.1, BitVec.ofNat 8 r.1 :: t.2)

/-- The payload of `n` elements of a tensor from flattened element `o`. Where the tensor's blocks are not runs of 32 flattened elements the
payload's blocks, which are, take scales of their own (DESIGN CHOICE, log entry 137). -/
def Dev.readPayload (d : Dev) (x : Desc) (o n : Nat) : List Byte :=
  if x.blocked && !x.runs32 then
    let r := payloadEnc x.fmt (ceilDiv n 32) ((List.range n).map (fun j => d.rdF32 x (ixOf x.dims (o + j))))
    payloadOf x.fmt r.1 r.2
  else if x.blocked then
    let bs := (List.range (ceilDiv n 32)).map (fun b => x.off (x.blockIx (o / 32 + b)))
    (bs.flatMap (fun q => d.rd (x.addr q) (fmtBlockBytes x.fmt))).take (planeLen x.fmt n) ++ bs.map (fun q => memGet d.mem (x.scaleAddr q))
  else payloadOf x.fmt ((List.range n).map (fun j => d.rdCode x (ixOf x.dims (o + j)))) []

/-- Writes a payload into a tensor from flattened element `o`. Where the tensor's blocks are not runs of 32 flattened elements, each element
goes to its place and every block it lies in is converted again (DESIGN CHOICE, log entry 137). -/
def Dev.writePayload (d : Dev) (x : Desc) (o n : Nat) (l : List Byte) : Dev :=
  if x.blocked && !x.runs32 then
    let lanes := (payloadVals x.fmt n l).mapIdx (fun j v => (o + j, Lane.val (ofF32 v) false))
    let key : RndKey := { seed := 0, tensor := 0, source := 4, part := 0, hop := 0, step := 0 }
    d.each ((lanes.map (fun e => x.blockOf e.1)).eraseDups) (fun d b => (d.storeBlock x false key (findLane lanes) b).1)
  else if x.blocked then
    let sc := payloadScales x.fmt n l
    let bb := fmtBlockBytes x.fmt
    d.each (List.range (ceilDiv n 32)) (fun d b =>
      let q := x.off (x.blockIx (o / 32 + b))
      (d.wr (x.addr q) (sliceB (l.take (planeLen x.fmt n)) (bb * b) bb)).wr (x.scaleAddr q) [sc.getD b 0])
  else d.each ((payloadCodes x.fmt n l).mapIdx (fun j c => (j, c))) (fun d e => d.wrCode x (ixOf x.dims (o + e.1)) e.2)

/-! ## Placement maps (R222) -/

/-- A placement map: first slot or block and element count of each channel. -/
structure PMap where
  ch : List Nat
  cnt : List Nat
  kind : Nat
  mfmt : Nat
  clean : Bool
deriving DecidableEq, Repr

def pmapOf (m : List Byte) : PMap :=
  let f := fun o n => leNat (sliceB m o n)
  { ch := (List.range 4).map (fun c => f (8 * c) 8), cnt := (List.range 4).map (fun c => f (0x20 + 4 * c) 4), kind := f 0x30 1,
    mfmt := f 0x31 1, clean := (sliceB m 0x32 14).all (· == 0) }

def PMap.total (m : PMap) : Nat := m.cnt.foldl (· + ·) 0
/-- Bytes per 4,096 elements. -/
def PMap.unit (m : PMap) : Nat := if m.kind = 8 then sbSize m.mfmt else slotSize m.mfmt

/-- The channel and address of the slot or block of map position `b`. -/
def PMap.locAux (u : Nat) (b : Nat) : List (Nat × Nat) → Nat → Option (Nat × Nat)
  | [], _ => none
  | (a, n) :: t, c => if b < n / 4096 then some (c, a + b * u) else PMap.locAux u (b - n / 4096) t (c + 1)

def PMap.loc (m : PMap) (b : Nat) : Option (Nat × Nat) := PMap.locAux m.unit b (m.ch.zip m.cnt) 0

/-- Addresses of all slots or blocks in map order. -/
def PMap.addrs (m : PMap) : List Nat := (List.range (m.total / 4096)).filterMap (fun b => (m.loc b).map (·.2))

/-- Byte ranges of a placement map's slots or blocks. -/
def PMap.exts (m : PMap) : List Extent := (m.ch.zip m.cnt).map (fun e => ⟨e.1, e.1 + e.2 / 4096 * m.unit⟩)

/-- The rules of R222 for a map of a kind over `e` elements of partition `p`. -/
def Dev.pmapOk (d : Dev) (p : PartId) (m : PMap) (kind e : Nat) : Bool :=
  m.clean && m.kind == kind && m.total == e && (if kind = 8 then m.mfmt == 1 || m.mfmt == 0 else m.mfmt == 6 || m.mfmt == 1)
  && (List.finRange 4).all (fun c =>
    let a := m.ch.getD c.val 0
    let n := m.cnt.getD c.val 0
    n % 4096 == 0 && decide (a < 2 ^ 48) && (if n = 0 then a == 0 else d.pinChan p a (a + n / 4096 * m.unit) == some c))

/-- The lowest byte of a descriptor's elements (R126). -/
def Desc.low (x : Desc) : Nat := ((x.exts.map (·.lo)).head?).getD x.base

/-- A descriptor whose extent is `n` bytes of map (R222, R236, R249). -/
def mapDesc (x : Desc) (n : Nat) : Bool :=
  x.norec && (match x.exts with
    | [e] => e.hi - e.lo == n
    | _ => false)

/-- Writes of a payload into a map's slots, as addresses and bytes by channel; a segment may cross slots. -/
def slotWrites (m : PMap) (o n : Nat) (l : List Byte) : List (Nat × Nat × List Byte) :=
  let w := fmtBits m.mfmt / 8
  let sc := payloadScales m.mfmt n l
  (cuts o (o + n) 4096).flatMap (fun c =>
    (splitAt c.1 c.2).flatMap (fun (a, len) =>
      match m.loc (a / 4096) with
      | none => []
      | some (ch, s) =>
        (ch, s + a % 4096 * w, sliceB l ((a - o) * w) (len * w))
          :: (if fmtBlocked m.mfmt then [(ch, s + 4096 + a % 4096 / 32, sliceB sc ((a - o) / 32) (ceilDiv len 32))] else [])))
where
  /-- A run split where it crosses a slot. -/
  splitAt (a len : Nat) : List (Nat × Nat) :=
    let room := 4096 - a % 4096
    if len ≤ room then [(a, len)] else [(a, room), (a + room, len - room)]

/-- Gradient-slot writes reach the units of their channels (R196). -/
def Dev.slotPush (d : Dev) (p : PartId) (l : List (Nat × Nat × List Byte)) : Dev :=
  d.each l (fun d w => d.modPart p (fun x =>
    let c : Fin 4 := Fin.ofNat 4 w.1
    x.setUnit c { (x.units[c]) with slotQ := (x.units[c]).slotQ ++ [(w.2.1, w.2.2)] }))

/-! ## Reductions (R219, R220) -/

/-- Whether D is a placement map, the format that the operation writes, and whether its conversions are stochastic. -/
def CollOp.mapped (x : CollOp) : Bool := x.op == 0 && x.d.norec
def CollOp.fmt (x : CollOp) : Nat := if x.mapped then (pmapOf x.dmap).mfmt else x.d.fmt
def CollOp.kind (x : CollOp) : Nat := if x.mapped then 5 else if x.d.norec then 0 else x.d.kind
def CollOp.sr (x : CollOp) : Bool := x.mapped || (!x.d.norec && kindSr x.d.kind)

/-- Elements per rank of a reduction or gather. -/
def CollOp.shard (x : CollOp) (g : Group) : Nat :=
  match x.op with
  | 1 => x.s1.count
  | _ => x.s1.count / Nat.max 1 g.n

/-- The rounding of element `idx` of the full tensor at a hop. -/
def CollOp.rnd (x : CollOp) (hop idx : Nat) : Rnd :=
  if x.sr then .sr (randBits { seed := x.seed, tensor := x.d.tensorId, source := 4, part := 0, hop := hop, step := x.step }
    (x.s1.indexBase + idx)) else .rne

/-- Blocks of 32 values from element `o` into a blocked format. -/
def CollOp.convBlks (x : CollOp) (hop o : Nat) : Nat → List F32 → List Nat × List Byte × Ev
  | 0, _ => ([], [], {})
  | n + 1, l =>
    let r := convBlock x.fmt ((l.take 32).mapIdx (fun j v => ⟨ofF32 v, x.rnd hop (o + j), true⟩))
    let t := x.convBlks hop (o + 32) n (l.drop 32)
    (r.2.1 ++ t.1, BitVec.ofNat 8 r.1 :: t.2.1, r.2.2.add t.2.2)

/-- Values from element `o` as the payload of D's recipe, and their events. -/
def CollOp.conv (x : CollOp) (hop o : Nat) (l : List F32) : List Byte × Ev :=
  if fmtBlocked x.fmt then
    let r := x.convBlks hop o (ceilDiv l.length 32) l
    (payloadOf x.fmt r.1 r.2.1, r.2.2)
  else
    let r := l.mapIdx (fun j v => convElem x.fmt (x.rnd hop (o + j)) (ofF32 v))
    (payloadOf x.fmt (r.map (·.1)) [], (r.map (·.2)).foldl Ev.add {})

/-- This module's contribution at a ring position: zeros for a lost rank (R279). -/
def Dev.contribution (d : Dev) (g : Group) (x : CollOp) (q o n : Nat) : List F32 :=
  if g.lost (g.at q) then List.replicate n f32Zero
  else (List.range n).map (fun j => d.rdF32 x.s1 (ixOf x.s1.dims (o + j)))

/-! ## Noise (R240) -/

/-- Adds the squares of final values, before their conversion, into G2 of D's layer. -/
def Dev.noiseAdd (d : Dev) (x : CollOp) (l : List F32) : Dev :=
  let b := d.fld (R.collNoise x.part) 47 15 * 2 ^ 15
  if x.op ≠ 0 ∨ b = 0 ∨ !bit x.param 31 then d
  else
    let a := b + 32 * x.d.layer.toNat
    let d := if d.rdN a 8 = x.step.toNat then d else d.wr a (leBytes 8 x.step.toNat ++ List.replicate 24 0)
    d.wr (a + 8) (leBytes 4 (l.foldl (fun s v => f32Add s (f32Mul v v)) (BitVec.ofNat 32 (d.rdN (a + 8) 4))).toNat)

/-! ## Operations -/

def Dev.collOp (d : Dev) (n : Nat) : Option CollOp := d.coll.ops.find? (fun x => x.n == n)
def Dev.putColl (d : Dev) (x : CollOp) : Dev :=
  { d with coll := { d.coll with ops := d.coll.ops.map (fun y => if y.n = x.n then x else y) } }
def Dev.dropColl (d : Dev) (n : Nat) : Dev := { d with coll := { d.coll with ops := d.coll.ops.filter (fun y => y.n != n) } }

/-- The group of an operation as it is installed now. -/
def Dev.collGroup (d : Dev) (x : CollOp) : Option Group := d.groupOf x.tenant x.grp

/-- Whether a held segment is one of an operation's (R227). -/
def CollOp.ownsHeld (x : CollOp) (r : HeldSeg) : Bool :=
  let s := decSeg r.payload
  x.phase != .queued && x.tenant == r.tenant && x.grp == s.grp && x.num == s.num

/-- An operation ends: its held segments are discarded, and so is the cast it sends, for whose hold a unit may wait (R213, R136, R274). -/
def Dev.collEnd (d : Dev) (x : CollOp) : Dev :=
  let d := d.dropColl x.n
  let d := { d with coll := { d.coll with held := d.coll.held.filter (fun r => !x.ownsHeld r) } }
  if ((d.part x.part).castOf x.n).isNone then d
  else (d.modPart x.part (fun p => { p with cast := p.cast.filter (fun c => c.n != x.n) })).unitsGo x.part

/-- A collective stops (R136): its stream stops under the port's own unit number, the engine sends nothing more for it. -/
def Dev.collFault (d : Dev) (x : CollOp) (code : Status) (detail : Nat) : Dev :=
  (d.collEnd x).execFault x.part x.port x.id x.pc x.port.num code detail 0

end Sys2Proof.Machine
end

