-- ==== Sys2Proof/Machine/CollRun.lean ====
section
/-! DEFINITION. What a collective operation does with its own contribution and with each segment it accepts: the rings, trees and
direct paths of R221, the gathers of R228, broadcasts, all-to-all, the block streams of CRSH (R236, R238) and of casts (R272, R275). -/
namespace Sys2Proof.Machine

/-- The device and the operation that runs on it. -/
abbrev CSt := Dev × CollOp

/-! ## Completion (R217) -/

/-- Ranks whose buddy this module is. -/
def Group.wards (g : Group) : List Nat := (List.range g.n).filter (fun r => g.buddy r == some g.own && r != g.own)

/-- Lost ranks this module has adopted. -/
def Group.adopted (g : Group) : List Nat := (List.range g.n).filter (fun r => r != g.own && g.mine r)

/-- Segments of a whole tensor of `e` times N elements. -/
def Group.allCuts (g : Group) (e f : Nat) : List (Nat × Nat) :=
  if g.topo = 2 then cuts 0 (e * g.n) (segLen g f) else (List.range g.n).flatMap (fun i => g.shardCuts e f i)

/-- Segments that D takes. -/
def CollOp.expectD (x : CollOp) (g : Group) : Nat :=
  match x.op with
  | 0 => (g.shardCuts (x.shard g) x.fmt (g.pos g.own)).length
  | 1 | 2 => (g.allCuts (x.shard g) x.fmt).length
  | 4 => if x.param.toNat % 2 ^ 16 = g.own then 0 else (cuts 0 x.d.count (segLen g x.fmt)).length
  | _ => 0

/-- Segments that the buddy's copy takes: the S2 map of a CRS, the RETAIN destination of a CAG. -/
def CollOp.expectB (x : CollOp) (g : Group) : Nat :=
  let per := fun r => (g.shardCuts (x.shard g) x.fmt (g.pos r)).length
  match x.op with
  | 0 => (((if x.mcast then g.wards else []) ++ g.adopted).map per).foldl (· + ·) 0
  | 1 => if x.aux.isSome then ((g.wards.filter (fun r => !g.lost r)).map per).foldl (· + ·) 0 else 0
  | _ => 0

/-- Segments of a shard that go along the ring order, or against it (R221). -/
def CollOp.halfCuts (x : CollOp) (g : Group) (fwd : Bool) : Nat :=
  let e := x.shard g
  if fwd then (cuts 0 (g.half e) (segLen g x.fmt)).length else (cuts (g.half e) e (segLen g x.fmt)).length

/-- What a CRS, CAG or CAR sends from a ring position: how many segments to which position (R221, R223, R228). -/
def CollOp.sends (x : CollOp) (g : Group) (q : Nat) : List (Nat × Nat) :=
  let others := (List.range g.n).filter (· != q)
  let s := x.halfCuts g true + x.halfCuts g false
  let along := fun (k : Nat) => if g.n ≤ 1 then [] else [true, false].map (fun f => (g.step f q, k * x.halfCuts g f))
  let toBuddy := fun (i n : Nat) => if !x.mcast || g.lost (g.at i) then [] else (match g.buddy (g.at i) with
    | some r => if r = g.own then [] else [(g.pos r, n)]
    | none => [])
  match x.op, g.topo with
  | 0, 3 => others.map (fun k => (k, s)) ++ (if g.mine (g.at q) then toBuddy q s else [])
  | 0, _ => if x.mcast then along g.n ++ (if g.n ≤ 1 then [] else [true, false].flatMap (fun f => toBuddy (g.step f q) (x.halfCuts g f)))
    else along (g.n - 1)
  | 1, 3 => others.map (fun k => (k, s))
  | 1, _ => along (g.n - 1)
  | 2, 3 => others.map (fun k => (k, 2 * s))
  | 2, 2 => (g.children q ++ (g.parent q).toList).map (fun k => (k, (g.allCuts (x.shard g) x.fmt).length))
  | 2, _ => along (2 * (g.n - 1))
  | _, _ => []

/-- Neighbours of a position in the tree. -/
def Group.near (g : Group) (q : Nat) : List Nat := g.children q ++ (g.parent q).toList

/-- The pairs of an all-to-all on a ring that pass through this module: origin and destination, by rank (R235). -/
def Group.through (g : Group) : List (Nat × Nat) :=
  if g.topo = 3 then []
  else
    let n := Nat.max 1 g.n
    let back := fun (r : Nat) => (g.pos g.own + n - g.pos r) % n
    let ahead := fun (r : Nat) => (g.pos r + n - g.pos g.own) % n
    (List.range g.n).flatMap (fun o => ((List.range g.n).filter (fun t =>
      o != g.own && t != g.own && t != o && decide (back o + ahead t < n))).map (fun t => (o, t)))

/-- Key of a pair of ranks. -/
def pairKey (g : Group) (o t : Nat) : Nat := o * g.n + t

/-- The segments of `n` elements of an all-to-all with the count before them. -/
def CollOp.a2aCuts (x : CollOp) (g : Group) (n : Nat) : Nat := 1 + (cuts 0 n (segLen g x.fmt)).length

/-- The count this module sends to a rank. -/
def Dev.sendCount (d : Dev) (x : CollOp) (r : Nat) : Nat := wrapInt 32 (d.rdInt x.s2 (ixOf x.s2.dims r))

/-- Segments that this module sends in all, for LAST and the interleaving of a cast (R224, R228); `none` while it does not know. -/
def Dev.collTotal (d : Dev) (x : CollOp) (g : Group) : Option Nat :=
  match x.op with
  | 0 | 1 | 2 => some ((g.places.flatMap (x.sends g)).map (fun e => if g.mine (g.at e.1) then 0 else e.2)).sum
  | 3 =>
    let known := (g.through.map (fun e => Tab.find x.relayed (pairKey g e.1 e.2)))
    if known.any Option.isNone then none
    else some ((((List.range g.n).filter (· != g.own)).map (fun r => x.a2aCuts g (d.sendCount x r))).sum
      + (known.map (fun k => x.a2aCuts g (k.getD 0))).sum)
  | 4 =>
    let q := g.pos g.own
    let root := g.pos (x.param.toNat % 2 ^ 16)
    let s := (cuts 0 (if q = root then x.s1.count else x.d.count) (segLen g x.fmt)).length
    some (s * (if g.topo = 3 then (if q = root then g.n - 1 else 0)
      else if g.topo = 2 then (g.near q).length - (if q = root then 0 else 1)
      else if g.step true q = root then 0 else 1))
  | _ => none

/-! ## Sending -/

/-- A segment of the operation between two ring positions. -/
def CollOp.seg (x : CollOp) (g : Group) (q tgt off n hop : Nat) (final : Bool) (data : List Byte) : OutSeg :=
  { tgt := g.at tgt, src := g.at q, dest := g.at tgt, hop := hop, final := final, buddy := false, cast := false, last := false, off := off,
    elems := n, fmt := x.fmt, kind := x.kind, data := data }

/-- Bytes of the cast stream that a gather sends (R272). -/
def CastSt.length (c : CastSt) : Nat := 320 + c.blocks.length * sbSize c.mfmt

/-- The next cast segment of a gather, at byte `o` of the stream. -/
def castSeg (g : Group) (b o total : Nat) (last : Bool) : OutSeg :=
  { tgt := b, src := g.own, dest := b, hop := 0, final := false, buddy := false, cast := true, last := last && decide (total ≤ o + 8448),
    off := o, elems := min 8448 (total - o), fmt := 0, kind := 0, data := [] }

/-- Queues up to `k` further cast segments; `last` where no working segment follows. -/
def placeCast (g : Group) (b total : Nat) (last : Bool) (x : CollOp) : Nat → CollOp
  | 0 => x
  | k + 1 =>
    if total ≤ x.castNext then x
    else placeCast g b total last { x with outq := x.outq ++ [castSeg g b x.castNext total last], castNext := x.castNext + 8448 } k

/-- Cast segments after a working segment: `c` after every 16, the rest behind the last (R228, R272). -/
def Dev.interleave (d : Dev) (g : Group) (x : CollOp) : CollOp :=
  match (d.part x.part).castOf x.n, g.buddy g.own with
  | some c, some b =>
    if d.collTotal x g == some x.placed then placeCast g b c.length true x (c.length / 8448 + 1)
    else if x.placed % 16 = 0 then placeCast g b c.length false x (bits x.param 23 20)
    else x
  | _, _ => x

/-- Whether cast segments still follow. -/
def Dev.castFollows (d : Dev) (x : CollOp) : Bool :=
  match (d.part x.part).castOf x.n with
  | some c => decide (x.castNext < c.length)
  | none => false

/-- Queues a working segment; one for a place of this module does not leave it (R279). -/
def place (g : Group) (s : CSt) (o : OutSeg) : CSt :=
  if g.mine o.tgt then (s.1, { s.2 with outq := s.2.outq ++ [o] })
  else
    let x := { s.2 with placed := s.2.placed + 1 }
    let o := { o with last := (o.last && x.op == 5) || (s.1.collTotal x g == some x.placed && !s.1.castFollows x) }
    (s.1, s.1.interleave g { x with outq := x.outq ++ [o] })

/-! ## Writing results -/

/-- Offset of element `o` within its shard. -/
def CollOp.inShard (x : CollOp) (g : Group) (o : Nat) : Nat := o % Nat.max 1 (x.shard g)

/-- Writes a final payload into D, once. -/
def writeD (g : Group) (s : CSt) (o n : Nat) (l : List Byte) : CSt :=
  let x := s.2
  if x.wroteD.contains o then s
  else
    let d := if x.mapped then s.1.slotPush x.part (slotWrites (pmapOf x.dmap) (x.inShard g o) n l)
      else s.1.writePayload x.d (if x.op = 0 then x.inShard g o else o) n l
    (d, { x with wroteD := x.wroteD ++ [o] })

/-- Writes a final payload into the buddy's copy, once: the S2 map of a CRS, the RETAIN destination of a CAG (R221, R228). -/
def writeB (g : Group) (s : CSt) (o n : Nat) (l : List Byte) : CSt :=
  let x := s.2
  if x.wroteB.contains o then s
  else
    let d := if x.op = 0 then s.1.slotPush x.part (slotWrites (pmapOf x.smap) (x.inShard g o) n l)
      else match x.aux with
        | some a => s.1.writePayload a (x.inShard g o) n l
        | none => s.1
    (d, { x with wroteB := x.wroteB ++ [o] })

/-- What follows a final value of shard `i` at position `q` (R221, R279). -/
def spreadFinal (g : Group) (s : CSt) (q i hop off n : Nat) (data : List Byte) : CSt :=
  let x := s.2
  if x.op = 0 then
    let owner := g.at i
    let b := g.buddy owner
    let s := if owner = g.own then writeD g s off n data else if g.mine owner then writeB g s off n data else s
    let s := if x.mcast && b == some g.own then writeB g s off n data else s
    let s := if g.mine owner then s else place g s (x.seg g q i off n hop true data)
    match b with
    | some r => if x.mcast && !g.lost owner && r != g.own then place g s { (x.seg g q (g.pos r) off n hop true data) with buddy := true } else s
    | none => s
  else
    let s := writeD g s off n data
    if g.topo = 3 then ((List.range g.n).filter (· != q)).foldl (fun s k => place g s (x.seg g q k off n hop true data)) s
    else if g.topo = 2 then (g.children q).foldl (fun s k => place g s (x.seg g q k off n hop true data)) s
    else if g.n ≤ 1 then s
    else place g s (x.seg g q (g.step (g.fwd (x.shard g) off) q) off n hop true data)

/-- Counts conversion events against D's layer (R219, R51). -/
def noteEv (s : CSt) (e : Ev) : CSt := (s.1.count s.2.part s.2.d.layer.toNat e, s.2)

/-- Forms a final value: its square for the noise entry, one conversion, then its way (R219, R221, R240). -/
def formFinal (g : Group) (s : CSt) (q i hop off : Nat) (vals : List F32) : CSt :=
  let r := s.2.conv hop off vals
  spreadFinal g (noteEv (s.1.noiseAdd s.2 vals, s.2) r.2) q i hop off vals.length r.1

/-- Converts a partial and queues it for a position. -/
def passOn (g : Group) (s : CSt) (q tgt hop off : Nat) (vals : List F32) : CSt :=
  let r := s.2.conv hop off vals
  place g (noteEv s r.2) (s.2.seg g q tgt off vals.length hop false r.1)

/-- Insertion by ring position. -/
def insContrib (c : Contrib) : List Contrib → List Contrib
  | [] => [c]
  | h :: t => if c.pos < h.pos then c :: h :: t else h :: insContrib c t

/-- A tree or direct node adds once all its contributions are there: own first, then children by ring position or direct senders by
arrival (R219). -/
def gatherParts (g : Group) (s : CSt) (q off n : Nat) : CSt :=
  let x := s.2
  let i := off / Nat.max 1 (x.shard g)
  let kids := g.children q
  let ps := x.parts.filter (fun c => c.off == off && (g.topo == 3 || kids.contains c.pos))
  let need := if g.topo = 3 then g.n - 1 else kids.length
  if ps.length < need then s
  else
    let ps := if g.topo = 3 then ps else ps.foldl (fun l c => insContrib c l) []
    let vals := ps.foldl (fun v c => v.zipWith f32Add c.vals) (s.1.contribution g x q off n)
    let hop := ps.foldl (fun h c => h + c.hop + 1) 0
    let s := (s.1, { x with parts := x.parts.filter (fun c => !ps.contains c) })
    if g.topo = 3 then formFinal g s q i hop off vals
    else match g.parent q with
      | none => formFinal g s q i hop off vals
      | some k => passOn g s q k hop off vals

/-- A partial arrives at a position (R219, R221). -/
def recvPartial (g : Group) (s : CSt) (q : Nat) (m : OutSeg) : CSt :=
  let x := s.2
  let vals := payloadVals x.fmt m.elems m.data
  if g.topo = 2 ∨ g.topo = 3 then
    gatherParts g (s.1, { x with parts := x.parts ++ [⟨m.off, g.pos m.src, m.hop, vals⟩] }) q m.off m.elems
  else
    let i := m.off / Nat.max 1 (x.shard g)
    let sum := vals.zipWith f32Add (s.1.contribution g x q m.off m.elems)
    let nxt := g.step (g.fwd (x.shard g) m.off) q
    if (if x.mcast then nxt = i else q = i) then formFinal g s q i (m.hop + 1) m.off sum else passOn g s q nxt (m.hop + 1) m.off sum

/-- A final value arrives at a position (R221). -/
def recvFinal (g : Group) (s : CSt) (q : Nat) (m : OutSeg) : CSt :=
  let x := s.2
  if x.op = 0 then
    if m.buddy || g.lost (g.at q) then writeB g s m.off m.elems m.data else writeD g s m.off m.elems m.data
  else
    let s := writeD g s m.off m.elems m.data
    if g.topo = 3 then s
    else if g.topo = 2 then (g.children q).foldl (fun s k => place g s (x.seg g q k m.off m.elems m.hop true m.data)) s
    else
      let nxt := g.step (g.fwd (x.shard g) m.off) q
      if nxt = m.off / Nat.max 1 (x.shard g) then s else place g s (x.seg g q nxt m.off m.elems m.hop true m.data)

/-- A gathered segment of shard `i` at a position: D, the retained copy, and the next position (R228). -/
def recvGather (g : Group) (s : CSt) (q : Nat) (m : OutSeg) : CSt :=
  let x := s.2
  let i := m.off / Nat.max 1 (x.shard g)
  let s := writeD g s m.off m.elems m.data
  let s := if x.aux.isSome && g.buddy (g.at i) == some g.own && !g.lost (g.at i) then writeB g s m.off m.elems m.data else s
  if g.topo = 3 then s
  else
    let nxt := g.step (g.fwd (x.shard g) m.off) q
    if nxt = i then s else place g s (x.seg g q nxt m.off m.elems 0 false m.data)

/-- A broadcast segment at a position: D, then the other neighbours (log entry 36). -/
def recvCast (g : Group) (s : CSt) (q root : Nat) (frm : Option Nat) (m : OutSeg) : CSt :=
  let x := s.2
  let s := if q = root then s else writeD g s m.off m.elems m.data
  let out :=
    if g.topo = 3 then (if q = root then (List.range g.n).filter (· != q) else [])
    else if g.topo = 2 then (g.near q).filter (fun k => some k != frm)
    else (let nxt := g.step true q; if nxt = root then [] else [nxt])
  out.foldl (fun s k => place g s (x.seg g q k m.off m.elems 0 false m.data)) s

/-! ## All-to-all (R235; log entry 37 for what the segments carry) -/

/-- A segment of an all-to-all from this module. OFFSET is an element index in the tensor of N send buffers in rank order; that of a count, which
FINAL marks, is where the run it counts begins. -/
def CollOp.a2a (x : CollOp) (g : Group) (q origin dest off n : Nat) (count : Bool) (data : List Byte) : OutSeg :=
  { (x.seg g q (if g.topo = 3 then g.pos dest else g.step true q) (origin * x.s1.count + off) n 0 count data) with
    dest := dest, fmt := if count then 0xD else x.fmt, kind := if count then 0 else x.kind }

/-- A segment of an all-to-all on its way along the ring: its header but for the sender stays as it is. -/
def CollOp.a2aRelay (x : CollOp) (g : Group) (m : OutSeg) : OutSeg :=
  { (x.seg g (g.pos g.own) (g.step true (g.pos g.own)) m.off m.elems 0 m.final m.data) with dest := m.dest, fmt := m.fmt, kind := m.kind }

/-- The rank a segment of an all-to-all comes from: its sender, or on a ring, where others pass it on, the send buffer that its OFFSET lies in. -/
def CollOp.a2aFrom (x : CollOp) (g : Group) (m : OutSeg) : Nat := if g.topo = 3 then m.src else m.off / Nat.max 1 x.s1.count

/-- The element of a rank's run that a segment begins with. -/
def CollOp.a2aAt (x : CollOp) (g : Group) (m : OutSeg) : Nat := m.off - (Tab.find x.bases (x.a2aFrom g m)).getD 0

/-- Sum of a count function below `r`. -/
def sumBelow (f : Nat → Nat) : Nat → Nat
  | 0 => 0
  | r + 1 => sumBelow f r + f r

/-- Where the run for a rank begins in the send buffer; 0 for an empty run. -/
def Dev.sendBase (d : Dev) (x : CollOp) (r : Nat) : Nat := if d.sendCount x r = 0 then 0 else sumBelow (d.sendCount x) r

def CollOp.recvCount (x : CollOp) (r : Nat) : Nat := (Tab.find x.counts r).getD 0
def CollOp.countsKnown (x : CollOp) (g : Group) : Bool := (List.range g.n).all (fun r => (Tab.find x.counts r).isSome)

/-- Whether counts run past a buffer; the operation then stops with BAD_DESCRIPTOR (log entry 37). -/
def Dev.countsBad (d : Dev) (g : Group) (x : CollOp) : Bool :=
  decide (x.s1.count < sumBelow (d.sendCount x) g.n) || (x.countsKnown g && decide (x.d.count < sumBelow x.recvCount g.n))

/-- Data of a rank land in D in rank order. -/
def land2 (s : CSt) (origin off n : Nat) (l : List Byte) : CSt :=
  let x := s.2
  (s.1.writePayload x.d (sumBelow x.recvCount origin + off) n l, { x with wroteD := x.wroteD ++ List.replicate n 0 })

/-- Once every count is known: the counts are written, this module's data are sent, data that came early land. -/
def countsDone (g : Group) (s : CSt) : CSt :=
  let x := s.2
  if !x.countsKnown g || s.1.countsBad g x then s
  else
    let q := g.pos g.own
    let d := match x.aux with
      | some a => s.1.each (List.range g.n) (fun d r => d.wrCode a (ixOf a.dims r) (x.recvCount r))
      | none => s.1
    let s := x.late.foldl (fun s m => land2 s (x.a2aFrom g m) (x.a2aAt g m) m.elems m.data) (d, { x with late := [] })
    (List.range g.n).foldl (fun s r =>
      let base := d.sendBase x r
      (cuts 0 (d.sendCount x r) (segLen g x.fmt)).foldl (fun s c =>
        let data := s.1.readPayload x.s1 (base + c.1) c.2
        if r = g.own then land2 s r c.1 c.2 data
        else place g s (x.a2a g q g.own r (base + c.1) c.2 false data)) s) s

/-- An all-to-all segment at this module: for itself, or on its way along the ring, whose counts it notes. -/
def recvA2a (g : Group) (s : CSt) (m : OutSeg) : CSt :=
  let x := s.2
  let r := x.a2aFrom g m
  if m.dest ≠ g.own then
    let x := if m.final then { x with relayed := Tab.put x.relayed (pairKey g r m.dest) (leNat (m.data.take 4)) } else x
    place g (s.1, x) (x.a2aRelay g m)
  else if m.final then
    countsDone g (s.1, { x with counts := Tab.put x.counts r (leNat (m.data.take 4)), bases := Tab.put x.bases r m.off })
  else if x.countsKnown g then land2 s r (x.a2aAt g m) m.elems m.data
  else (s.1, { x with late := x.late ++ [m] })

/-! ## Byte streams: CRSH (R236, R238) and casts (R272, R275) -/

/-- A byte of a stream received from a rank. -/
def rxByte (rx : List (Nat × Nat × List Byte)) (src o : Nat) : Option Byte :=
  match rx.find? (fun e => e.1 == src && decide (e.2.1 ≤ o) && decide (o < e.2.1 + e.2.2.length)) with
  | some e => e.2.2[o - e.2.1]?
  | none => none

/-- Bytes `a` to `a + n − 1` of a stream once all have landed. -/
def rxRun (rx : List (Nat × Nat × List Byte)) (src a n : Nat) : Option (List Byte) :=
  (List.range n).mapM (fun j => rxByte rx src (a + j))

/-- An entry of a permutation table (R236). -/
structure PermE where
  src : Nat
  dst : Nat
  what : Nat
  so : Nat
  dof : Nat
  cnt : Nat
  clean : Bool
deriving DecidableEq, Repr

def permOf (l : List Byte) : List PermE :=
  (List.range (leNat (sliceB l 0 8))).map (fun k =>
    let f := fun o n => leNat (sliceB l (8 + 32 * k + o) n)
    ⟨f 0 2, f 2 2, f 4 1, f 8 8, f 0x10 8, f 0x18 8, f 5 3 == 0⟩)

/-- Map `k` of five (R236). -/
def fiveMap (m : List Byte) (k : Nat) : PMap := pmapOf (sliceB m (64 * k) 64)
def fiveRows (m : List Byte) : RowMap := rowMapOf (sliceB m 256 64)

/-- Byte ranges of the blocks, slots and rows that five maps place (R236). -/
def fiveExts (m : List Byte) : List Extent :=
  let rows := fiveRows m
  ((List.range 4).flatMap (fun k => (fiveMap m k).exts)) ++ rows.base.map (fun b => ⟨b, b + rows.rows * rows.recSize⟩)

/-- Bytes of one block with its slot, or of one row record. -/
def unitLen (m : List Byte) (what : Nat) : Nat :=
  if what = 2 then (fiveRows m).recSize else (fiveMap m (2 * what)).unit + (fiveMap m (2 * what + 1)).unit

/-- Address of block or record `k`, and of its slot. -/
def unitAt (m : List Byte) (what k : Nat) : Option (Nat × Nat) :=
  if what = 2 then (if k < 4 * (fiveRows m).rows then some ((fiveRows m).recAt k, 0) else none)
  else match (fiveMap m (2 * what)).loc k, (fiveMap m (2 * what + 1)).loc k with
    | some a, some b => some (a.2, b.2)
    | _, _ => none

/-- The bytes a block or record is sent as (R238). -/
def Dev.unitBytes (d : Dev) (m : List Byte) (what k : Nat) : List Byte :=
  match unitAt m what k with
  | none => []
  | some (a, b) => if what = 2 then d.rd a (unitLen m 2) else d.rd a (fiveMap m (2 * what)).unit ++ d.rd b (fiveMap m (2 * what + 1)).unit

/-- Writes a block with its slot, or a record, at its new position: BLOCK the new index, CASTCOPY from WHAT (R238). -/
def Dev.unitWrite (d : Dev) (m : List Byte) (what k : Nat) (l : List Byte) : Dev :=
  match unitAt m what k with
  | none => d
  | some (a, b) =>
    if what = 2 then d.wr a l
    else
      let n := (fiveMap m (2 * what)).unit
      let h := l.take 64
      (d.wr a (hIdent h k (hLayer h) (what == 1) (hRem h) (hMfmt h) ++ (l.take n).drop 64)).wr b (l.drop n)

/-- The units this module receives from a rank in stream order: stream offset, WHAT, new position. -/
def unitsFrom (x : CollOp) (own src : Nat) : List (Nat × Nat × Nat) :=
  ((permOf x.table).filter (fun e => e.src == src && e.dst == own)).foldl (fun (z : List (Nat × Nat × Nat) × Nat) e =>
    let n := unitLen x.dmap e.what
    (z.1 ++ (List.range e.cnt).map (fun k => (z.2 + k * n, e.what, e.dof + k)), z.2 + e.cnt * n)) ([], 0) |>.1

/-- Writes every unit of a CRSH that has wholly landed (R238). -/
def crshLand (g : Group) (s : CSt) (src : Nat) : CSt :=
  (unitsFrom s.2 g.own src).foldl (fun s u =>
    if s.2.rxDone.contains (src, u.1) then s
    else match rxRun s.2.rx src u.1 (unitLen s.2.dmap u.2.1) with
      | some l => (s.1.unitWrite s.2.dmap u.2.1 u.2.2 l, { s.2 with rxDone := s.2.rxDone ++ [(src, u.1)] })
      | none => s) s

/-- The stream a CRSH sends to a rank. -/
def Dev.crshStream (d : Dev) (x : CollOp) (own dst : Nat) : List Byte :=
  ((permOf x.table).filter (fun e => e.src == own && e.dst == dst)).flatMap (fun e =>
    (List.range e.cnt).flatMap (fun k => d.unitBytes x.smap e.what (e.so + k)))

/-- CRSH begins: entries within the module move, the others are sent as byte streams (R236, R238). -/
def beginCrsh (g : Group) (s : CSt) : CSt :=
  let x := s.2
  let own := g.own
  let d := s.1
  let moves := ((permOf x.table).filter (fun e => e.src == own && e.dst == own)).flatMap (fun e =>
    (List.range e.cnt).map (fun k => (e.what, e.dof + k, d.unitBytes x.smap e.what (e.so + k))))
  let d' := d.each moves (fun d m => d.unitWrite x.dmap m.1 m.2.1 m.2.2)
  let outs := ((List.range g.n).filter (· != own)).flatMap (fun r =>
    let l := d.crshStream x own r
    (cuts 0 l.length 8448).map (fun c =>
      { (x.seg g (g.pos own) (g.pos r) c.1 c.2 0 false (sliceB l c.1 c.2)) with fmt := 0, kind := 0 }))
  (outs.mapIdx (fun k o => { o with last := k + 1 == outs.length })).foldl (fun s o => place g s o) (d', x)

/-! ## Casts received (R275) -/

/-- The placement map and patina address of a layer at the buddy. -/
def Dev.castRxMap (d : Dev) (p : PartId) (layer : Nat) : PMap := pmapOf (d.rd (d.fld (R.castCtrl p) 27 0 * 2 ^ 20 + 64 * layer) 64)
def Dev.castRxPatina (d : Dev) (p : PartId) (layer : Nat) : Nat := d.fld (R.castCtrl p) 27 0 * 2 ^ 20 + 0x10000 + 256 * layer

/-- Whether a stream header is refused: ORIGIN, MFMT or size (R275). -/
def Dev.castRefused (d : Dev) (g : Group) (x : CollOp) (h : List Byte) : Bool :=
  let m := d.castRxMap x.part x.d.layer.toNat
  let origin := leNat (sliceB h 8 2)
  g.buddy origin != some g.own || m.kind != 8 || leNat (sliceB h 0x10 1) != m.mfmt || decide (m.total / 4096 < leNat (sliceB h 0xC 4))

/-- Writes one landed block of a cast, or counts its skip (R275). -/
def Dev.castWrite (d : Dev) (x : CollOp) (k : Nat) (step : Nat) (l : List Byte) : Dev :=
  let m := d.castRxMap x.part x.d.layer.toNat
  if hMseq l = 2 ^ 64 - 1 ∧ hWseq l = 2 ^ 64 - 1 then d.bump (R.castStatus x.part) 31 16 1
  else match m.loc k with
    | none => d
    | some (_, a) =>
      let h := hSet (hPutRem (hIdent (l.take 64) k (hLayer l) true false (hMfmt l)) false 0) 0x18 8 step
      (d.wr a (h ++ l.drop 64)).bump (R.castStatus x.part) 63 32 1

/-- Writes what has landed of a cast stream: the patina record and whole blocks; whether the stream is refused. -/
def castLand (g : Group) (s : CSt) (src : Nat) : CSt × Bool :=
  match rxRun s.2.rx src 0 64 with
  | none => (s, false)
  | some h =>
    if s.1.castRefused g s.2 h then (s, true)
    else
      let size := sbSize (leNat (sliceB h 0x10 1))
      let s := if s.2.rxDone.contains (src, 64) then s
        else match rxRun s.2.rx src 64 256 with
          | some l => (s.1.wr (s.1.castRxPatina s.2.part s.2.d.layer.toNat) l, { s.2 with rxDone := s.2.rxDone ++ [(src, 64)] })
          | none => s
      ((List.range (leNat (sliceB h 0xC 4))).foldl (fun s k =>
        let a := 320 + k * size
        if s.2.rxDone.contains (src, a) then s
        else match rxRun s.2.rx src a size with
          | some l => (s.1.castWrite s.2 k (leNat (sliceB h 0 8)) l, { s.2 with rxDone := s.2.rxDone ++ [(src, a)] })
          | none => s) s, false)

/-! ## Own contributions -/

/-- The segments this module starts with at a position. -/
def beginReduce (g : Group) (s : CSt) (q : Nat) : CSt :=
  let e := s.2.shard g
  let f := s.2.fmt
  if g.topo = 2 then
    (if (g.children q).isEmpty then (g.allCuts e f).foldl (fun s c => gatherParts g s q c.1 c.2) s else s)
  else if g.topo = 3 then
    let s := ((List.range g.n).filter (· != q)).foldl (fun s i =>
      (g.shardCuts e f i).foldl (fun s c => passOn g s q i 0 c.1 (s.1.contribution g s.2 q c.1 c.2)) s) s
    if g.n ≤ 1 then (g.shardCuts e f q).foldl (fun s c => gatherParts g s q c.1 c.2) s else s
  else
    [true, false].foldl (fun s fwd =>
      let i := if s.2.mcast then q else g.step (!fwd) q
      ((g.shardCuts e f i).filter (fun c => g.fwd e c.1 == fwd)).foldl (fun s c =>
        let v := s.1.contribution g s.2 q c.1 c.2
        if g.n ≤ 1 then formFinal g s q i 0 c.1 v else passOn g s q (g.step fwd q) 0 c.1 v) s) s

/-- A gather sends the shard of a position from its source (R228, R279). -/
def beginGather (g : Group) (s : CSt) (q : Nat) : CSt :=
  let x := s.2
  let e := x.shard g
  let src := if g.at q = g.own then some x.s1 else x.aux
  match src with
  | none => s
  | some y =>
    (g.shardCuts e x.fmt q).foldl (fun s c =>
      let data := s.1.readPayload y (c.1 - q * e) c.2
      let s := writeD g s c.1 c.2 data
      if g.topo = 3 then ((List.range g.n).filter (· != q)).foldl (fun s k => place g s (x.seg g q k c.1 c.2 0 false data)) s
      else if g.n ≤ 1 then s
      else place g s (x.seg g q (g.step (g.fwd e c.1) q) c.1 c.2 0 false data)) s

/-- An operation begins to send what it holds. -/
def beginOp (g : Group) (s : CSt) : CSt :=
  let x := s.2
  match x.op with
  | 0 | 2 => g.places.foldl (fun s q => beginReduce g s q) s
  | 1 => g.places.foldl (fun s q => beginGather g s q) s
  | 3 =>
    let own := g.own
    let s := ((List.range g.n).filter (· != own)).foldl (fun s r =>
      place g s (x.a2a g (g.pos own) own r (s.1.sendBase x r) 1 true (leBytes 4 (s.1.sendCount x r)))) s
    countsDone g (s.1, { s.2 with counts := Tab.put s.2.counts own (s.1.sendCount x own) })
  | 4 =>
    let root := g.pos (x.param.toNat % 2 ^ 16)
    if g.at root = g.own then
      (cuts 0 x.s1.count (segLen g x.fmt)).foldl (fun s c =>
        recvCast g s root root none (x.seg g root root c.1 c.2 0 false (s.1.readPayload x.s1 c.1 c.2))) s
    else s
  | 5 => beginCrsh g s
  | _ => s

/-- An accepted segment at this module. -/
def recvSeg (g : Group) (s : CSt) (m : OutSeg) : CSt × Bool :=
  let q := g.pos m.dest
  if m.cast then castLand g (s.1, { s.2 with rx := s.2.rx ++ [(m.src, m.off, m.data)] }) m.src
  else match s.2.op with
    | 0 | 2 => (if m.final then recvFinal g s q m else recvPartial g s q m, false)
    | 1 => (recvGather g s q m, false)
    | 3 =>
      let s := recvA2a g s m
      (s, s.1.countsBad g s.2)
    | 4 => (recvCast g s q (g.pos (s.2.param.toNat % 2 ^ 16)) (some (g.pos m.src)) m, false)
    | 5 => (crshLand g (s.1, { s.2 with rx := s.2.rx ++ [(m.src, m.off, m.data)] }) m.src, false)
    | _ => (s, false)

/-- Hops between two positions of this module do not leave it (R279). -/
def localHops (g : Group) (s : CSt) : Nat → CSt
  | 0 => s
  | k + 1 =>
    match s.2.outq.find? (fun o => g.mine o.tgt && !o.cast) with
    | none => s
    | some o => localHops g (recvSeg g (s.1, { s.2 with outq := s.2.outq.erase o }) o).1 k

/-- Rounds that the hops inside the module can take. -/
def hopFuel (g : Group) (x : CollOp) : Nat := (x.outq.length + 1) * (g.places.length + 1)

end Sys2Proof.Machine
end

