-- ==== Sys2Proof/Machine/Ckv.lean ====
section
/-! DEFINITION. The key-value ring CKV (R249 to R258): its map, its rotations and its slots. -/
namespace Sys2Proof.Machine

/-- A ring map (R249). -/
structure RingMap where
  slot : List Nat
  bytes : Nat
  release : Nat
  mode : Nat
  slots : Nat
  clean : Bool
deriving DecidableEq, Repr

def ringMapOf (m : List Byte) : RingMap :=
  let f := fun o n => leNat (sliceB m o n)
  { slot := (List.range 4).map (fun k => f (8 * k) 8), bytes := f 0x20 8, release := f 0x28 2, mode := f 0x2A 1, slots := f 0x2B 1,
    clean := (sliceB m 0x2C 20).all (· == 0) }

def CollOp.ring (x : CollOp) : RingMap := ringMapOf x.dmap

/-- The field rules of a ring map (R249). -/
def RingMap.ok (m : RingMap) : Bool :=
  m.clean && decide (m.mode ≤ 1) && decide (2 ≤ m.slots) && decide (m.slots ≤ 4) && decide (m.release < 512) && m.bytes % 64 == 0
  && decide (128 ≤ m.bytes) && decide (m.bytes ≤ 2 ^ 40)
  && (List.range 4).all (fun k => let a := m.slot.getD k 0
    if k < m.slots then a % 64 == 0 && decide (a < 2 ^ 48) else a == 0)

/-- Rotations that land here, and rotations sent to the successor (R251). -/
def CollOp.rotIn (x : CollOp) (g : Group) : Nat := if g.n ≤ 1 then 0 else if x.ring.mode = 0 then g.n - 1 else g.n
def CollOp.rotOut (x : CollOp) (g : Group) : Nat := if g.n ≤ 1 then 0 else if x.ring.mode = 0 then g.n - 1 else g.n

/-- Address of rotation `r`'s stream (R251). -/
def CollOp.rotAt (x : CollOp) (r : Nat) : Nat := if r = 0 then x.s1.low else x.ring.slot.getD ((r - 1) % Nat.max 1 x.ring.slots) 0

/-- Segments of one rotation (R256). -/
def CollOp.perRot (x : CollOp) : Nat := ceilDiv x.ring.bytes 8448

/-- Whether the RELEASE counter has reached RBASE + k (R251, R252, R129). -/
def Dev.released (d : Dev) (x : CollOp) (k : Nat) : Bool := waitMet (d.ctr x.part x.ring.release) (x.param + BitVec.ofNat 32 k)

/-- RELEASE minus RBASE, clamped (R263). -/
def Dev.releasedCount (d : Dev) (x : CollOp) : Nat :=
  let v := d.ctr x.part x.ring.release - x.param
  if 2 ^ 31 ≤ v.toNat then 0 else min v.toNat 0x1FFFF

/-- Segments of rotation `r` whose acknowledgement is outstanding. -/
def CollOp.rotOpen (x : CollOp) (r : Nat) : Nat := (Tab.find x.rotUnacked r).getD 0

/-- Whether rotation `r` lands here at all (R251). -/
def CollOp.rotLands (x : CollOp) (g : Group) (r : Nat) : Bool := decide (1 ≤ r) && decide (r ≤ x.rotIn g)

/-- Whether the slot of rotation `r` is free (R252): for its first occupant, or released, with its last occupant sent on. -/
def Dev.slotFree (d : Dev) (g : Group) (x : CollOp) (r : Nat) : Bool :=
  decide (r ≤ x.ring.slots)
  || (d.released x (r - x.ring.slots + 1) && x.rotOpen (r - x.ring.slots) == 0
    && (x.ring.mode == 0 || decide (r - x.ring.slots < x.rotSent) || decide (x.rotOut g ≤ r - x.ring.slots))
    && !x.outq.any (fun o => o.off / Nat.max 1 x.ring.bytes == r - x.ring.slots + 1))

/-- A segment of rotation `r` for the successor: its OFFSET is that of rotation `r` + 1 there (R256). -/
def kvSeg (g : Group) (x : CollOp) (r o n : Nat) (data : List Byte) : OutSeg :=
  let q := g.pos g.own
  let nxt := g.at (g.step true q)
  { tgt := nxt, src := g.own, dest := nxt, hop := 0, final := false, buddy := false, cast := false,
    last := r + 1 == x.rotOut g && o + n == x.ring.bytes, off := (r + 1) * x.ring.bytes + o, elems := n, fmt := 0, kind := 0, data := data }

/-- Queues a segment of rotation `r`. -/
def kvPlace (g : Group) (s : CSt) (r o n : Nat) : CSt :=
  let x := s.2
  (s.1, { x with outq := x.outq ++ [kvSeg g x r o n (s.1.rd (x.rotAt r + o) n)],
                 rotUnacked := Tab.put x.rotUnacked r (x.rotOpen r + 1) })

/-- Sends a whole rotation from where it lies. -/
def kvSendRot (g : Group) (s : CSt) (r : Nat) : CSt :=
  let s := (cuts 0 s.2.ring.bytes 8448).foldl (fun s c => kvPlace g s r c.1 c.2) s
  (s.1, { s.2 with rotSent := r + 1 })

/-- A CKV begins: forward mode sends rotation 0 (R251). -/
def beginKv (g : Group) (s : CSt) : CSt := if g.n ≤ 1 ∨ s.2.ring.mode = 1 then s else kvSendRot g s 0

/-- Bytes landed of a rotation. -/
def CollOp.rotLanded (x : CollOp) (r : Nat) : Nat := (Tab.find x.landed r).getD 0

/-- Whether the header of rotation `r` is that of the member it comes from (R255). -/
def Dev.kvHdrOk (d : Dev) (g : Group) (x : CollOp) (r : Nat) : Bool :=
  let h := d.rd (x.rotAt r) 64
  let q := g.pos g.own
  leNat (sliceB h 8 2) == g.at ((q + r * (g.n - 1)) % Nat.max 1 g.n) && leNat (sliceB h 0 8) == x.step.toNat

/-- A segment of a rotation lands; the flag says that its header check failed, with no more than the header written (R251, R255, R257).
Forward mode forwards what has landed of a checked rotation; the header lies in the rotation's first segment. -/
def kvLand (g : Group) (s : CSt) (m : OutSeg) : CSt × Bool :=
  let x := s.2
  let b := Nat.max 1 x.ring.bytes
  let r := m.off / b
  let o := m.off % b
  let x := { x with rx := if x.ring.mode = 0 && r < x.rotOut g then x.rx ++ [(r, o, [])] else x.rx,
                    landed := Tab.put x.landed r (x.rotLanded r + m.elems) }
  let head := s.1.wr (x.rotAt r) (sliceB m.data 0 (min 64 m.elems))
  let d := s.1.wr (x.rotAt r + o) (sliceB m.data 0 m.elems)
  let first := o == 0 || x.rxDone.contains (r, 0)
  if o = 0 && !head.kvHdrOk g x r then ((head, s.2), true)
  else
    let x := if o = 0 then { x with rxDone := x.rxDone ++ [(r, 0)] } else x
    let s : CSt :=
      if first then
        let ready := x.rx.filter (fun e => e.1 == r)
        ready.foldl (fun s e => kvPlace g s r e.2.1 (min 8448 (b - e.2.1))) (d, { x with rx := x.rx.filter (fun e => e.1 != r) })
      else (d, x)
    (if b ≤ s.2.rotLanded r then (s.1.addCtr x.part x.ctr.toNat 1, s.2) else s, false)

/-- Whether the instance waits for its own partition's RELEASE counter (R258): backward mode has a landed rotation to send that is not
released, or every rotation whose window is open has landed and the next one's slot is not released. -/
def Dev.kvOwnWait (d : Dev) (g : Group) (x : CollOp) : Bool :=
  let landed := fun r => decide (x.ring.bytes ≤ x.rotLanded r)
  x.outq.isEmpty && x.unacked == 0
  && ((x.ring.mode == 1 && decide (x.rotSent < x.rotOut g) && !d.released x (x.rotSent + 1) && (x.rotSent == 0 || landed x.rotSent))
    || (decide (x.rotFree < x.rotIn g) && !d.released x (x.rotFree + 1 - x.ring.slots + 1)
      && (List.range x.rotFree).all (fun r => landed (r + 1))))

/-- Whether every rotation has landed and left (R257). -/
def CollOp.kvDone (x : CollOp) (g : Group) : Bool :=
  (List.range (x.rotIn g)).all (fun r => decide (x.ring.bytes ≤ x.rotLanded (r + 1)))
  && x.outq.isEmpty && x.unacked == 0 && (x.ring.mode == 0 || x.rotSent == x.rotOut g)

/-- SENT of R263: rotations whose every segment is acknowledged. -/
def CollOp.kvSent (x : CollOp) (g : Group) : Nat :=
  (List.range (x.rotOut g)).countP (fun r => x.rotOpen r == 0 && (if x.ring.mode = 0 then
    (if r = 0 then decide (x.rotSent ≥ 1) else decide (x.ring.bytes ≤ x.rotLanded r)) else decide (r < x.rotSent)))

end Sys2Proof.Machine
end

