-- ==== Sys2Proof/Machine/CollExec.lean ====
section
/-! DEFINITION. The collective engine's commands: issue and refusal (R214, R215, R222, R236, R250), start (R213, R216, R237),
segments (R226, R227), gathers' sources (R228), completion (R217, R257) and the watchdog (R218). -/
namespace Sys2Proof.Machine

/-! ## Sending under credit (R227) -/

/-- Segments that a receiver has advertised (R227). What this module has from and for a LOST rank counts with its adopter's, whose flow carries it
(R279). -/
def CollOp.creditOf (x : CollOp) (r : Nat) : Nat := (Tab.find x.credit r).getD 0
def CollOp.sentTo (x : CollOp) (r : Nat) : Nat := (Tab.find x.sent r).getD 0

/-- Whether a segment may leave for a rank: within the window it has advertised, or as the request that opens the flow, over which alone it can
advertise one (R227, R324; DEDUCED, log entry 38). -/
def Dev.mayLeave (d : Dev) (g : Group) (x : CollOp) (r : Nat) : Bool :=
  decide (x.sentTo r < x.creditOf r) || !d.rankOpen x.part g (g.rank r)

/-- The first segment that may leave: its rank has credit and no earlier segment for that rank waits. -/
def Dev.nextOut (d : Dev) (g : Group) (x : CollOp) : List OutSeg → List Nat → Option OutSeg
  | [], _ => none
  | o :: t, blocked =>
    let r := g.host o.tgt
    if !blocked.contains r && d.mayLeave g x r then some o else d.nextOut g x t (r :: blocked)

/-- The patina record of a layer as a cast sends it (R273): program area, watch entry, noise entry, counters. -/
def Dev.patina (d : Dev) (p : PartId) (layer : Nat) : List Byte :=
  let a := d.rd (d.fld (R.castCtrl p) 55 28 * 2 ^ 20 + 256 * layer) 256
  let w := match d.watchAt p layer with
    | some a => d.rd a 32
    | none => List.replicate 32 0
  let b := d.fld (R.collNoise p) 47 15 * 2 ^ 15
  let n := if b = 0 then List.replicate 32 0 else d.rd (b + 32 * layer) 32
  let c := fun k hi lo => leBytes 4 (d.fld (R.numCnt p layer k) hi lo)
  patchB a 0x90 (w ++ n ++ c 0 63 32 ++ c 0 31 0 ++ c 1 63 32 ++ c 1 31 0 ++ c 2 63 32)

/-- The head of a cast stream (R272, R273). -/
def Dev.castHead (d : Dev) (g : Group) (x : CollOp) (c : CastSt) : List Byte :=
  leBytes 8 x.step.toNat ++ leBytes 2 g.own ++ leBytes 2 x.d.layer.toNat ++ leBytes 4 c.blocks.length ++ leBytes 1 c.mfmt
    ++ List.replicate 47 0 ++ d.patina x.part x.d.layer.toNat

/-- Bytes `o` to `o + n − 1` of a cast stream: its head and its blocks are read when they are first needed (R274). -/
def Dev.castRun (d : Dev) (g : Group) (x : CollOp) (o n : Nat) : List Byte × Dev :=
  match (d.part x.part).castOf x.n with
  | none => (List.replicate n 0, d)
  | some c =>
    let c := if c.head.isEmpty then { c with head := d.castHead g x c } else c
    let d := d.modPart x.part (fun p => p.putCast c)
    let size := sbSize c.mfmt
    let js := (List.range c.blocks.length).filter (fun j => decide (320 + j * size < o + n) && decide (o < 320 + (j + 1) * size))
    let d := d.each js (fun d j => match (d.part x.part).castOf x.n with
      | some c => if (Tab.find c.read j).isNone then d.castTake x.part c j false else d
      | none => d)
    match (d.part x.part).castOf x.n with
    | none => (List.replicate n 0, d)
    | some c =>
      let byte := fun k => if k < 320 then c.head.getD k 0 else ((Tab.find c.read ((k - 320) / size)).getD []).getD ((k - 320) % size) 0
      let gone := fun j => decide (320 + (j + 1) * size ≤ o + n)
      ((List.range n).map (fun j => byte (o + j)), d.modPart x.part (fun p => p.putCast { c with hold := c.hold.filter (fun j => !gone j) }))

/-- Whether a block that a cast still reads needs a channel that takes no request (R165). -/
def Dev.castBusy (d : Dev) (x : CollOp) : Bool :=
  match (d.part x.part).castOf x.n with
  | some c => c.blocks.any (fun a => d.chanBusy a (a + sbSize c.mfmt))
  | none => false

/-- Whether a frame with a segment would pass MAX_FRAME of the group's interface (R300). -/
def Dev.segTooLong (d : Dev) (g : Group) (o : OutSeg) : Bool :=
  match d.tenantLif g.tenant g.lif with
  | some k => decide (d.lifMax k < d.frameLen k (g.rank o.tgt).ip (64 + (if o.cast then o.elems else o.data.length)))
  | none => false

/-- Sends one segment (R224, R256); `none` where no flow can be had, or the segment cannot leave now. -/
def Dev.sendSeg (d : Dev) (g : Group) (x : CollOp) (o : OutSeg) : Option CSt :=
  match if d.segTooLong g o || (o.cast && d.castBusy x) then none else d.rankFlow x.part g (g.rank o.tgt) with
  | none => none
  | some (n, d) =>
    let t := g.host o.tgt
    let r := if o.cast then d.castRun g x o.off o.elems else (o.data, d)
    let lay := if x.op = 5 then x.param else x.layEp
    let d := r.2.sendEp n (if x.op = 6 then 0x0A else 0x09) 0 0 x.armEp lay
      (segHdr x.grp x.op x.num.toNat o x.step x.d.tensorId.toNat ++ r.1) (.collSeg x.n)
    some (d, { x with outq := x.outq.erase o, sent := Tab.put x.sent t (x.sentTo t + 1), unacked := x.unacked + 1 })

/-- Sends the next segment of an operation that its windows allow; `none` where there is none, or no flow for it. -/
def Dev.sendNext (d : Dev) (x : CollOp) : Option Dev :=
  match d.collGroup x with
  | none => none
  | some g => match d.nextOut g x x.outq [] with
    | none => none
    | some o => (d.sendSeg g x o).map (fun s => s.1.putColl s.2)

/-- The tenants in turn after the last one served (R383). -/
def tenantsAfter (n : Nat) : List Nat := (List.range 16).map (fun k => (n + 1 + k) % 16)

/-- One segment of the first tenant in turn that has one ready (R383). -/
def Dev.collTurn (d : Dev) : Option Dev :=
  (tenantsAfter d.coll.tenRR).findSome? (fun t =>
    (d.coll.ops.filter (fun x => x.tenant.val == t)).findSome? (fun x =>
      (d.sendNext x).map (fun d => { d with coll := { d.coll with tenRR := t } })))

/-- Sends what the windows allow, a segment of each tenant in turn. -/
def Dev.segPump (d : Dev) : Nat → Dev
  | 0 => d
  | k + 1 => match d.collTurn with
    | none => d
    | some d => d.segPump k

/-- The engine sends what it can. -/
def Dev.collPump (d : Dev) : Dev := d.segPump (d.coll.ops.map (fun x => x.outq.length)).sum

/-- Stores an operation after its work and the hops inside the module. -/
def Dev.collPut (d : Dev) (g : Group) (x : CollOp) : Dev :=
  let s := localHops g (d, x) (hopFuel g x)
  s.1.putColl s.2

/-- The units whose cast hold may have room again go on (R274). -/
def Dev.castUnits (d : Dev) (x : CollOp) : Dev := if ((d.part x.part).castOf x.n).isNone then d else d.unitsGo x.part

/-- Stores an operation after its work; the engine sends what it can, then the units that waited for its cast go on. -/
def Dev.collStore (d : Dev) (g : Group) (x : CollOp) : Dev := ((d.collPut g x).collPump).castUnits x

/-! ## Segment slots (R213, R227, R378, R383) -/

/-- Whether an operation of this module is in progress. -/
def CollOp.running (x : CollOp) : Bool := x.phase != .queued

/-- Segments granted to a rank by an instance, and taken from it. -/
def CollOp.grantedTo (x : CollOp) (r : Nat) : Nat := (Tab.find x.granted r).getD 0
def CollOp.takenFrom (x : CollOp) (r : Nat) : Nat := (Tab.find x.taken r).getD 0

/-- The neighbours of a position that a ring hands segments on to it from: its predecessor, and both sides of a bidirectional one. -/
def Group.before (g : Group) (q : Nat) : List Nat := g.at (g.step false q) :: (if g.topo = 1 then [g.at (g.step true q)] else [])

/-- The ranks whose flows bring an instance its segments (R221, R228, R235, R279): the neighbours of this module's places, where a copy is
sent to this module the neighbours of its wards or the wards themselves, or on direct every other rank. -/
def CollOp.senders (x : CollOp) (g : Group) : List Nat :=
  let l := if g.topo = 3 then List.range g.n
    else if g.topo = 2 then g.places.flatMap (fun q => (g.near q).map g.at)
    else g.places.flatMap g.before ++ (if x.op = 0 && x.mcast then g.wards.flatMap (fun r => g.before (g.pos r)) else [])
      ++ (if x.op = 1 then g.wards else [])
  (List.range g.n).filter (fun r => (l.filter (fun k => !g.mine k)).any (fun k => g.host k == r))

/-- The ranks that an instance in progress has windows for. -/
def Dev.sendersOf (d : Dev) (x : CollOp) : List Nat :=
  match d.collGroup x with
  | some g => if x.running then x.senders g else []
  | none => []

/-- Slots that an instance has granted and not taken back. -/
def Dev.slotsOf (d : Dev) (x : CollOp) : Nat := ((d.sendersOf x).map (fun r => x.grantedTo r - x.takenFrom r)).sum

/-- Held segments of instances that this module has not started take a slot each. -/
def Dev.heldSlots (d : Dev) (l : List HeldSeg) : Nat := l.countP (fun r => !d.coll.ops.any (fun x => x.ownsHeld r))

/-- Free slots for a tenant's windows: of the buffer, and of its SEG_SLOTS. -/
def Dev.slotsFree (d : Dev) (t : TenantId) : Nat :=
  let used := (d.coll.ops.map d.slotsOf).sum + d.heldSlots d.coll.held
  let own := ((d.coll.ops.filter (fun x => x.tenant == t)).map d.slotsOf).sum + d.heldSlots (d.coll.held.filter (fun r => r.tenant == t))
  min (1024 - used) (d.fld (R.tenLim t) 47 38 - own)

/-- The window that a flow of a tenant's instance may have: WINDOW, and no more than an equal share of the tenant's slots among all its
windows (DESIGN CHOICE, log entry 38). -/
def Dev.windowOf (d : Dev) (g : Group) (t : TenantId) : Nat :=
  let n := ((d.coll.ops.filter (fun x => x.tenant == t)).map (fun x => (d.sendersOf x).length)).sum
  min g.window (Nat.max 1 (min 1024 (d.fld (R.tenLim t) 47 38) / Nat.max 1 n))

/-- Segments that an instance may have granted to a rank now: its window beyond what it has taken, of a CKV the rotations whose slots are free,
and no more slots than the buffer and the tenant have free; a grant never shrinks (R227, R252, R383). -/
def Dev.grantNow (d : Dev) (g : Group) (x : CollOp) (r : Nat) : Nat :=
  let old := x.grantedTo r
  let cum := x.takenFrom r + d.windowOf g x.tenant
  let cum := if x.op = 6 then min cum (x.rotFree * x.perRot) else cum
  Nat.max old (min cum (Nat.max old (x.takenFrom r) + d.slotsFree x.tenant))

/-- The rank at the far end of a flow, in a group. -/
def Group.rankAt (g : Group) (ip : Ip) (p : Nat) : Option Nat :=
  (List.range g.n).find? (fun r => (g.rank r).ip == ip && (g.rank r).part.val == p && !g.lost r)
def Group.rankOn (g : Group) (f : Flow) : Option Nat := g.rankAt f.peerIp f.peerPart.toNat

/-- The windows this module advertises on a flow: segments granted by each instance that the flow's peer sends to (R227, R326); noted as granted. -/
def Dev.creditRecs (d : Dev) (f : Flow) : List (Nat × Nat × Nat) × Dev :=
  d.coll.ops.foldl (fun z x =>
    if x.tenant != f.tenant || f.ep != .part x.part then z
    else match z.2.collGroup x with
      | none => z
      | some g =>
        match (g.rankOn f).filter (z.2.sendersOf x).contains with
        | none => z
        | some r =>
          let n := z.2.grantNow g x r
          (z.1 ++ [(x.grp, x.num.toNat, n)], z.2.putColl { x with granted := Tab.put x.granted r n })) ([], d)

/-- An ACK with the windows that a flow's peer has now. -/
def Dev.ackWindows (d : Dev) (n : Nat) (f : Flow) (echo : BitVec 32) (announce : Bool) : Dev :=
  let r := d.creditRecs f
  r.2.sendAck n echo announce r.1

/-- Grants an instance's windows anew to a peer that it has a flow with. -/
def Dev.grantTo (d : Dev) (x : CollOp) (g : Group) (r : Nat) : Dev :=
  match d.flows.find? (fun e => e.2.tenant == x.tenant && e.2.ep == .part x.part && e.2.peerIp == (g.rank r).ip
      && e.2.peerPart.toNat == (g.rank r).part.val && e.2.established) with
  | some e => d.ackWindows e.1 e.2 (e.2.rxNext - 1) false
  | none => d

/-- Grants an instance's windows anew to every peer it has a flow with. -/
def Dev.grant (d : Dev) (x : CollOp) : Dev :=
  match d.collGroup x with
  | none => d
  | some g => d.each (d.sendersOf x) (fun d r => d.grantTo x g r)

/-- Segments held of an instance from a rank. -/
def Dev.heldFrom (d : Dev) (x : CollOp) (g : Group) (r : Nat) : Nat :=
  d.coll.held.countP (fun h => x.ownsHeld h && g.host (decSeg h.payload).seg.src == r)

/-- Whether an instance has left a rank no window and could give it one now. -/
def Dev.starved (d : Dev) (x : CollOp) (g : Group) (r : Nat) : Bool :=
  decide (x.grantedTo r ≤ x.takenFrom r + d.heldFrom x g r) && decide (x.grantedTo r < d.grantNow g x r)

/-- Advertises windows to the ranks that have none left and could have one: as an instance starts or slots become free (R227, R252). `but`
is a rank whose flow has an acknowledgement of its own due. -/
def Dev.advertise (d : Dev) (but : Option (Nat × Nat)) : Dev :=
  d.each (d.coll.ops.flatMap (fun x => (d.sendersOf x).map (fun r => (x.n, r)))) (fun d e =>
    match d.collOp e.1 with
    | none => d
    | some x => match d.collGroup x with
      | none => d
      | some g => if but ≠ some e ∧ d.starved x g e.2 then d.grantTo x g e.2 else d)

/-! ## Starting (R213, R215, R216, R228, R156) -/

/-- The limits of R213, R250 and R378. -/
def Dev.collRoom (d : Dev) (x : CollOp) : Bool :=
  let l := d.coll.ops.filter CollOp.running
  decide (l.length < 1024) && decide (l.countP (fun y => y.grp == x.grp) < 16)
  && decide (l.countP (fun y => y.tenant == x.tenant) < d.fld (R.tenLim x.tenant) 37 27)
  && (x.op != 6 || decide (l.countP (fun y => y.op == 6 && y.part == x.part) < 2))

/-- Whether a reduction of the tenant under an older layout epoch is still issued on this module (R135, R239). -/
def Dev.olderReduction (d : Dev) (x : CollOp) : Bool :=
  d.coll.ops.any (fun y => y.tenant == x.tenant && (y.op == 0 || y.op == 2) && seqLt y.layEp x.param)

/-- Whether an operation may start now; `none` where its captured epochs have become old (R215, R233, R237). -/
def Dev.mayStart (d : Dev) (x : CollOp) : Option Bool :=
  let a := d.armEpoch x.tenant
  let l := d.layEpoch x.tenant
  if seqLt x.armEp a || seqLt x.layEp l then none
  else some (x.armEp == a && (x.op == 5 || x.layEp == l) && !d.coll.installs.any (fun i => i.tenant == x.tenant) && d.collRoom x)

/-- The destination a gather writes beside D, unless it only serves an adopted rank (R279). -/
def CollOp.auxDst (x : CollOp) (g : Group) : Option Desc :=
  if x.op = 1 ∧ (g.wards.any (fun r => !g.lost r)) then x.aux else none

/-- Whether an operation writes no tensor at D: into placed slots, whole blocks or ring slots, or as the root of a broadcast (R214). -/
def CollOp.noDst (x : CollOp) (g : Group) : Bool :=
  x.mapped || x.op == 5 || x.op == 6 || (x.op == 4 && x.param.toNat % 2 ^ 16 == g.own)

/-- The bytes that an operation reads and writes itself; placed slots and cast blocks are their units' (R165, R196). -/
def CollOp.memExts (x : CollOp) (g : Group) : List Extent :=
  if x.op = 5 then fiveExts x.smap ++ fiveExts x.dmap
  else x.s1.exts ++ (if x.op = 3 then x.s2.exts else []) ++ (if x.noDst g then [] else x.d.exts) ++ x.aux.toList.flatMap Desc.exts
    ++ (if x.op = 6 then (x.ring.slot.take x.ring.slots).map (fun s => ⟨s, s + x.ring.bytes⟩) else [])

/-- Whether the entries that an operation writes are free (R156). -/
def Dev.collDstFree (d : Dev) (g : Group) (x : CollOp) : Bool :=
  (x.noDst g || d.dstFree x.d x.step) && (match x.auxDst g with
    | some a => d.dstFree a x.step
    | none => true)

/-- A version of a source: there, not there yet, or passed (R228). -/
def Dev.srcState (d : Dev) (y : Desc) (step : W64) : Nat :=
  match d.wsbOf y.base with
  | some pe =>
    if d.wsbState pe.1 pe.2 = 2 then
      (if d.wsbTag pe.1 pe.2 = step then 0 else if (d.wsbTag pe.1 pe.2).toNat < step.toNat then 1 else 2)
    else 1
  | none => 0

/-- Sources of a gather: its own shard, and the retained copy where it serves an adopted rank (R228, R279). -/
def CollOp.sources (x : CollOp) (g : Group) : List Desc := if x.op = 1 then x.s1 :: (if g.adopted.isEmpty then [] else x.aux.toList) else []

/-- Whether a CAG sends cast slices (R271): the S2 map, the interval, a buddy that is not lost. -/
def Dev.castsNow (d : Dev) (g : Group) (x : CollOp) : Bool :=
  let v := d.fld (R.castCtrl x.part) 63 56
  x.op == 1 && !x.smap.isEmpty && v != 0 && x.step.toNat % v == 0 && (match g.buddy g.own with
    | some b => !g.lost b
    | none => false)

/-- Registers the blocks of a cast with their units (R274). -/
def Dev.castRegister (d : Dev) (g : Group) (x : CollOp) : Dev :=
  if d.castsNow g x then
    let m := pmapOf x.smap
    d.modPart x.part (fun p => { p with cast := p.cast ++ [⟨x.n, x.step, m.mfmt, [], m.addrs, [], []⟩] })
  else d

/-- The writer that an operation is for its entries. -/
def CollOp.writer (x : CollOp) : WFill := ⟨x.step, x.part, x.port, x.id, .collective⟩

/-- What an operation other than a gather reads: S1, of an all-to-all the send counts too. -/
def CollOp.readOps (x : CollOp) : List Desc :=
  if x.op = 1 ∨ x.op = 5 ∨ (x.op = 4 ∧ x.s1.count = 0) then [] else if x.op = 3 then [x.s1, x.s2] else [x.s1]

/-- Checks of the sources of an operation other than a gather before it reads them, and the address of an uncorrectable error (R128, R163). -/
def Dev.collReadCheck (d : Dev) (x : CollOp) : Option (Status × Nat) :=
  if x.readOps.any (fun y => !d.tagOk y x.step) then some (St.versionMismatch, 0)
  else (x.readOps.find? d.badData).map (fun y => (St.eccUncorrected, d.badAt y))

/-- Goes on with an operation that has its number: entries, then sources, then its own contribution. That any collective may write through a
TAGCHK destination is a DESIGN CHOICE (log entry 126). -/
def Dev.collGo (d : Dev) (g : Group) (x : CollOp) : Dev :=
  if x.phase != .waitSource && !d.collDstFree g x then d.putColl { x with phase := .waitDest }
  else if d.extsBusy (x.memExts g) then d.putColl { x with phase := if x.phase = .waitSource then .waitSource else .waitDest }
  else
    let d := if x.noDst g then d else d.dstBegin x.d x.writer
    let d := match x.auxDst g with
      | some a => d.dstBegin a x.writer
      | none => d
    let st := (x.sources g).map (fun y => d.srcState y x.step)
    if st.any (· == 2) then (d.putColl x).collFault x St.versionMismatch (x.pc / 8)
    else if st.any (· == 1) then d.putColl { x with phase := .waitSource }
    else match ((x.sources g).find? d.badData).map (fun y => (St.eccUncorrected, d.badAt y)) <|> d.collReadCheck x with
      | some c => (if c.1 = St.eccUncorrected then d.eccMark c.2 else d).collFault x c.1 (x.pc / 8)
      | none =>
        let x := { x with phase := .running }
        let s := if x.op = 6 then beginKv g (d, x) else beginOp g (d, x)
        if x.op = 3 && s.1.countsBad g s.2 then s.1.collFault s.2 St.badDescriptor (x.pc / 8)
        else s.1.collPut g s.2

/-- Whether a window was advertised for an instance under the tenant's present epoch. -/
def Dev.advertFor (d : Dev) (x : CollOp) (v : Advert) : Bool :=
  v.tenant == x.tenant && v.grp == x.grp && v.num == x.num && v.armEp == d.armEpoch x.tenant

/-- An instance starts with the windows that peers which started it before have advertised (R227). -/
def Dev.takeAdverts (d : Dev) (g : Group) (x : CollOp) : CollOp :=
  (d.coll.adverts.filter (d.advertFor x)).foldl (fun x v => match g.rankAt v.ip v.peerPart.toNat with
    | some r => { x with credit := Tab.put x.credit r v.granted }
    | none => x) x

/-- Starts an operation: its instance number on the group, its cast, its first work (R216, R274). -/
def Dev.collStart (d : Dev) (x : CollOp) : Dev :=
  match d.collGroup x with
  | none => d.collFault x St.noPermission (x.pc / 8)
  | some g =>
    let num := (Tab.find d.coll.nextNum x.grp).getD 0
    let d := { d with coll := { d.coll with nextNum := Tab.put d.coll.nextNum x.grp ((num + 1) % 2 ^ 16), nextStart := d.coll.nextStart + 1 } }
    let x := d.takeAdverts g { x with num := BitVec.ofNat 16 num, startNo := d.coll.nextStart, rotFree := if x.op = 6 then x.ring.slots else 0 }
    let d := { d with coll := { d.coll with adverts := d.coll.adverts.filter (fun v => !d.advertFor x v) } }
    (d.castRegister g x).collGo g x

/-- The first queued operation of a port queue. -/
def Coll.front (c : Coll) (k : Nat) : Option CollOp := c.ops.find? (fun x => !x.running && x.part.val * 4 + x.port.num == k)

/-- The port queues in turn after the last one served (R120). -/
def queuesAfter (n : Nat) : List Nat := (List.range 64).map (fun k => (n + 1 + k) % 64)

/-- The turn of a port queue: its front starts, or stops where its epochs have become old; a CRSH waits for CRSH_START. -/
def Dev.queueTurn (d : Dev) (k : Nat) : Option Dev :=
  match d.coll.front k with
  | none => none
  | some x =>
    if x.op = 5 then none
    else match d.mayStart x with
      | none => some (d.collFault x St.epochStale (x.pc / 8))
      | some true => some ({ d with coll := { d.coll with portRR := k } }.collStart x)
      | some false => none

/-- Starts every queued operation that may start, a port queue in turn each (R120). -/
def Dev.collStarts (d : Dev) : Nat → Dev
  | 0 => d
  | n + 1 => match (queuesAfter d.coll.portRR).findSome? d.queueTurn with
    | none => d
    | some d => d.collStarts n

/-- The engine starts what may start, sends what it can and advertises the windows it can; the units of casts go on. -/
def Dev.collKick (d : Dev) : Dev :=
  let d := ((d.collStarts (d.coll.ops.countP (fun x => !x.running))).collPump).advertise none
  d.each d.coll.ops (fun d x => d.castUnits x)

/-- A collective stops while it runs, and what waited for its place starts. -/
def Dev.collStop (d : Dev) (x : CollOp) (code : Status) (detail : Nat) : Dev := (d.collFault x code detail).collKick

/-! ## Issue (R214, R215) -/

/-- The second word (R123): group, counter, MCAST, parameter. -/
def cGrp (w : TWord) : Nat := bits w.w1 63 52
def cCtr (w : TWord) : Nat := bits w.w1 51 43
def cMcast (w : TWord) : Bool := bit w.w1 42
def cParam (w : TWord) : Nat := bits w.w1 31 0
/-- The descriptor index in [31:24] of the parameter. -/
def cAux (w : TWord) : Nat := bits w.w1 31 24

/-- The common word rule: a second word, reserved fields clear (R122). -/
def collWord (w : TWord) (mcast s2 : Bool) : Bool :=
  w.x && w.mod == 0 && w.s3 == 0 && w.imm == 0 && bits w.w1 41 32 == 0 && (mcast || !cMcast w) && (s2 || w.s2 == 0)

/-- Operands of a collective. -/
structure CArg where
  d : Option Desc
  s1 : Option Desc
  s2 : Option Desc
  aux : Option Desc
deriving DecidableEq, Repr

def optBad (o : Option Desc) : Option Status := refuseIf o.isNone St.badDescriptor
def optOk (f : Desc → Option Status) (o : Option Desc) : Option Status :=
  match o with
  | some x => f x
  | none => none

/-- R127, R148 and R157 for a map operand. -/
def Dev.checkMap (d : Dev) (p : PartId) (x : Desc) : Option Status := d.checkSrc p Reach.own x

/-- The epochs a port has captured, older than the tenant's (R215). -/
def Dev.epochOld (d : Dev) (p : PartId) (q : Port) (t : TenantId) : Option Status :=
  refuseIf (seqLt (d.port p q).armEp (d.armEpoch t) || seqLt (d.port p q).layEp (d.layEpoch t)) St.epochStale

/-- Placement maps of an operand. -/
def Dev.pmapAt (d : Dev) (x : Desc) : PMap := pmapOf (d.rd x.low 64)

/-- A buddy map of kind 5 for a CRS, and its format (R214, R222). -/
def Dev.crsMap (d : Dev) (p : PartId) (e f : Nat) (o : Option Desc) : Option Status :=
  optOk (fun y => firstOf [refuseIf (!mapDesc y 64 || !d.pmapOk p (d.pmapAt y) 5 e) St.badDescriptor,
    refuseIf ((d.pmapAt y).mfmt != f) St.formatInvalid]) o

/-- CRS (R214, R215, R222). -/
def Dev.crsCheck (d : Dev) (p : PartId) (q : Port) (w : TWord) (a : CArg) (g : Group) : Option Status :=
  match a.d, a.s1 with
  | some x, some y =>
    let e := y.count / Nat.max 1 g.n
    let f := if x.norec then (d.pmapAt x).mfmt else x.fmt
    firstOf
      [ if x.norec then d.checkMap p x else d.checkDst p Reach.own x, d.checkSrc p Reach.own y, optOk (d.checkMap p) a.s2,
        refuseIf (g.topo == 2 || bits w.w1 30 0 != 0 || (cMcast w && a.s2.isNone)) St.badDescriptor,
        refuseIf (y.count % Nat.max 1 g.n != 0 || e % 32 != 0 || ((x.norec || a.s2.isSome) && e % 4096 != 0)) St.badDescriptor,
        (if x.norec then refuseIf (!mapDesc x 64 || !d.pmapOk p (d.pmapAt x) 5 e) St.badDescriptor
         else refuseIf (x.count != e) St.badDescriptor),
        refuseIf (!x.norec && x.kind != 5) St.formatInvalid, d.crsMap p e f a.s2, d.epochOld p q g.tenant ]
  | _, _ => some St.badDescriptor

/-- CAG (R214, R215, R228). -/
def Dev.cagCheck (d : Dev) (p : PartId) (q : Port) (w : TWord) (a : CArg) (g : Group) : Option Status :=
  match a.d, a.s1 with
  | some x, some y =>
    firstOf
      [ d.checkDst p Reach.own x, d.checkSrc p Reach.own y, optOk (d.checkMap p) a.s2, optOk (fun r => d.checkDst p Reach.own r) a.aux,
        refuseIf (g.topo == 2 || bits w.w1 19 0 != 0) St.badDescriptor,
        refuseIf (x.count != g.n * y.count) St.badDescriptor,
        optOk (fun r => refuseIf (r.count != y.count) St.badDescriptor) a.aux,
        optOk (fun z => firstOf [refuseIf (!mapDesc z 64 || bits w.w1 23 20 == 0 || !d.pmapOk p (d.pmapAt z) 8 y.count) St.badDescriptor]) a.s2,
        refuseIf (x.norec || x.kind != 0 || x.fmt != y.fmt || (match a.aux with
          | some r => r.fmt != y.fmt
          | none => false)) St.formatInvalid,
        d.epochOld p q g.tenant,
        refuseIf (!x.tagchk || !y.tagchk || (match a.aux with
          | some r => !r.tagchk
          | none => false)) St.badDescriptor ]
  | _, _ => some St.badDescriptor

/-- D's kind and format are S1's (R215). -/
def sameAs (x y : Desc) : Option Status := refuseIf (x.norec != y.norec || x.fmt != y.fmt || (!x.norec && x.kind != y.kind)) St.formatInvalid

/-- CAR (R214, R215). -/
def Dev.carCheck (d : Dev) (p : PartId) (q : Port) (w : TWord) (a : CArg) (g : Group) : Option Status :=
  match a.d, a.s1 with
  | some x, some y => firstOf
      [ d.checkDst p Reach.own x, d.checkSrc p Reach.own y, refuseIf (cParam w != 0) St.badDescriptor,
        refuseIf (y.count % Nat.max 1 g.n != 0 || y.count / Nat.max 1 g.n % 32 != 0 || x.count != y.count) St.badDescriptor,
        sameAs x y, d.epochOld p q g.tenant ]
  | _, _ => some St.badDescriptor

/-- An INT32 NOREC tensor of one value per rank. -/
def perRank (x : Desc) (n : Nat) : Bool := x.norec && x.fmt == 0xD && x.count == n

/-- CA2A (R214, R215, R279). -/
def Dev.ca2aCheck (d : Dev) (p : PartId) (q : Port) (w : TWord) (a : CArg) (g : Group) : Option Status :=
  match a.d, a.s1, a.s2, a.aux with
  | some x, some y, some z, some r =>
    firstOf
      [ d.checkDst p Reach.own x, d.checkSrc p Reach.own y, d.checkSrc p Reach.own z, d.checkDst p Reach.own r,
        refuseIf (g.topo == 1 || g.topo == 2 || bits w.w1 23 0 != 0 || !perRank z g.n || !perRank r g.n) St.badDescriptor,
        sameAs x y, d.epochOld p q g.tenant, refuseIf g.anyLost St.memberLost ]
  | _, _, _, _ => some St.badDescriptor

/-- CBC (R214, R215, R279): the root names S1, the others D. -/
def Dev.cbcCheck (d : Dev) (p : PartId) (q : Port) (w : TWord) (a : CArg) (g : Group) : Option Status :=
  let root := bits w.w1 15 0
  firstOf
    [ optOk (fun x => d.checkDst p Reach.own x) a.d, optOk (d.checkSrc p Reach.own) a.s1,
      refuseIf (g.topo == 1 || bits w.w1 31 16 != 0 || decide (g.n ≤ root)) St.badDescriptor,
      (if root = g.own then optBad a.s1 else optBad a.d),
      (match a.d, a.s1 with
        | some x, some y => firstOf [sameAs x y, refuseIf (x.count != y.count) St.badDescriptor]
        | _, _ => none),
      d.epochOld p q g.tenant, refuseIf g.anyLost St.memberLost ]

/-- Five maps of a CRSH (R236). -/
def Dev.fiveOk (d : Dev) (p : PartId) (m : List Byte) : Bool :=
  let zero := fun k => (sliceB m (64 * k) 64).all (· == 0)
  (List.range 4).all (fun k => zero k || d.pmapOk p (fiveMap m k) (if k % 2 = 0 then 8 else 5) (fiveMap m k).total)
  && (zero 4 || d.rowMapOk p (fiveRows m))

/-- The new maps place tensors in the formats in which the old ones hold them (R222). -/
def fiveFormats (old new : List Byte) : Bool :=
  let there := fun (m : List Byte) (k : Nat) => !(sliceB m (64 * k) 64).all (· == 0)
  (List.range 4).all (fun k => !(there old k && there new k) || (fiveMap old k).mfmt == (fiveMap new k).mfmt)
  && (!(there old 4 && there new 4) || (fiveRows old).fmt == (fiveRows new).fmt)

/-- The entries of a permutation table name ranks, kinds of unit and positions that exist (R236). -/
def permOk (g : Group) (old new tab : List Byte) : Bool :=
  (permOf tab).all (fun e => e.clean && decide (e.what ≤ 2) && decide (e.src < g.n) && decide (e.dst < g.n)
    && (e.src != g.own || (List.range e.cnt).all (fun k => (unitAt old e.what (e.so + k)).isSome))
    && (e.dst != g.own || (List.range e.cnt).all (fun k => (unitAt new e.what (e.dof + k)).isSome)))

/-- Bytes of the permutation table at S2. -/
def Dev.permBytes (d : Dev) (z : Desc) : List Byte := d.rd z.base (8 + 32 * d.rdN z.base 8)

/-- CRSH (R214, R215, R236). -/
def Dev.crshCheck (d : Dev) (p : PartId) (q : Port) (w : TWord) (a : CArg) (g : Group) : Option Status :=
  match a.d, a.s1, a.s2 with
  | some x, some y, some z =>
    let new := d.rd x.low 320
    let old := d.rd y.low 320
    firstOf
      [ d.checkMap p x, d.checkMap p y, d.checkImage p z (8 + 32 * d.rdN z.base 8),
        refuseIf (g.topo != 3) St.badDescriptor,
        refuseIf (!mapDesc x 320 || !mapDesc y 320 || !z.norec || !d.fiveOk p new || !d.fiveOk p old || !permOk g old new (d.permBytes z))
          St.badDescriptor,
        refuseIf (!fiveFormats old new) St.formatInvalid,
        d.epochOld p q g.tenant,
        refuseIf (!seqGt (BitVec.ofNat 32 (cParam w)) (d.layEpoch g.tenant)) St.epochStale ]
  | _, _, _ => some St.badDescriptor

/-- Where a CKV slot may lie: the issuing partition's bonded SRAM or interleaved LPDDR5X (R250). -/
def Dev.slotPlace (d : Dev) (p : PartId) (a n : Nat) : Bool :=
  match d.region a with
  | some r => r.part == p && decide (a + n ≤ r.hi) && (r.kind == 1 || (r.kind == 0 && decide (a + n ≤ r.lo + d.pinBase p)))
  | none => false

/-- CKV (R215, R249, R250, R279). -/
def Dev.ckvCheck (d : Dev) (p : PartId) (q : Port) (_ : TWord) (a : CArg) (g : Group) : Option Status :=
  match a.d, a.s1 with
  | some x, some y =>
    let m := ringMapOf (d.rd x.low 64)
    let slots := m.slot.take m.slots
    let ext := fun (s : Nat) => (⟨s, s + m.bytes⟩ : Extent)
    let s1 : Extent := ⟨y.low, y.low + m.bytes⟩
    let whole := y.exts.map (fun e => e.hi - e.lo) == [m.bytes]
    let clash := (List.range slots.length).any (fun k =>
      let e := ext (slots.getD k 0)
      e.overlaps s1 || (slots.take k).any (fun o => e.overlaps (ext o))
      || (List.range 64).any (fun n => e.overlaps (d.wsbExt p n))
      || e.overlaps ⟨dramBase p + d.pinBase p, dramBase p + d.cap p⟩)
    firstOf
      [ d.checkMap p x, d.checkSrc p Reach.own y,
        refuseIf (g.topo != 0 || !mapDesc x 64 || !m.ok || decide (2 ^ 48 < (g.n + 1) * m.bytes)) St.badDescriptor,
        refuseIf (!y.norec || y.fmt != 0xB || y.rank != 0 || y.low % 64 != 0 || !whole || clash) St.badDescriptor,
        refuseIf (slots.any (fun s => !d.slotPlace p s m.bytes)) St.noPermission,
        d.epochOld p q g.tenant, refuseIf g.anyLost St.memberLost ]
  | _, _ => some St.badDescriptor

/-- The extents an operation reads and writes (R24, R134): of a CRSH the old and the new maps' blocks, slots and rows. -/
def collExts (op : Nat) (a : CArg) (dmap smap : List Byte) : List Extent × List Extent :=
  let ex := fun (o : Option Desc) => o.toList.flatMap Desc.exts
  let dst := if (match a.d with
      | some x => x.norec && op == 0
      | none => false) then (pmapOf dmap).exts else ex a.d
  (ex a.s1 ++ ex a.s2 ++ (match a.d with
      | some x => if x.norec then x.exts else []
      | none => []) ++ (if op = 1 ∧ !smap.isEmpty then (pmapOf smap).exts else []) ++ (if op = 5 then fiveExts smap else []),
   (if op = 5 then fiveExts dmap else dst) ++ ex a.aux ++ (if op = 0 ∧ !smap.isEmpty then (pmapOf smap).exts else [])
   ++ (if op = 6 then let m := ringMapOf dmap; (m.slot.take m.slots).map (fun s => ⟨s, s + m.bytes⟩) else []))

/-- The operation that an instruction becomes at issue (R128). -/
def Dev.collIns (d : Dev) (p : PartId) (q : Port) (w : TWord) (op id : Nat) (g : Group) (a : CArg) (dmap smap table : List Byte) : CollOp :=
  let ps := d.port p q
  { n := d.coll.nextN, tenant := g.tenant, part := p, port := q, id := id, pc := d.portPc p q, op := op, grp := cGrp w, num := 0,
    ctr := BitVec.ofNat 9 (cCtr w), mcast := cMcast w, param := BitVec.ofNat 32 (cParam w),
    d := (a.d <|> a.s1).getD (descOf 0), s1 := a.s1.getD (descOf 0), s2 := a.s2.getD (descOf 0), aux := a.aux, dmap := dmap, smap := smap,
    table := table, step := ps.step, armEp := ps.armEp, layEp := ps.layEp, seed := ps.pwAt 14, phase := .queued, got := [], wroteD := [],
    wroteB := [], outq := [], placed := 0, credit := [], sent := [], taken := [], unacked := 0, parts := [], late := [], counts := [], bases := [],
    rx := [], rxDone := [], landed := [], rotUnacked := [], rotSent := 0, rotFree := 0, castNext := 0, startNo := 0, granted := [],
    relayed := [] }

/-- Places an operation in its port queue. -/
def Dev.collQueue (d : Dev) (x : CollOp) : Dev :=
  { d with coll := { d.coll with ops := d.coll.ops ++ [x], nextN := d.coll.nextN + 1 } }

/-- What a collective opcode asks at issue: its word rule, the index of its further descriptor (0 for none), its checks (R215), and D's
map, S2's map and the table as they lie in memory. -/
structure CForm where
  opc : Nat
  wordOk : Bool
  aux : Nat
  check : Dev → CArg → Group → Option Status
  maps : Dev → CArg → List Byte × List Byte × List Byte

/-- The operands a collective names. -/
def collArgs (ps : PortSt) (w : TWord) (aux : Nat) : CArg :=
  ⟨ps.descAt w.d, ps.descAt w.s1, ps.descAt w.s2, if aux = 0 then none else ps.descAt (BitVec.ofNat 8 aux)⟩

/-- Four operations of a port wait in the engine (R119). -/
def Dev.collFull (d : Dev) (p : PartId) (q : Port) : Bool :=
  decide (4 ≤ d.coll.ops.countP (fun y => !y.running && y.part == p && y.port.num == q.num))

/-- A collective issues into the engine, which starts what may start. -/
def Dev.collPush (d : Dev) (p : PartId) (q : Port) (w : TWord) (f : CForm) (g : Group) (e : List Extent × List Extent) : Dev :=
  let a := collArgs (d.port p q) w f.aux
  let m := f.maps d a
  let l := d.launch p q .collective e.1 e.2
  ((l.2.adv p q 2).collQueue (d.collIns p q w (f.opc - 0x70) l.1 g a m.1 m.2.1 m.2.2)).collKick

/-- The bytes of memory that a collective reads at its issue: maps and tables, and those of its operands' extents (R24, R134). -/
def CArg.atIssue (a : CArg) : List Extent := [a.d, a.s1, a.s2].flatMap (fun o => (o.toList.filter (·.norec)).flatMap Desc.exts)

/-- The maps and tables that an operation reads at its issue (R214, R249). -/
def CArg.maps (op : Nat) (a : CArg) : List Desc :=
  (if op = 5 ∨ op = 6 then a.d.toList else if op = 0 then a.d.toList.filter (·.norec) else [])
    ++ (if op = 5 then a.s1.toList else []) ++ (if op = 3 then [] else a.s2.toList)

/-- Why a map or table may not be consumed, and where: its entry does not hold the captured version, or it has an uncorrectable error (R128, R157,
R163). -/
def Dev.mapBad (d : Dev) (op : Nat) (a : CArg) (step : W64) : Option (Status × Nat) :=
  (((a.maps op).find? (fun x => !d.tagOk x step)).map (fun x => (St.versionMismatch, x.base)))
    <|> ((a.maps op).find? d.badData).map (fun x => (St.eccUncorrected, d.badAt x))

/-- The common issue of a collective (R215, R119). -/
def Dev.collIssue (d : Dev) (p : PartId) (q : Port) (w : TWord) (f : CForm) : Dev :=
  d.issue p q (encT f.opc w) w.snd (fun d =>
    let a := collArgs (d.port p q) w f.aux
    if !f.wordOk then .refuse St.badDescriptor
    else match (d.tenantOf p).bind (fun t => d.groupOf t (cGrp w)) with
      | none => .refuse St.noPermission
      | some g =>
        if d.held p q a.atIssue [] || d.extsBusy a.atIssue then .hold
        else match f.check d a g with
        | some c => .refuse c
        | none =>
          let m := f.maps d a
          let e := collExts (f.opc - 0x70) a m.1 m.2.1
          if d.collFull p q || d.held p q e.1 e.2 then .hold
          else match d.mapBad (f.opc - 0x70) a (d.port p q).step with
          | some c =>
            let l := d.launch p q .collective e.1 e.2
            let at' := l.2.adv p q 2
            .go ((if c.1 = St.eccUncorrected then at'.eccMark c.2 else at').execFault p q l.1 (d.portPc p q) q.num c.1 (d.portPc p q / 8) c.2)
          | none => .go (d.collPush p q w f g e))

/-- The map bytes at an operand, none where it is absent. -/
def Dev.mapBytes (d : Dev) (o : Option Desc) (n : Nat) : List Byte :=
  match o with
  | some x => d.rd x.low n
  | none => []

/-- What CRS checks and captures at issue. -/
def crsForm (p : PartId) (q : Port) (w : TWord) : CForm :=
  ⟨0x70,
    collWord w true true,
    0,
    fun d a g => d.crsCheck p q w a g,
    fun d a => (d.mapBytes (a.d.filter (·.norec)) 64, d.mapBytes a.s2 64, [])⟩

/-- CRS (R214 to R216). -/
def execCrs (p : PartId) (q : Port) (w : TWord) (s : State) : Res := onDev (fun d => d.collIssue p q w (crsForm p q w)) s

/-- What CAG checks and captures at issue. -/
def cagForm (p : PartId) (q : Port) (w : TWord) : CForm :=
  ⟨0x71,
    collWord w false true,
    cAux w,
    fun d a g => d.cagCheck p q w a g,
    fun d a => ([], d.mapBytes a.s2 64, [])⟩

/-- CAG (R214 to R216). -/
def execCag (p : PartId) (q : Port) (w : TWord) (s : State) : Res := onDev (fun d => d.collIssue p q w (cagForm p q w)) s

/-- What CAR checks and captures at issue. -/
def carForm (p : PartId) (q : Port) (w : TWord) : CForm :=
  ⟨0x72,
    collWord w false false,
    0,
    fun d a g => d.carCheck p q w a g,
    fun _ _ => ([], [], [])⟩

/-- CAR (R214 to R216). -/
def execCar (p : PartId) (q : Port) (w : TWord) (s : State) : Res := onDev (fun d => d.collIssue p q w (carForm p q w)) s

/-- What CA2A checks and captures at issue. -/
def ca2aForm (p : PartId) (q : Port) (w : TWord) : CForm :=
  ⟨0x73,
    collWord w false true,
    cAux w,
    fun d a g => d.ca2aCheck p q w a g,
    fun _ _ => ([], [], [])⟩

/-- CA2A (R214 to R216). -/
def execCa2a (p : PartId) (q : Port) (w : TWord) (s : State) : Res := onDev (fun d => d.collIssue p q w (ca2aForm p q w)) s

/-- What CBC checks and captures at issue. -/
def cbcForm (p : PartId) (q : Port) (w : TWord) : CForm :=
  ⟨0x74,
    collWord w false false,
    0,
    fun d a g => d.cbcCheck p q w a g,
    fun _ _ => ([], [], [])⟩

/-- CBC (R214 to R216). -/
def execCbc (p : PartId) (q : Port) (w : TWord) (s : State) : Res := onDev (fun d => d.collIssue p q w (cbcForm p q w)) s

/-- What CRSH checks and captures at issue. -/
def crshForm (p : PartId) (q : Port) (w : TWord) : CForm :=
  ⟨0x75,
    collWord w false true,
    0,
    fun d a g => d.crshCheck p q w a g,
    fun d a => (d.mapBytes a.d 320, d.mapBytes a.s1 320, match a.s2 with
      | some z => d.permBytes z
      | none => [])⟩

/-- CRSH (R214 to R216). -/
def execCrsh (p : PartId) (q : Port) (w : TWord) (s : State) : Res := onDev (fun d => d.collIssue p q w (crshForm p q w)) s

/-- What CKV checks and captures at issue. -/
def ckvForm (p : PartId) (q : Port) (w : TWord) : CForm :=
  ⟨0x76,
    collWord w false false,
    0,
    fun d a g => d.ckvCheck p q w a g,
    fun d a => (d.mapBytes a.d 64, [], [])⟩

/-- CKV (R214 to R216). -/
def execCkv (p : PartId) (q : Port) (w : TWord) (s : State) : Res := onDev (fun d => d.collIssue p q w (ckvForm p q w)) s

/-! ## Segments that arrive (R226, R227) -/

/-- What becomes of a segment: dropped and counted, held, the operation stops, or it is accepted. -/
inductive SegFate where
  | drop (hi lo : Nat)
  | hold
  | stop (x : CollOp) (c : Status)
  | take (x : CollOp) (g : Group)

/-- Flags, and the rank they are for, that tell segments of one sender and offset apart. -/
def segFlags (m : OutSeg) : Nat := b2n m.final + 2 * b2n m.buddy + 4 * b2n m.cast + 8 * m.dest

/-- Format and kind that a segment of an instance must carry (R224, R256; log entry 37 for counts). -/
def segForm (x : CollOp) (m : OutSeg) : Nat × Nat :=
  if m.cast ∨ x.op = 5 ∨ x.op = 6 then (0, 0) else if x.op = 3 ∧ m.final then (0xD, 0) else (x.fmt, x.kind)

/-- The checks of R226 in their order; `kv` for a KV_BLOCK. -/
def Dev.segCheck (d : Dev) (r : Req) (s : SegIn) (kv : Bool) : SegFate :=
  match d.groupOf r.tenant s.grp with
  | none => .drop 31 16
  | some g =>
    if g.n ≤ s.seg.src || (g.rank s.seg.src).ip != r.src then .drop 31 16
    else if seqLt r.armEp (d.armEpoch r.tenant) || seqLt r.layEp (d.layEpoch r.tenant) then .drop 63 48
    else if r.armEp != d.armEpoch r.tenant || r.layEp != d.layEpoch r.tenant then .hold
    else
      match d.coll.ops.find? (fun x => x.running && x.tenant == r.tenant && x.grp == s.grp && x.num == s.num && x.op == s.op
          && (x.op == 6) == kv) with
      | none =>
        let next := (Tab.find d.coll.nextNum s.grp).getD 0
        let back := (next + 2 ^ 16 - s.num.toNat) % 2 ^ 16
        if 0 < back ∧ back ≤ 2 ^ 15 then .drop 47 32 else .hold
      | some x =>
        if x.got.contains (s.seg.src, s.seg.off, segFlags s.seg) then .drop 47 32
        else if (x.op == 1 || x.op == 4 || x.op == 6) && decide (s.step.toNat < x.step.toNat) then .drop 15 0
        else if (x.op == 1 || x.op == 4 || x.op == 6) && decide (x.step.toNat < s.step.toNat) then .hold
        else if x.phase == .waitDest then .hold
        else if x.op == 6 && !(x.rotLands g (s.seg.off / Nat.max 1 x.ring.bytes) && d.slotFree g x (s.seg.off / Nat.max 1 x.ring.bytes)) then .hold
        else if d.extsBusy (x.memExts g) then .hold
        else if s.tensor != x.d.tensorId.toNat then .stop x St.badDescriptor
        else if (s.seg.fmt, s.seg.kind) != segForm x s.seg then .stop x St.formatInvalid
        else .take x g

/-- Notes a segment as received, and its slot as used and freed (R227). -/
def CollOp.note (x : CollOp) (g : Group) (m : OutSeg) : CollOp :=
  let r := g.host m.src
  { x with got := x.got ++ [(m.src, m.off, segFlags m)], taken := Tab.put x.taken r (x.takenFrom r + 1) }

/-- Whether a segment finds no slot: it lies outside the windows that this module has advertised, and no slot is free (R227). -/
def Dev.segNoSlot (d : Dev) (r : Req) (kv : Bool) : Bool :=
  let s := decSeg r.payload
  let inWindow := d.coll.ops.any (fun x => x.running && x.tenant == r.tenant && x.grp == s.grp && x.num == s.num && (match d.collGroup x with
    | some g => decide (x.takenFrom (g.host s.seg.src) + d.heldFrom x g (g.host s.seg.src) < x.grantedTo (g.host s.seg.src))
    | none => false))
  (match d.segCheck r s kv with
    | .hold => true
    | .take _ _ => true
    | _ => false) && !inWindow && d.slotsFree r.tenant == 0

/-- The place of an operation among the partition's CKVs in progress, in the order the engine started them (R263). -/
def Dev.kvRank (d : Dev) (x : CollOp) : Nat :=
  d.coll.ops.countP (fun y => y.op == 6 && y.running && y.part == x.part && decide (y.startNo < x.startNo))

/-- KV_STATUSn of an operation (R263). -/
def Dev.kvIndex (d : Dev) (x : CollOp) : Fin 2 := Fin.ofNat 2 (d.kvRank x)

/-- An accepted segment acts. -/
def Dev.segTake (d : Dev) (x : CollOp) (g : Group) (m : OutSeg) : Dev :=
  let x := x.note g m
  if x.op = 6 then
    let r := kvLand g (d, x) m
    if r.2 then (r.1.1.setFlag (R.kvStatus x.part (d.kvIndex x)) 0 true).collStop x St.badDescriptor (x.pc / 8)
    else r.1.1.collStore g r.1.2
  else
    let r := recvSeg g (d, x) m
    if r.2 then r.1.1.collStop r.1.2 St.badDescriptor (x.pc / 8) else r.1.1.collStore g r.1.2

/-- A segment addressed to the engine: checked, then dropped, held or accepted; `fresh` when it has just arrived. -/
def Dev.segArrive (d : Dev) (r : Req) (kv fresh : Bool) : Dev :=
  let s := decSeg r.payload
  match d.segCheck r s kv with
  | .drop hi lo => d.bump R.collDrops hi lo 1
  | .hold => if fresh then { d with coll := { d.coll with held := d.coll.held ++ [r] } } else d
  | .stop x c => d.collStop x c (x.pc / 8)
  | .take x g => (d.segTake x g s.seg).advertise (some (x.n, g.host s.seg.src))

/-- COLL_SEG (R226); one that finds no slot is not taken. -/
def execCollSeg (r : Req) (s : State) : Res :=
  onDev (fun d => d.takeReq r 9 (fun d => if d.segNoSlot r false then d else d.segArrive r false true)) s

/-- KV_BLOCK (R256); one that finds no slot is not taken. -/
def execKvBlock (r : Req) (s : State) : Res :=
  onDev (fun d => d.takeReq r 0xA (fun d => if d.segNoSlot r true then d else d.segArrive r true true)) s

/-- Whether a held segment concerns a KV_BLOCK. -/
def heldKv (r : Req) : Bool := (decSeg r.payload).op == 6

/-- HELD_SEGMENT_RELEASE (R226, R227): a held segment whose epoch, operation or step has been reached is handled as if it arrived. -/
def execHeldSegmentRelease (n : Nat) (s : State) : Res :=
  onDev (fun d =>
    match d.coll.held[n]? with
    | none => d
    | some r =>
      match d.segCheck r (decSeg r.payload) (heldKv r) with
      | .hold => d
      | _ =>
        let d := ({ d with coll := { d.coll with held := d.coll.held.eraseIdx n } }).segArrive r (heldKv r) false
        (match d.coll.ops.find? (fun x => x.running && x.tenant == r.tenant && x.grp == (decSeg r.payload).grp
            && x.num == (decSeg r.payload).num) with
          | some x => d.grant x
          | none => d)) s

/-- CAG_SOURCE_READY (R228): the tag of S1's entry equals the captured STEP, and the gather sends its shard. -/
def execCagSourceReady (n : Nat) (s : State) : Res :=
  onDev (fun d =>
    match d.collOp n with
    | none => d
    | some x =>
      match d.collGroup x with
      | none => d
      | some g => if x.phase = .waitSource then (d.collGo g x).collKick else d) s

/-! ## Completion (R217, R257) -/

/-- Whether gradient-slot writes into a map still wait at their units. -/
def Dev.slotsWait (d : Dev) (p : PartId) (m : PMap) : Bool :=
  (List.finRange 4).any (fun c => ((d.part p).units[c]).slotQ.any (fun w => m.exts.any (fun e => decide (e.lo ≤ w.1) && decide (w.1 < e.hi))))

/-- Whether an operation is complete (R217). -/
def Dev.collDone (d : Dev) (g : Group) (x : CollOp) : Bool :=
  x.phase == .running && x.outq.isEmpty && x.unacked == 0
  && (match x.op with
    | 0 => x.wroteD.length == x.expectD g && x.wroteB.length == x.expectB g && !(x.mapped && d.slotsWait x.part (pmapOf x.dmap))
        && !(!x.smap.isEmpty && d.slotsWait x.part (pmapOf x.smap))
    | 1 => x.wroteD.length == x.expectD g && x.wroteB.length == x.expectB g && (match (d.part x.part).castOf x.n with
        | some c => decide (c.length ≤ x.castNext)
        | none => true)
    | 2 | 4 => x.wroteD.length == x.expectD g
    | 3 => x.countsKnown g && x.wroteD.length == sumBelow x.recvCount g.n && d.collTotal x g == some x.placed
    | 5 => (List.range g.n).all (fun r => r == g.own || (unitsFrom x g.own r).all (fun u => x.rxDone.contains (r, u.1)))
    | _ => x.kvDone g)

/-- Tags the entries an operation has filled (R156). -/
def Dev.collTag (d : Dev) (g : Group) (x : CollOp) : Dev :=
  d.each ((if x.noDst g then [] else [x.d]) ++ x.aux.toList) (fun d y =>
    if d.dstFilling y x.part x.port x.id then (match d.wsbOf y.base with
      | some pe => d.wsbEnd pe x.step
      | none => d) else d)

/-- An operation that is complete ends (R217). -/
def Dev.collFinish (d : Dev) (g : Group) (x : CollOp) : Dev :=
  ((((d.collTag g x).collEnd x).addCtr x.part x.ctr.toNat 1).complete x.part x.port x.id).collKick

/-- COLL_COMPLETE (R217, R133, R242): the entries are tagged, CTR advances by 1, the instruction completes, waiting ones start. -/
def execCollComplete (n : Nat) (s : State) : Res :=
  onDev (fun d =>
    match d.collOp n with
    | none => d
    | some x =>
      match d.collGroup x with
      | none => d
      | some g => if d.collDone g x then d.collFinish g x else d) s

/-- Whether a block that a CRSH sends has REM set or is named by UPDc_OPEN (R238). -/
def Dev.crshBlocked (d : Dev) (g : Group) (x : CollOp) : Bool :=
  (permOf x.table).any (fun e => e.src == g.own && e.what != 2 && (List.range e.cnt).any (fun k =>
    match unitAt x.smap e.what (e.so + k) with
    | some (a, _) => hRem (d.rd a 64) || d.isOpenAt x.part a
    | none => false))

/-- CRSH_START (R135, R237, R239): with no older reduction left, the layout epoch becomes the new one and the re-shard begins. -/
def execCrshStart (n : Nat) (s : State) : Res :=
  onDev (fun d =>
    match d.collOp n with
    | none => d
    | some x =>
      if x.op ≠ 5 ∨ x.running ∨ d.olderReduction x ∨ (d.coll.front (x.part.val * 4 + x.port.num)).map (·.n) ≠ some x.n then d
      else match d.mayStart x, d.collGroup x with
        | none, _ => d.collStop x St.epochStale (x.pc / 8)
        | some true, some g =>
          if !seqGt x.param (d.layEpoch x.tenant) then d.collStop x St.epochStale (x.pc / 8)
          else if d.crshBlocked g x then d.collStop x St.badDescriptor (x.pc / 8)
          else ((d.setFld (R.collEpoch x.tenant) 31 0 x.param.toNat).collStart x).collKick
        | _, _ => d) s

/-- CKV_ROTATION_SEND (R251): in backward mode the next rotation leaves once RELEASE has reached RBASE + r + 1 and it has landed. -/
def execCkvRotationSend (n : Nat) (s : State) : Res :=
  onDev (fun d =>
    match d.collOp n with
    | none => d
    | some x =>
      match d.collGroup x with
      | none => d
      | some g =>
        let r := x.rotSent
        if x.op = 6 && x.phase == .running && !d.extsBusy (x.memExts g) && x.ring.mode == 1 && decide (r < x.rotOut g) && d.released x (r + 1)
            && (r == 0 || decide (x.ring.bytes ≤ x.rotLanded r)) then
          let s := kvSendRot g (d, x) r
          s.1.collStore g s.2
        else d) s

/-- Whether the slot of a rotation that still lands has become free (R252). -/
def Dev.nextSlotFree (d : Dev) (g : Group) (x : CollOp) : Bool :=
  x.op == 6 && x.phase == .running && decide (x.rotFree < x.rotIn g) && d.slotFree g x (x.rotFree + 1)

/-- CKV_SLOT_FREE (R252): the slot of the next rotation is free and its window is advertised. -/
def execCkvSlotFree (n : Nat) (s : State) : Res :=
  onDev (fun d =>
    match d.collOp n with
    | none => d
    | some x =>
      match d.collGroup x with
      | none => d
      | some g =>
        if d.nextSlotFree g x then
          let x := { x with rotFree := x.rotFree + 1 }
          (d.putColl x).grant x
        else d) s

/-- What an instance has waited for and is there: its completion, its entry, its source, a release, a held segment's turn (R26). -/
def Dev.collArrived (d : Dev) (n : Nat) (x : CollOp) (g : Group) : Option (State → Res) :=
  if d.collDone g x then some (execCollComplete n)
  else if d.extsBusy (x.memExts g) then none
  else if x.phase = .waitDest ∧ d.collDstFree g x = true then some (onDev (fun d => (d.collGo g x).collKick))
  else if d.nextSlotFree g x then some (execCkvSlotFree n)
  else if x.phase = .waitSource ∧ (x.sources g).all (fun y => d.srcState y x.step != 1) = true then some (execCagSourceReady n)
  else if x.op = 6 ∧ x.phase = .running ∧ x.ring.mode = 1 ∧ x.rotSent < x.rotOut g ∧ d.released x (x.rotSent + 1) = true
      ∧ (x.rotSent = 0 ∨ x.ring.bytes ≤ x.rotLanded x.rotSent) then some (execCkvRotationSend n)
  else ((List.range d.coll.held.length).find? (fun k => match d.coll.held[k]? with
    | some r => x.ownsHeld r && (match d.segCheck r (decSeg r.payload) (heldKv r) with
      | .hold => false
      | _ => true)
    | none => false)).map execHeldSegmentRelease

/-- COLL_WATCHDOG_EXPIRE (R218, R258): the instance stops with TIMEOUT, unless what it waits for is there, which then acts (R26). A CKV that
waits only for its own RELEASE counter, or an instance that waits for a channel that retrains, does not stop (R165). -/
def execCollWatchdogExpire (n : Nat) (s : State) : Res :=
  match s.dev.collOp n with
  | none => onDev (fun d => d) s
  | some x =>
    match s.dev.collGroup x with
    | none => onDev (fun d => if x.running then d.collStop x St.timeout (x.pc / 8) else d) s
    | some g =>
      if !x.running then onDev (fun d => d) s
      else match s.dev.collArrived n x g with
        | some f => f s
        | none =>
          if s.dev.extsBusy (x.memExts g) || (x.op == 6 && x.phase == .running && s.dev.kvOwnWait g x) then onDev (fun d => d) s
          else onDev (fun d => d.collStop x St.timeout (x.pc / 8)) s

/-! ## What the transport tells the engine (R217, R276) -/

/-- A segment of an operation is acknowledged. -/
def Dev.collAcked (d : Dev) (n : Nat) (payload : List Byte) : Dev :=
  match d.collOp n with
  | none => d
  | some x =>
    let x := { x with unacked := x.unacked - 1 }
    if x.op = 6 then
      let r := (decSeg payload).seg.off / Nat.max 1 x.ring.bytes - 1
      d.putColl { x with rotUnacked := Tab.put x.rotUnacked r (x.rotOpen r - 1) }
    else d.putColl x

/-- A window advertised for an instance that this module has not started is kept until it does, or until its epoch has passed (R227). -/
def Dev.keepAdvert (d : Dev) (f : Flow) (armEp : BitVec 32) (c : BitVec 12 × BitVec 16 × BitVec 32) : Dev :=
  let v : Advert := ⟨f.tenant, armEp, c.1.toNat, c.2.1, f.peerIp, f.peerPart, c.2.2.toNat⟩
  let next := if armEp = d.armEpoch f.tenant then (Tab.find d.coll.nextNum c.1.toNat).getD 0 else 0
  if seqLt armEp (d.armEpoch f.tenant) || decide (2 ^ 15 ≤ (c.2.1 - BitVec.ofNat 16 next).toNat) then d
  else { d with coll := { d.coll with adverts := d.coll.adverts.filter (fun w => { w with granted := v.granted } != v) ++ [v] } }

/-- A peer's credit for an instance (R227, R326): segments granted in all, modulo 2^32; a grant never shrinks. -/
def Dev.collCredit (d : Dev) (f : Flow) (armEp : BitVec 32) (c : BitVec 12 × BitVec 16 × BitVec 32) : Dev :=
  match d.coll.ops.find? (fun x => x.running && x.tenant == f.tenant && x.grp == c.1.toNat && x.num == c.2.1 && armEp == d.armEpoch f.tenant) with
  | none => d.keepAdvert f armEp c
  | some x =>
    match d.collGroup x with
    | none => d
    | some g =>
      match g.rankOn f with
      | none => d
      | some r =>
        let old := x.creditOf r
        let up := (c.2.2.toNat + 2 ^ 32 - old % 2 ^ 32) % 2 ^ 32
        if up < 2 ^ 31 then d.collStore g { x with credit := Tab.put x.credit r (old + up) } else d

/-- A flow that an instance needs is lost, or a peer refuses its segment: it stops (R276, R323). -/
def Dev.collLost (d : Dev) (n : Nat) (code : Status) (f : Flow) : Dev :=
  match d.collOp n with
  | none => d
  | some x =>
    let m := match d.collGroup x with
      | some g => (match g.rankOn f with
        | some r => (g.rank r).module.toNat
        | none => 0)
      | none => 0
    d.collStop x code m

/-- The positions from one up to the root of the tree. -/
def Group.path (g : Group) (q : Nat) : Nat → List Nat
  | 0 => [q]
  | n + 1 => q :: (match g.parent q with
    | some k => g.path k n
    | none => [])

/-- The neighbour through which a broadcast reaches a position of the tree. -/
def Group.toward (g : Group) (q root : Nat) : Option Nat :=
  if q = root then none
  else match (g.children q).find? (fun k => (g.path root g.n).contains k) with
    | some k => some k
    | none => g.parent q

/-- Segments that an instance sends to a rank in all; `none` while it does not know. -/
def Dev.totalTo (d : Dev) (x : CollOp) (g : Group) (r : Nat) : Option Nat :=
  let q := g.pos g.own
  let next := g.host (g.at (g.step true q))
  let casts := match (d.part x.part).castOf x.n, g.buddy g.own with
    | some c, some b => if g.host b = r then ceilDiv c.length 8448 else 0
    | _, _ => 0
  match x.op with
  | 0 | 1 | 2 => some (((g.places.flatMap (x.sends g)).filter (fun e => !g.mine (g.at e.1) && g.host (g.at e.1) == r)).map (·.2) |>.sum) |>.map (· + casts)
  | 3 => if g.topo = 3 then some (x.a2aCuts g (d.sendCount x r)) else if r = next then d.collTotal x g else some 0
  | 4 =>
    let root := g.pos (x.param.toNat % 2 ^ 16)
    let s := (cuts 0 (if q = root then x.s1.count else x.d.count) (segLen g x.fmt)).length
    let to' := if g.topo = 3 then (if q = root then (List.range g.n).filter (· != q) else [])
      else if g.topo = 2 then (g.near q).filter (fun k => some k != g.toward q root)
      else if g.step true q = root then [] else [g.step true q]
    some (if to'.any (fun k => g.at k == r) then s else 0)
  | 5 => if x.phase = .running then some (x.sentTo r + x.outq.countP (fun o => o.tgt == r)) else none
  | _ => some (if r = next then x.rotOut g * x.perRot else 0)

/-- Whether an instance has still to send to the peer of a flow. -/
def Dev.collNeeds (d : Dev) (x : CollOp) (f : Flow) : Bool :=
  x.running && x.tenant == f.tenant && f.ep == .part x.part && (match d.collGroup x with
    | some g => (match g.rankOn f with
      | some r => (match d.totalTo x g r with
        | some n => decide (x.sentTo r < n)
        | none => true)
      | none => false)
    | none => false)

/-- A flow is declared lost: the instances that still need it stop (R276). -/
def Dev.collFlowLost (d : Dev) (f : Flow) (code : Status) : Dev :=
  d.each ((d.coll.ops.filter (fun x => d.collNeeds x f)).map (·.n)) (fun d n => d.collLost n code f)

end Sys2Proof.Machine
end

