-- ==== Sys2Proof/Machine/PartRegs.lean ====
section
/-! DEFINITION. Writes of the sequencer, memory, working-shard, update-unit and collective registers of a partition (R138 to R142,
R150, R158 to R166, R210 to R212, R247, R248). -/
namespace Sys2Proof.Machine

/-! ## Sequencers (R137 to R140) -/

/-- START (R138): fetch starts at SEQx_PC where the stream is idle or halted and FAULT is 0. -/
def Dev.seqStart (d : Dev) (p : PartId) (x : Seq) : Dev :=
  if !d.fenced p && (d.seqState p x == 0 || d.seqState p x == 4) && !bit (d.reg (R.seqStatus p x)) 0 then d.setSeqState p x 1 else d

/-- HALT_REQ (R138): a running stream is halted, and an MMUL of it that waits for its partner runs unpaired (R172); a stream that waits or is held
is halted once that ends. -/
def Dev.seqHalt (d : Dev) (p : PartId) (x : Seq) : Dev :=
  match d.seqState p x with
  | 1 => (d.setSeqState p x 4).unpairPort p x.port
  | 2 | 3 => d.modPort p x.port (fun s => { s with haltReq := true })
  | _ => d

/-- A write of SEQx_CTRL (R138): HALT_REQ and START as the word sets them. -/
def Dev.seqCtrlWrite (d : Dev) (p : PartId) (x : Seq) (v : W64) : Dev :=
  let d := if bit v 1 then d.seqHalt p x else d
  if bit v 0 then d.seqStart p x else d

/-- A write of 1 to FAULT (R140, R137): CODE, DROPPED and FAULT are cleared, the stream is halted. -/
def Dev.seqFaultClear (d : Dev) (p : PartId) (x : Seq) : Dev :=
  let o := R.seqStatus p x
  if bit (d.reg o) 0 then (((d.setFld o 63 56 0).setFld o 31 28 0).setFlag o 0 false).setSeqState p x 4 else d

/-- A write of SEQx_PC (R139): no effect while the stream is running, waiting or held. -/
def Dev.seqPcWrite (d : Dev) (p : PartId) (x : Seq) (v : W64) : Dev :=
  let st := d.seqState p x
  if st = 1 ∨ st = 2 ∨ st = 3 then d else d.setPc p x (bits v 47 3 * 8)

/-! ## MEM_PIN (R150, R147) -/

/-- The channel of an offset in a partition's LPDDR5X and the offset within the channel, for a boundary `b` and capacity `c` (R147). -/
def pinMap (b c o : Nat) : Nat × Nat :=
  let s := (c - b) / 4
  if o < b then (o / 256 % 4, o / 1024 * 256 + o % 256)
  else (((o - b) / Nat.max 1 s), b / 4 + (o - b) - (o - b) / Nat.max 1 s * s)

/-- The offset that `pinMap` takes to a channel and an offset within it. -/
def pinUnmap (b c ch k : Nat) : Nat :=
  let s := (c - b) / 4
  if k < b / 4 then k / 256 * 1024 + ch * 256 + k % 256 else b + ch * s + (k - b / 4)

/-- A change of PIN_BASE changes the mapping and moves no data: what a byte's place held before now reads back at the address that the
new mapping gives that place (R150). -/
def Dev.remap (d : Dev) (p : PartId) (b b' : Nat) : Dev :=
  let lo := dramBase p
  let c := d.cap p
  let here := d.mem.filter (fun e => decide (lo ≤ e.1) && decide (e.1 < lo + c))
  let rest := memZero d.mem lo (lo + c)
  { d with mem := here.foldl (fun m e =>
      let z := pinMap b c (e.1 - lo)
      memSet m (lo + pinUnmap b' c z.1 z.2) e.2) rest }

/-- Whether state the pinned region protects is in use: a UPD, UROUTE, cast read or CRSH is in progress (R150); a UPD
whose entry is still filling has not completed (R156). -/
def Dev.pinBusy (d : Dev) (p : PartId) : Bool :=
  (List.finRange 4).any (fun c => !((d.part p).units[c]).q.isEmpty) || !(d.part p).cast.isEmpty
    || (d.part p).uops.any (fun o => match o.act with
      | .rows _ => true
      | _ => false)
    || d.coll.ops.any (fun x => x.part == p && x.op == 5)
    || allParts.any (fun t => (d.part t).fill.any (fun e => e.2.cls == .update && e.2.part == p && d.fillLive e.2))

/-- A write of MEM_PIN (R150). A write that leaves PIN_BASE as it is is no write of PIN_BASE (log entry 39). -/
def Dev.memPinWrite (d : Dev) (p : PartId) (v : W64) : WOut :=
  let o := R.memPin p
  let b := bits v 47 40
  let moves := b != d.fld o 47 40
  let busy := (List.finRange 3).any (fun (k : Fin 3) => let st := d.seqState p (if k = 0 then .f else if k = 1 then .b else .u); st == 1 || st == 2)
  .when d (firstOf
    [ refuseIf (moves && (b % 4 != 0 || decide (d.fld o 7 0 < b) || busy || d.locked p)) St.badDescriptor,
      refuseIf (d.locked p && !bit v 32 && d.pinBusy p) St.badDescriptor ])
    (fun d => ((if moves then d.remap p (d.pinBase p) (b * 2 ^ 30) else d).setFld o 47 40 b).setFlag o 32 (bit v 32))

/-! ## Working-shard entries (R158 to R161) -/

/-- Whether an entry may have an extent (R160): it lies in the partition's own bonded SRAM or interleaved LPDDR5X, and meets no other
enabled entry. Other backed memory is refused too (DESIGN CHOICE, log entry 144). -/
def Dev.wsbPlace (d : Dev) (p : PartId) (e : Nat) (x : Extent) : Bool :=
  x.hi ≤ x.lo ||
    ((match d.region x.lo with
      | some r => r.part == p && decide (x.hi ≤ (if r.kind = 0 then r.lo + d.pinBase p else r.hi)) && (r.kind == 0 || r.kind == 1)
      | none => false)
    && (List.range 64).all (fun k => k == e || !((d.wsbExt p k).overlaps x)))

/-- A write of WSBn_BASE or WSBn_CTRL (R159, R160). -/
def Dev.wsbWrite (d : Dev) (p : PartId) (e : Fin 64) (ctrl : Bool) (v : W64) : WOut :=
  let n := e.val
  let st := d.wsbState p n
  let size := if ctrl then bits v 63 32 else d.fld (R.wsbCtrl p n) 63 32
  let base := if ctrl then d.fld (R.wsbBase p n) 47 12 else bits v 47 12
  if ctrl && size = 0 && st = 2 && d.wsbRef p n = 0 then
    .ok (((d.setFld (R.wsbCtrl p n) 63 32 0).setFld (R.wsbCtrl p n) 25 24 0).setReg (R.wsbTag p n) 0xFFFFFFFFFFFFFFFF)
  else if st ≠ 0 ∨ d.wsbRef p n ≠ 0 ∨ !d.wsbPlace p n ⟨base * 4096, (base + size) * 4096⟩ then .no d St.badDescriptor
  else .ok (if ctrl then d.setFld (R.wsbCtrl p n) 63 32 size else d.setFld (R.wsbBase p n) 47 12 base)

/-- WSBn_REFADJ (R158, R161): REF stops at 0 and at 0xFFFF. -/
def Dev.wsbAdjust (d : Dev) (p : PartId) (e : Fin 64) (v : W64) : Dev :=
  let o := R.wsbCtrl p e.val
  let r : Int := (d.fld o 15 0 : Int) + sext 16 (bits v 15 0)
  if r < 0 then (d.setFld o 15 0 0).setFlag (R.eccStatus p) 6 true
  else if 0xFFFF < r then (d.setFld o 15 0 0xFFFF).setFlag (R.eccStatus p) 7 true
  else d.setFld o 15 0 r.toNat

/-! ## Retraining (R165, R166) -/

/-- Inserts a channel into those that wait, in ascending order. -/
def insChan (c : Fin 4) : List (Fin 4) → List (Fin 4)
  | [] => [c]
  | x :: t => if c < x then c :: x :: t else if c = x then x :: t else x :: insChan c t

/-- Queues a retraining: the one in progress stands first. -/
def queueChan (l : List (Fin 4)) (c : Fin 4) : List (Fin 4) :=
  match l with
  | [] => [c]
  | x :: t => x :: insChan c t

/-- BUSY follows the queue. -/
def Dev.trainBusy (d : Dev) (p : PartId) : Dev :=
  d.each (List.finRange 4) (fun d c => d.setFlag (R.memTrain p) (24 + c.val) ((d.part p).trainQ.contains c))

/-- A write of MEM_TRAIN (R166): FAILED is cleared where 1 is written, and each bit of REQ queues its channel; channels queued by one write
start in ascending order. -/
def Dev.memTrainWrite (d : Dev) (p : PartId) (v : W64) : Dev :=
  let req := (List.finRange 4).filter (fun c => bit v (28 + c.val))
  ((d.writeReg (R.memTrain p) v).modPart p (fun x => { x with trainQ := req.foldl queueChan x.trainQ })).trainBusy p

/-- A channel's retraining ends (R165): the duration of one that completed is in LAST. -/
def Dev.trainEnd (d : Dev) (p : PartId) : Dev := (d.modPart p (fun x => { x with trainQ := x.trainQ.tail })).trainBusy p

/-! ## Update units, noise, micro-batches (R210 to R212, R247, R248) -/

/-- A write of UPDc_OPEN (R211): 1 to VALID clears VALID, PHASE and ADDR. -/
def Dev.updOpenWrite (d : Dev) (p : PartId) (c : Fin 4) (v : W64) : Dev := if bit v 63 then d.setReg (R.updOpen p c) 0 else d

/-- A write of UPDc_STATUS (R210): 1 to FAULT clears CODE, FAULT_BLOCK and FAULT. -/
def Dev.updStatusWrite (d : Dev) (p : PartId) (c : Fin 4) (v : W64) : Dev :=
  let o := R.updStatus p c
  let d := d.writeReg o v
  if bit v 0 then (d.setFld o 63 56 0).setFld o 47 16 0 else d

/-- The write of a 32 KiB-aligned table address in the partition's own bonded SRAM; 0 disables the table (R212, R247). -/
def Dev.tableWrite (d : Dev) (p : PartId) (o : Nat) (v : W64) : WOut :=
  let a := bits v 47 15 * 2 ^ 15
  if a = 0 ∨ (sramBase p ≤ a ∧ a + 2 ^ 15 ≤ sramBase p + 2 ^ 28) then .ok (d.setFld o 47 15 (bits v 47 15)) else .no d St.badDescriptor

/-- A write of MB_POLICY (R248): tenant code does not change MIN and MAX; a tenant write that would is refused, its other fields taking
effect. -/
def Dev.mbWrite (d : Dev) (p : PartId) (tenant : Bool) (v : W64) : WOut :=
  let o := R.mbPolicy p
  let mn := if tenant then d.fld o 47 32 else Nat.max 1 (bits v 47 32)
  let mx := if tenant then d.fld o 63 48 else Nat.max mn (bits v 63 48)
  let nx := Nat.min mx (Nat.max mn (bits v 31 16))
  let changed := nx != d.fld o 31 16
  let d' := ((d.setFld o 63 48 mx).setFld o 47 32 mn).setFld o 31 16 nx
  let d' := if changed then d'.setFlag o 0 true else if bit v 0 then d'.setFlag o 0 false else d'
  (d', refuseIf (tenant && (bits v 63 48 != d.fld o 63 48 || bits v 47 32 != d.fld o 47 32)) St.noPermission)

/-! ## The commands -/

/-- Whether an agent is tenant code. -/
def isTenant : Agent → Bool
  | .tenantCode _ => true
  | _ => false

/-- SEQ_START (R138): START starts fetch at SEQx_PC when idle or halted and FAULT is 0. -/
def execSeqStart (a : Agent) (p : PartId) (q : Seq) (s : State) : Res := onAgent a (R.seqCtrl p q) (fun d => .ok (d.seqStart p q)) s

/-- SEQ_HALT_REQ (R138): HALT_REQ stops issue after the current instruction. -/
def execSeqHaltReq (a : Agent) (p : PartId) (q : Seq) (s : State) : Res := onAgent a (R.seqCtrl p q) (fun d => .ok (d.seqHalt p q)) s

/-- SEQ_FAULT_CLEAR (R140): Writing 1 to FAULT clears CODE and DROPPED and makes the stream halted. -/
def execSeqFaultClear (a : Agent) (p : PartId) (q : Seq) (s : State) : Res :=
  onAgent a (R.seqStatus p q) (fun d => .ok (d.seqFaultClear p q)) s

/-- SEQ_PC_WRITE (R139): Writes the sequencer PC when the stream is idle, halted or stopped. -/
def execSeqPcWrite (a : Agent) (p : PartId) (q : Seq) (v : W64) (s : State) : Res :=
  onAgent a (R.seqPc p q) (fun d => .ok (d.seqPcWrite p q v)) s

/-- A write of a sync counter acts as a CSET (R142, R133). -/
def execSyncCntWrite (a : Agent) (p : PartId) (n : Fin 512) (v : W64) (s : State) : Res :=
  onAgent a (R.syncCnt p n.val) (fun d => .ok (d.setCtr p n.val (BitVec.ofNat 32 (bits v 31 0)))) s

/-- MEM_PIN_WRITE (R150): Sets PIN_BASE and LOCK under their refusal rules. -/
def execMemPinWrite (a : Agent) (p : PartId) (v : W64) (s : State) : Res := onAgent a (R.memPin p) (fun d => d.memPinWrite p v) s

/-- WSB_CONFIG_WRITE (R160): Writes a working-shard entry's base or control, including freeing by SIZE 0. -/
def execWsbConfigWrite (a : Agent) (p : PartId) (e : Fin 64) (ctrl : Bool) (v : W64) (s : State) : Res :=
  onAgent a (if ctrl then R.wsbCtrl p e.val else R.wsbBase p e.val) (fun d => d.wsbWrite p e ctrl v) s

/-- WSB_REFADJ (R158): Adds a signed amount to an entry's REF with saturation flags. -/
def execWsbRefadj (a : Agent) (p : PartId) (e : Fin 64) (v : W64) (s : State) : Res :=
  onAgent a (R.wsbRefadj p e.val) (fun d => .ok (d.wsbAdjust p e v)) s

/-- MEM_TRAIN_REQ (R165): Queues a retraining of an LPDDR5X channel. -/
def execMemTrainReq (a : Agent) (p : PartId) (v : W64) (s : State) : Res := onAgent a (R.memTrain p) (fun d => .ok (d.memTrainWrite p v)) s

/-- DRIFT_CHECK (R165): the channel stalls for at most 2,048 memory cycles; nothing else changes. -/
def execDriftCheck (_ : PartId) (_ : Fin 4) (s : State) : Res := onDev id s

/-- UPD_OPEN_CLEAR (R211): Writing 1 to VALID clears UPDc_OPEN. -/
def execUpdOpenClear (a : Agent) (p : PartId) (c : Fin 4) (s : State) : Res :=
  onAgent a (R.updOpen p c) (fun d => .ok (d.updOpenWrite p c (BitVec.ofNat 64 (2 ^ 63)))) s

/-- UPD_FAULT_CLEAR (R210): Writing 1 to FAULT clears CODE, FAULT_BLOCK and FAULT of an update unit. -/
def execUpdFaultClear (a : Agent) (p : PartId) (c : Fin 4) (s : State) : Res :=
  onAgent a (R.updStatus p c) (fun d => .ok (d.updStatusWrite p c 1)) s

/-- UPD_WATCH_WRITE (R212): Sets the watch table base, refusing memory outside own bonded SRAM. -/
def execUpdWatchWrite (a : Agent) (p : PartId) (v : W64) (s : State) : Res := onAgent a (R.updWatch p) (fun d => d.tableWrite p (R.updWatch p) v) s

/-- COLL_NOISE_WRITE (R247): Sets the noise table base, refusing other memory. -/
def execCollNoiseWrite (a : Agent) (p : PartId) (v : W64) (s : State) : Res := onAgent a (R.collNoise p) (fun d => d.tableWrite p (R.collNoise p) v) s

/-- MB_POLICY_WRITE (R248): Writes MIN, MAX and NEXT of the micro-batch policy with clamping. -/
def execMbPolicyWrite (a : Agent) (p : PartId) (v : W64) (s : State) : Res := onAgent a (R.mbPolicy p) (fun d => d.mbWrite p (isTenant a) v) s

end Sys2Proof.Machine
end

