-- ==== Sys2Proof/Machine/Wsb.lean ====
section
/-! DEFINITION. The events of working-shard entries (R156): a writer that has waited starts, and an entry whose writer has completed
is tagged. -/
namespace Sys2Proof.Machine

/-- Whether a destination lies in an entry. -/
def Dev.names (d : Dev) (x : Desc) (pe : PartId × Nat) : Bool := x.tagchk && d.wsbOf x.base == some pe

/-- Whether a move engine's next instruction waits on an entry (R156). -/
def Dev.moveWaits (d : Dev) (t : PartId) (n : Nat) (pe : PartId × Nat) : Bool :=
  match (d.part t).moveHead n with
  | some i => i.opc != 0x64 && d.names i.d pe
  | none => false

/-- Whether an update unit's next instruction of some port waits on an entry (R195, R210). -/
def Dev.updWaits (d : Dev) (t : PartId) (c : Fin 4) (pe : PartId × Nat) : Bool :=
  ((d.part t).units[c]).heads.any (fun i => d.names i.d pe)

/-- Operations of the collective engine that wait on an entry (R156, R170). -/
def Dev.collWaits (d : Dev) (pe : PartId × Nat) : List CollOp :=
  d.coll.ops.filter (fun x => x.phase == .waitDest && (d.names x.d pe || x.aux.toList.any (fun y => d.names y pe)))

/-- Whether a move engine's next instruction is kept from starting by an entry (R156, R160). -/
def Dev.moveStuck (d : Dev) (t : PartId) (n : Nat) (pe : PartId × Nat) : Bool :=
  match (d.part t).moveHead n with
  | some i => i.opc != 0x64 && d.names i.d pe && !d.wsbFree pe i.step
  | none => false

/-- Whether a UPD of an update unit holds working values that an entry does not take yet (R195, R160). -/
def Dev.updStuck (d : Dev) (t : PartId) (c : Fin 4) (pe : PartId × Nat) : Bool :=
  ((d.part t).units[c]).heads.any (fun i => !i.held.isEmpty && d.names i.d pe && !d.wsbFree pe i.step && !d.dstFilling i.d t i.port i.id)

/-- WAITER of an entry (R160): some writer waits because the entry is not free for its version (R156). -/
def Dev.wsbWaiter (d : Dev) (p : PartId) (e : Nat) : Bool :=
  allParts.any (fun t => (List.range 4).any (fun n => d.moveStuck t n (p, e)) || (List.finRange 4).any (fun c => d.updStuck t c (p, e)))
    || (d.collWaits (p, e)).any (fun x => !d.wsbFree (p, e) x.step)

/-- The waiting writers of an entry that may now write it start (R156, R195, R170). -/
def Dev.wsbStart (d : Dev) (p : PartId) (e : Nat) : Dev :=
  let d := d.each allParts (fun d t =>
    let d := d.each (List.range 4) (fun d n => if d.moveWaits t n (p, e) then d.moveRun t n else d)
    if (List.finRange 4).any (fun c => d.updWaits t c (p, e)) then d.unitsGo t else d)
  (d.each (d.collWaits (p, e)) (fun d x => match d.collGroup x with
    | some g => d.collGo g x
    | none => d)).collKick

/-- WSB_WRITE_START (R156): REF is 0 and the entry is not filling. -/
def execWsbWriteStart (p : PartId) (e : Fin 64) (s : State) : Res :=
  onDev (fun d => if d.wsbRef p e.val = 0 ∧ d.wsbState p e.val ≠ 1 then d.wsbStart p e.val else d) s

/-- Whether the instruction that fills an entry has written all of it: it is in flight, and its unit holds it no more. -/
def Dev.fillWritten (d : Dev) (w : WFill) : Bool :=
  d.fillLive w && w.cls != .collective
    && !(d.part w.part).mq.any (fun i => i.port.num == w.port.num && i.id == w.id)
    && (List.finRange 4).all (fun c => !((d.part w.part).units[c]).q.any (fun i => i.port.num == w.port.num && i.id == w.id))

/-- WSB_FILL_COMPLETE (R156): the writing instruction completes, the entry takes its tag and becomes valid. A collective tags its entries
as it completes (COLL_COMPLETE). -/
def execWsbFillComplete (p : PartId) (e : Fin 64) (s : State) : Res :=
  onDev (fun d =>
    match Tab.find (d.part p).fill e.val with
    | some w => if d.wsbState p e.val = 1 && d.fillWritten w then (d.wsbEnd (p, e.val) w.version).complete w.part w.port w.id else d
    | none => d) s

end Sys2Proof.Machine
end

