-- ==== Sys2Proof/Machine/Armature.lean ====
section
/-! DEFINITION. Armature images (R230 to R232) and their install (R233, R243, R244, R278). -/
namespace Sys2Proof.Machine

/-! ## Images (R230, R231) -/

/-- The little-endian field of `n` bytes at offset `o` of a run of bytes. -/
def leAt (l : List Byte) (o n : Nat) : Nat := leNat (sliceB l o n)

/-- The big-endian field of an address that travels on the wire (R301). -/
def beAt (l : List Byte) (o n : Nat) : Nat := beNat (sliceB l o n)

def entRanks (l : List Byte) : Nat := leAt l 0x00 8
def entSize (l : List Byte) : Nat := leAt l 0x08 4
def entOwn (l : List Byte) : Nat := leAt l 0x0C 2
def entGroup (l : List Byte) : Nat := leAt l 0x0E 2
def entTopo (l : List Byte) : Nat := leAt l 0x10 1
def entDegree (l : List Byte) : Nat := leAt l 0x11 1
def entBuddy (l : List Byte) : Nat := leAt l 0x12 1
def entWindow (l : List Byte) : Nat := leAt l 0x13 1
def entSeg (l : List Byte) : Nat := leAt l 0x14 2
def entLif (l : List Byte) : Nat := leAt l 0x16 1
def entTclass (l : List Byte) : Nat := leAt l 0x17 1
def entOrder (l : List Byte) : Nat := leAt l 0x18 8
def entBuddies (l : List Byte) : Nat := leAt l 0x20 8
def entRelays (l : List Byte) : Nat := leAt l 0x28 8
def entWdog (l : List Byte) : Nat := leAt l 0x30 1

/-- The fields of a group entry against R230 and the tenant's group range (R378). -/
def Dev.entryOk (d : Dev) (t : TenantId) (l : List Byte) : Bool :=
  let n := entSize l
  let base := d.fld (R.tenCfg t) 31 20
  let cnt := d.fld (R.tenCfg t) 19 7
  decide (entRanks l < 2 ^ 48) && decide (1 ≤ n) && decide (n ≤ 65536) && decide (entOwn l < n) && decide (base ≤ entGroup l)
    && decide (entGroup l < base + cnt) && decide (entGroup l < 4096) && decide (entTopo l ≤ 3)
    && (if entTopo l = 2 then decide (2 ≤ entDegree l) && decide (entDegree l ≤ 16) else entDegree l == 0)
    && decide (entBuddy l ≤ 1) && decide (1 ≤ entWindow l) && decide (entWindow l ≤ 64)
    && decide (32 ≤ entSeg l) && decide (entSeg l ≤ 8192) && entSeg l % 32 == 0 && decide (entLif l < 8) && decide (entTclass l < 8)
    && (if entBuddy l = 1 then entBuddies l != 0 else entBuddies l == 0) && (entWdog l == 0 || (decide (16 ≤ entWdog l) && decide (entWdog l ≤ 30)))
    && (l.drop 0x31).all (· == 0) && (d.tenantLif t (entLif l)).isSome

/-- One rank of a rank table (R231). -/
def rankOf (l : List Byte) : Rank :=
  { ip := BitVec.ofNat 128 (beAt l 0 16), mac := BitVec.ofNat 48 (beAt l 0x10 6), part := Fin.ofNat 16 (leAt l 0x16 1),
    self := leAt l 0x17 1 % 2 == 1, lost := leAt l 0x17 1 / 2 % 2 == 1, relay := BitVec.ofNat 16 (leAt l 0x18 2),
    port := BitVec.ofNat 16 (leAt l 0x1A 2), module := BitVec.ofNat 32 (leAt l 0x1C 4) }

def Dev.rankTable (d : Dev) (l : List Byte) : List Rank := (List.range (entSize l)).map (fun r => rankOf (d.rd (entRanks l + 32 * r) 32))

/-- A table of 2-byte values. -/
def Dev.halfTable (d : Dev) (a n : Nat) : List Nat := (List.range n).map (fun k => d.rdN (a + 2 * k) 2)

/-- Relay paths that the ranks name (R231). -/
def relayCount (rs : List Rank) : Nat := (rs.map (fun r => if r.relay = 0xFFFF then 0 else r.relay.toNat + 1)).foldl Nat.max 0

/-- A relay path entry: its hop count and its ranks. -/
def relayPath (l : List Byte) : List Nat := (List.range (leAt l 0 1)).map (fun k => leAt l (2 + 2 * k) 2)

/-- The device ranges of an entry's tables. -/
def Dev.entRanges (d : Dev) (l : List Byte) : List (Int × Int) :=
  let n := entSize l
  let at' := fun (a k : Nat) => if a = 0 then [] else [((a : Int), (a : Int) + k)]
  [((entRanks l : Int), (entRanks l : Int) + 32 * n)] ++ at' (entOrder l) (2 * n) ++ at' (entBuddies l) (2 * n)
    ++ at' (entRelays l) (32 * relayCount (d.rankTable l))

/-- The group that an entry describes, its tables resolved (R231, R232). -/
def Dev.groupFrom (d : Dev) (t : TenantId) (l : List Byte) : Group :=
  let n := entSize l
  let rs := d.rankTable l
  let order := if entOrder l = 0 then List.range n else d.halfTable (entOrder l) n
  let pos := fun r => (indexIn order r).getD 0
  let buddies : List (Option Nat) :=
    if entBuddy l = 1 then (d.halfTable (entBuddies l) n).map some
    else (List.range n).map (fun r => if n ≤ 1 then none else order[(pos r + n - 1) % n]?)
  { tenant := t, ranks := rs, own := entOwn l, topo := entTopo l, degree := entDegree l, window := entWindow l, segElems := entSeg l,
    lif := entLif l, tclass := entTclass l, order := order, buddies := buddies,
    relays := (List.range (relayCount rs)).map (fun k => relayPath (d.rd (entRelays l + 32 * k) 32)),
    wdog := if entWdog l = 0 then 24 else entWdog l, entry := l }

/-- The bytes of a group's largest payload (R225): a segment of SEG_ELEMS elements of the widest format, within 8,448 bytes; the byte streams of
casts, CRSH and CKV, which no tree carries, fill 8,448 (R214, R256). -/
def Group.maxPayload (g : Group) : Nat := if g.topo = 2 then Nat.min 8448 (4 * g.segElems) else 8448

/-- Whether the tables and frames of a group meet R225, R231 and R232. -/
def Dev.groupOk (d : Dev) (l : List Byte) (g : Group) : Bool :=
  let n := g.n
  g.order.all (fun r => decide (r < n)) && g.order.eraseDups.length == n
    && (g.buddies.mapIdx (fun r b => (r, b))).all (fun e => match e.2 with
      | some b => decide (b < n) && (b != e.1 || entBuddy l == 0)
      | none => true)
    && (List.range n).all (fun r => d.rdN (entRanks l + 32 * r + 0x16) 1 < 16 && d.rdN (entRanks l + 32 * r + 0x17) 1 < 4)
    && (if relayCount g.ranks = 0 then entRelays l == 0 else entRelays l != 0)
    && (List.range g.relays.length).all (fun k => let c := d.rdN (entRelays l + 32 * k) 1; 1 ≤ c && c ≤ 15)
    && g.relays.all (fun q => q.all (fun r => decide (r < n)))
    && (match d.tenantLif g.tenant g.lif with
      | some k => g.ranks.all (fun r => decide (d.frameLen k r.ip (64 + g.maxPayload) ≤ d.lifMax k))
      | none => false)

/-! ## Install (R233) -/

/-- Whether an install changes the entry of a group. -/
def Dev.installChanges (d : Dev) (x : Install) (n : Nat) : Bool :=
  match Tab.find d.coll.groups n with
  | some g => g.tenant == x.tenant && (x.groups.find? (fun e => e.1 == n)).map (·.2) != some g
  | none => x.groups.any (fun e => e.1 == n)

/-- Operations in progress on a group whose entry an install changes. -/
def Dev.installStops (d : Dev) (x : Install) : List CollOp :=
  d.coll.ops.filter (fun y => y.running && y.tenant == x.tenant && d.installChanges x y.grp)

/-- FORCE: those operations stop at once with MEMBER_LOST. -/
def Dev.installForce (d : Dev) (x : Install) : Dev :=
  d.each (d.installStops x) (fun d y => d.collFault y St.memberLost (y.pc / 8))

/-- An incident entry is closed (R413). -/
def Dev.incClose (d : Dev) (n : Nat) : Dev :=
  match Tab.find d.inc n with
  | some e => ({ d with inc := Tab.put d.inc n { e with isOpen := false } }).incRecount
  | none => d

/-- A change of a tenant's armature epoch closes its incidents (R413). -/
def Dev.incEpoch (d : Dev) (t : TenantId) : Dev :=
  d.each ((d.inc.filter (fun e => e.2.isOpen && e.2.tenant == t.val)).map (·.1)) Dev.incClose

/-- ARM_STATUS of the partition whose install took effect or was refused (R244). -/
def Dev.armReport (d : Dev) (p : PartId) (c : Status) : Dev :=
  ((d.setFld (R.armStatus p) 63 56 c.toNat).setFld (R.armStatus p) 55 52 0).setFlag (R.armStatus p) 32 true

/-- A tenant's group range. -/
def Dev.inRange (d : Dev) (t : TenantId) (n : Nat) : Bool :=
  decide (d.fld (R.tenCfg t) 31 20 ≤ n) && decide (n < d.fld (R.tenCfg t) 31 20 + d.fld (R.tenCfg t) 19 7)

/-- The group and rank that receive the mirror; none where EN is 0, the group is not installed, or the buddy is none or LOST (R265). -/
def Dev.plogBuddy (d : Dev) (p : PartId) : Option (Group × Rank) :=
  if !bit (d.reg (R.plogCtrl p)) 63 then none
  else match d.tenantOf p with
    | none => none
    | some t =>
      match d.groupOf t (d.fld (R.plogCtrl p) 62 51) with
      | none => none
      | some g =>
        match g.buddy g.own with
        | some b => if g.lost b then none else some (g, g.rank b)
        | none => none

/-- MIRRORED follows HEAD (R265). -/
def Dev.plogFollow (d : Dev) (p : PartId) : Dev := d.setFld (R.plogPos p) 31 0 (d.fld (R.plogPos p) 63 32)

/-- A change of the groups lets MIRRORED of a tenant's partitions follow HEAD where no buddy receives the mirror (R265). -/
def Dev.plogInstall (d : Dev) (t : TenantId) : Dev :=
  d.each (allParts.filter (fun p => d.holds t p && (d.plogBuddy p).isNone)) (fun d p => d.plogFollow p)

/-- An install takes effect (R233, R216): the tenant's entries are those of the image, its armature epoch the image's, and its numbers
restart at 0. -/
def Dev.installNow (d : Dev) (x : Install) : Dev :=
  let keep := d.coll.groups.filter (fun e => e.2.tenant != x.tenant)
  let groups := x.groups.foldl (fun t e => Tab.put t e.1 e.2) keep
  let d := { d with coll := { d.coll with
    groups := groups, nextNum := d.coll.nextNum.filter (fun e => !d.inRange x.tenant e.1),
    installs := d.coll.installs.filter (fun y => y.tenant != x.tenant),
    adverts := d.coll.adverts.filter (fun v => v.tenant != x.tenant || v.armEp == x.epoch) } }
  ((((d.setFld (R.collEpoch x.tenant) 63 32 x.epoch.toNat).incEpoch x.tenant).armReport x.part St.ok).plogInstall x.tenant).collKick

/-- The entries of an image. -/
def Dev.imageEntries (d : Dev) (a : Nat) : List (List Byte) := (List.range (d.rdN (a + 4) 2)).map (fun k => d.rd (a + 64 + 64 * k) 64)

/-- What refuses an install (R233), and what it installs. -/
def Dev.installCheck (d : Dev) (p : PartId) (t : TenantId) (a : Nat) : Option Status :=
  let reach := fun (e : Int × Int) => d.reachMem p Reach.move false e
  match reach ((a : Int), (a : Int) + 64) with
  | some c => some c
  | none =>
    let cnt := d.rdN (a + 4) 2
    match firstOf
      [ refuseIf (!(seqGt (BitVec.ofNat 32 (d.rdN a 4)) (d.armEpoch t))) St.epochStale,
        refuseIf (d.coll.installs.any (fun i => i.tenant == t) || decide (4096 < cnt) || !((d.rd (a + 6) 58).all (· == 0))) St.badDescriptor,
        reach ((a : Int), (a : Int) + 64 + 64 * cnt) ] with
    | some c => some c
    | none =>
      let es := d.imageEntries a
      if !es.all (d.entryOk t) then some St.badDescriptor
      else match firstOf (es.flatMap (fun l => ((d.entRanges l).map reach))) with
        | some c => some c
        | none => refuseIf (!es.all (fun l => d.groupOk l (d.groupFrom t l))) St.badDescriptor

/-- A write of ARM_INSTALL (R243): FORCE and ADDR take the written values; GO starts an install. -/
def Dev.armWrite (d : Dev) (p : PartId) (v : W64) : Dev :=
  let d := d.writeReg (R.armInstall p) v
  if !bit v 63 then d
  else
    let a := bits v 47 6 * 64
    let refuse := fun (c : Status) => (d.setFld (R.armStatus p) 63 56 c.toNat).setFlag (R.armStatus p) 32 true
    match d.tenantOf p with
    | none => refuse St.noPermission
    | some t =>
      match d.installCheck p t a with
      | some c => refuse c
      | none =>
        let x : Install := ⟨t, p, BitVec.ofNat 32 (d.rdN a 4), (d.imageEntries a).map (fun l => (entGroup l, d.groupFrom t l))⟩
        let d := ({ d with coll := { d.coll with installs := d.coll.installs ++ [x] } }).setFld (R.armStatus p) 55 52 (if bit v 62 then 2 else 1)
        if bit v 62 then d.installForce x else d

/-- ARM_INSTALL_GO (R233, R243). -/
def execArmInstallGo (a : Agent) (p : PartId) (v : W64) (s : State) : Res := onAgent a (R.armInstall p) (fun d => .ok (d.armWrite p v)) s

/-- ARM_INSTALL_APPLY (R233): no operation of the tenant is in progress on a group whose entry changes. -/
def execArmInstallApply (t : TenantId) (s : State) : Res :=
  onDev (fun d =>
    match d.coll.installs.find? (fun i => i.tenant == t) with
    | none => d
    | some x => if (d.installStops x).isEmpty then d.installNow x else d) s

end Sys2Proof.Machine
end

