-- ==== Sys2Proof/Machine/Report.lean ====
section
/-! DEFINITION. Fault reports to other modules (R411, R412). -/
namespace Sys2Proof.Machine

/-- The 64 bytes of a report or of an incident record (R411). -/
def reportBytes (kind suspect part : Nat) (st : Status) (gen reporter number count : Nat) (first last step : W64) (epoch : Nat) : List Byte :=
  leBytes 4 kind ++ leBytes 4 suspect ++ leBytes 1 part ++ [st] ++ leBytes 2 (gen % 4096) ++ leBytes 4 reporter ++ leBytes 8 number
    ++ leBytes 4 count ++ leBytes 4 0 ++ leBytes 8 first.toNat ++ leBytes 8 last.toNat ++ leBytes 8 step.toNat ++ leBytes 4 epoch ++ leBytes 4 0

/-- A suspect of a tenant: MODULE, partition or 0xFF, status, generation. -/
structure Suspect where
  tenant : TenantId
  module : BitVec 32
  part : Nat
  status : Status
  gen : Nat
deriving DecidableEq, Repr

/-- The rate limiter's key (R412). -/
def Suspect.key (k : Suspect) : BitVec 96 :=
  BitVec.ofNat 96 (k.tenant.val * 2 ^ 60 + k.module.toNat * 2 ^ 28 + k.part % 256 * 2 ^ 20 + k.gen % 4096 * 2 ^ 8 + k.status.toNat)

/-- Ranks of a tenant's groups that hold a module, one for each other module (R412, R277). -/
def Dev.reportRanks (d : Dev) (t : TenantId) (m : BitVec 32) : List (Group × Rank) :=
  let gs := (d.coll.groups.map (·.2)).filter (fun g => g.tenant == t && g.ranks.any (fun r => r.module == m))
  let all := gs.flatMap (fun g => g.ranks.map (fun r => (g, r)))
  all.foldl (fun l e => if e.2.module.toNat = d.moduleId ∨ l.any (fun x => x.2.module == e.2.module) then l else l ++ [e]) []

/-- Sends one report to the management island of a rank's module. -/
def Dev.reportTo (d : Dev) (k : Suspect) (e : Group × Rank) (bytes : List Byte) : Dev :=
  match d.tenantLif e.1.tenant e.1.lif with
  | none => d
  | some lif =>
    match d.flowTo k.tenant .mgmt lif e.1.tclass e.2.ip (if e.2.port = 0 then 51430 else e.2.port) e.2.mac 0 true with
    | none => d
    | some (n, d) => d.send n 0x0E 0 0 bytes .report

/-- Sends a report of `count` detections, the first at local count `first`, to every member that R412 names; `but` leaves a module out. -/
def Dev.reportAll (d : Dev) (k : Suspect) (count : Nat) (first step : W64) (but : Option (BitVec 32)) : Dev :=
  let bytes := reportBytes 0 k.module.toNat k.part k.status k.gen d.moduleId 0 count first 0 step (d.armEpoch k.tenant).toNat
  d.each ((d.reportRanks k.tenant k.module).filter (fun e => some e.2.module != but)) (fun d e => d.reportTo k e bytes)

/-- A detection about a suspect (R412): a report at most once per 131,072 management cycles and key; detections in between add to the
next report. -/
def Dev.report (d : Dev) (k : Suspect) (step : W64) : Dev :=
  let now := d.localCount
  match d.reports.find? (fun e => e.1 == k.key) with
  | some (_, sent, n, first) =>
    let rest := d.reports.filter (fun e => e.1 != k.key)
    if 131072 ≤ (now - sent).toNat then
      { d.reportAll k (n + 1) (if n = 0 then now else first) step none with reports := rest ++ [(k.key, now, 0, now)] }
    else { d with reports := rest ++ [(k.key, sent, n + 1, if n = 0 then now else first)] }
  | none => { d.reportAll k 1 now step none with reports := d.reports ++ [(k.key, now, 0, now)] }

end Sys2Proof.Machine
end

