-- ==== Sys2Proof/Machine/Restore.lean ====
section
/-! DEFINITION. The pointing log (R264 to R266, R289 to R291), restores (R277, R278, R283, R294) and maquettes (R287, R288, R295). -/
namespace Sys2Proof.Machine

/-! ## The pointing log -/

/-- SIZE_LOG2 and address of slot 0 of a ring register (R289). -/
def Dev.plogRing (d : Dev) (p : PartId) (mirror : Bool) : Nat × Nat :=
  let o := if mirror then R.plogMirror p else R.plogRing p
  (d.fld o 63 58, d.fld o 47 6 * 64)

/-- Records of a ring; a disabled ring holds none. -/
def ringLen (sizeLog2 : Nat) : Nat := if sizeLog2 = 0 then 0 else 2 ^ sizeLog2

/-- A write of PLOG_RING or PLOG_MIRROR (R289). -/
def Dev.plogRingWrite (d : Dev) (p : PartId) (mirror : Bool) (v : W64) : WOut :=
  let k := bits v 63 58
  .when d (refuseIf ((k != 0 && (decide (k < 10) || decide (24 < k))) || bit (d.reg (R.plogCtrl p)) 63) St.badDescriptor)
    (fun d => d.writeReg (if mirror then R.plogMirror p else R.plogRing p) v)

/-- Address of a record of the own ring, where it lies in memory the tenant reaches. -/
def Dev.plogAt (d : Dev) (p : PartId) (mirror : Bool) (n : Nat) : Option Nat :=
  let r := d.plogRing p mirror
  let a := r.2 + 64 * (n % Nat.max 1 (ringLen r.1))
  if r.1 = 0 ∨ (d.reachMem p Reach.move true ((a : Int), (a : Int) + 64)).isSome then none else some a

/-- Notes whether records from MIRRORED on are still to be sent. -/
def Dev.logOwe (d : Dev) (p : PartId) (b : Bool) : Dev := d.modPart p (fun x => { x with logOwes := b })

/-- Records from MIRRORED to HEAD. -/
def Dev.plogBehind (d : Dev) (p : PartId) : Nat := (d.fld (R.plogPos p) 63 32 + 2 ^ 32 - d.fld (R.plogPos p) 31 0) % 2 ^ 32

/-- Sends records `n`, `n + 1`, ... to the buddy's mirror ring, each as one WIN_WRITE (R265; log entry 40). Where records before them could not be
sent or were lost on the way, sending begins at MIRRORED. -/
def Dev.plogSend (d : Dev) (p : PartId) (n cnt : Nat) : Dev :=
  match d.plogBuddy p with
  | none => (d.plogFollow p).logOwe p false
  | some (g, r) =>
    if bit (d.reg (R.plogCtrl p)) 33 then d
    else match d.rankFlow p g r with
      | none => d.logOwe p true
      | some (f, d) =>
        let owes := (d.part p).logOwes
        let n := if owes then d.fld (R.plogPos p) 31 0 else n
        let cnt := if owes then d.plogBehind p else cnt
        (d.logOwe p false).each (List.range cnt) (fun d k =>
          let s := (n + k) % 2 ^ 32
          match d.plogAt p false s with
          | none => d
          | some a => d.send f 0x06 0 0x3FFF
              (leBytes 8 (64 * (s % Nat.max 1 (ringLen (d.plogRing p false).1))) ++ leBytes 4 0 ++ [0, 0, 0, 0] ++ d.rd a 64)
              (.plog p (BitVec.ofNat 32 s)))

/-- Records that found no flow context are sent once one is free (R265, R324). -/
def Dev.plogResume (d : Dev) : Dev := d.each allParts (fun d p => if (d.part p).logOwes then d.plogSend p 0 0 else d)

/-- The partition writes LOGSEQ and CRC into a record (R264). -/
def Dev.plogStamp (d : Dev) (p : PartId) (s : Nat) : Dev :=
  match d.plogAt p false s with
  | none => d
  | some a =>
    let d := d.wr (a + 0x38) (leBytes 4 s)
    d.wr (a + 0x3C) (leBytes 4 (crc32c (d.rd a 60)))

/-- A write of PLOG_POS (R265, R291): HEAD moves on by 0 to 4,096 records within the ring, or the write is refused and sets FULL. -/
def Dev.plogHeadWrite (d : Dev) (p : PartId) (v : W64) : Dev :=
  let head := d.fld (R.plogPos p) 63 32
  let tail := d.fld (R.plogCtrl p) 31 0
  let new := bits v 63 32
  let n := (new + 2 ^ 32 - head) % 2 ^ 32
  if 4096 < n ∨ ringLen (d.plogRing p false).1 < (new + 2 ^ 32 - tail) % 2 ^ 32 then d.setFlag (R.plogCtrl p) 32 true
  else
    let d := (d.each (List.range n) (fun d k => d.plogStamp p ((head + k) % 2 ^ 32))).setFld (R.plogPos p) 63 32 new
    d.plogSend p head n

/-- A write of PLOG_CTRL (R290): where it clears REFUSED, sending resumes from MIRRORED. -/
def Dev.plogCtrlWrite (d : Dev) (p : PartId) (v : W64) : Dev :=
  let o := R.plogCtrl p
  let was := bit (d.reg o) 33
  let d := d.writeReg o v
  if (d.plogBuddy p).isNone then d.plogFollow p
  else if was && bit v 33 then (d.logOwe p true).plogSend p 0 0
  else d

/-- The buddy has acknowledged a record (R265): MIRRORED passes it and CTR advances. -/
def Dev.plogAcked (d : Dev) (p : PartId) (s : BitVec 32) : Dev :=
  if d.fld (R.plogPos p) 31 0 = s.toNat then (d.bumpWrap (R.plogPos p) 31 0 1).addCtr p (d.fld (R.plogCtrl p) 50 42) 1 else d

/-- The buddy cannot take the mirror (R265): sending stops; MIRRORED comes to stand at the refused record as the records before it are
acknowledged. -/
def Dev.plogRefused (d : Dev) (p : PartId) (s : BitVec 32) : Dev :=
  if (s.toNat + 2 ^ 32 - d.fld (R.plogPos p) 31 0) % 2 ^ 32 < 2 ^ 31 ∧ bit (d.reg (R.plogCtrl p)) 33 = false then
    (d.setFlag (R.plogCtrl p) 33 true).record p 0x14 St.noPermission 0 0 (d.part p).ps.step
  else d

/-- Records of a mirror write received here (R265, R334): each is stored in its slot where its CRC is right; `none` where one is not. -/
def Dev.plogTake (d : Dev) (p : PartId) (data : List Byte) : Nat → Option Dev
  | 0 => some d
  | n + 1 =>
    if data.isEmpty then some d
    else
      let r := sliceB data 0 64
      if leAt r 0x3C 4 != crc32c (r.take 60) then none
      else
        let d := match d.plogAt p true (leAt r 0x38 4) with
          | some a => d.wr a r
          | none => d
        d.plogTake p (data.drop 64) n

/-- PLOG_RING_WRITE (R289): Configures the size and base of a pointing log ring. -/
def execPlogRingWrite (a : Agent) (p : PartId) (mirror : Bool) (v : W64) (s : State) : Res :=
  onAgent a (if mirror then R.plogMirror p else R.plogRing p) (fun d => d.plogRingWrite p mirror v) s

/-- PLOG_HEAD_WRITE (R265): Appends pointing log records and starts mirroring them to the buddy. -/
def execPlogHeadWrite (a : Agent) (p : PartId) (v : W64) (s : State) : Res := onAgent a (R.plogPos p) (fun d => .ok (d.plogHeadWrite p v)) s

/-- PLOG_REFUSED_CLEAR (R290): Writing 1 to REFUSED resumes mirroring from MIRRORED. -/
def execPlogRefusedClear (a : Agent) (p : PartId) (v : W64) (s : State) : Res :=
  onAgent a (R.plogCtrl p) (fun d => .ok (d.plogCtrlWrite p v)) s

/-! ## The successor armature (R278) -/

/-- The rank entry of a lost rank in the successor, taken from its buddy's. -/
def successorRank (g : Group) (m : BitVec 32) (r : Nat) (e : Rank) : Rank :=
  if e.module = m then
    match g.buddy r with
    | some b =>
      let x := g.rank b
      { e with ip := x.ip, mac := x.mac, part := x.part, relay := x.relay, port := x.port, lost := true, self := b == g.own }
    | none => e
  else e

/-- The successor of a group for the loss of module `m`. -/
def Group.successor (g : Group) (m : BitVec 32) : Group :=
  let gone := fun r => (g.rank r).module == m
  { g with
    ranks := g.ranks.mapIdx (successorRank g m),
    buddies := g.buddies.mapIdx (fun r b => if gone r || (match b with
      | some x => gone x
      | none => false) then none else b) }

/-- Whether the lost module ran a lost rank of the group: its shard then has no buddy left (R278, R279). -/
def Group.lostAgain (g : Group) (m : BitVec 32) : Bool :=
  g.ranks.any (fun x => x.lost && g.ranks.any (fun y => y.module == m && !y.lost && y.ip == x.ip && y.part == x.part))

/-- What keeps the restore from installing (R278): no buddy or a lost one; a relay path through the lost module. -/
def Group.noSuccessor (g : Group) (m : BitVec 32) : Option Status :=
  let lost := (List.range g.n).filter (fun r => (g.rank r).module == m)
  firstOf
    [ refuseIf (g.lostAgain m || lost.any (fun r => match g.buddy r with
        | some b => g.lost b
        | none => true)) St.memberLost,
      refuseIf (!lost.isEmpty && g.relays.any (fun q => q.any (fun r => (g.rank r).module == m))) St.linkLost ]

/-- Bytes of the successor image (R230, R231): header, entries, and the tables of changed groups (log entry 41). -/
def imageSize (gs : List Group) (m : BitVec 32) : Nat :=
  64 + 64 * gs.length + ((gs.filter (fun g => g.ranks.any (fun r => r.module == m))).map (fun g => 34 * g.n)).foldl (· + ·) 0

/-- The 32 bytes of a rank entry (R231). -/
def Rank.bytes (e : Rank) : List Byte :=
  beBytes 16 e.ip.toNat ++ beBytes 6 e.mac.toNat ++ leBytes 1 e.part.val ++ leBytes 1 (b2n e.self + 2 * b2n e.lost) ++ leBytes 2 e.relay.toNat
    ++ leBytes 2 e.port.toNat ++ leBytes 4 e.module.toNat

/-- The tables of a changed group: its ranks, then its buddies, none as 0xFFFF (log entry 41). -/
def Group.tables (g : Group) : List Byte :=
  g.ranks.flatMap Rank.bytes ++ (List.range g.n).flatMap (fun r => leBytes 2 ((g.buddy r).getD 0xFFFF))

/-- The entries of a successor image, those of changed groups with the addresses of their tables from `a` on. -/
def successorEntries (m : BitVec 32) : Nat → List (Nat × Group) → List (Nat × Group)
  | _, [] => []
  | a, (n, g) :: t =>
    if g.ranks.any (fun r => r.module == m) then
      let e := patchB (patchB (patchB g.entry 0 (leBytes 8 a)) 0x12 [1]) 0x20 (leBytes 8 (a + 32 * g.n))
      (n, { g.successor m with entry := e }) :: successorEntries m (a + 34 * g.n) t
    else (n, g) :: successorEntries m a t

/-- The successor image (R278): header, entries, then the tables of the changed groups (R230, R231, log entry 41). -/
def successorImage (epoch : BitVec 32) (m : BitVec 32) (gs : List (Nat × Group)) : List Byte :=
  leBytes 4 epoch.toNat ++ leBytes 2 gs.length ++ List.replicate 58 0 ++ gs.flatMap (fun e => e.2.entry)
    ++ (gs.filter (fun e => e.2.ranks.any (fun r => r.module == m))).flatMap (fun e => e.2.tables)

/-- The members of the changed groups are told of the loss (R277). -/
def Dev.restoreReport (d : Dev) (t : TenantId) (m : BitVec 32) (step : W64) : Dev :=
  d.reportAll ⟨t, m, 0xFF, St.memberLost, 0⟩ 1 d.localCount step (some m)

/-- Step ARM of a restore: the device, and the status that ends the restore. -/
def Dev.restoreArm (d : Dev) (p : PartId) (t : TenantId) (m : BitVec 32) (image size : Nat) : Dev × Option Status :=
  let mine := d.coll.groups.filter (fun e => e.2.tenant == t)
  let need := imageSize (mine.map (·.2)) m
  match firstOf (mine.map (fun e => e.2.noSuccessor m) ++ [ refuseIf (decide (size < need)) St.badDescriptor,
      d.reachMem p Reach.move true ((image : Int), (image : Int) + need) ]) with
  | some c => (d, some c)
  | none =>
    let gs := successorEntries m (image + 64 + 64 * mine.length) mine
    let x : Install := ⟨t, p, d.armEpoch t + 1, gs⟩
    ((((d.wr image (successorImage x.epoch m gs)).installForce x).installNow x).restoreReport t m (d.part p).ps.step, none)

/-! ## Rebuilding the lost shard (R283) -/

/-- Order-preserving key of a code of a signed floating-point format of `w` bits. -/
def codeKey (w code : Nat) : Int := if code < 2 ^ (w - 1) then code else -((code - 2 ^ (w - 1) : Nat) : Int)

def keyCode (w : Nat) (k : Int) : Nat := if 0 ≤ k then k.toNat else 2 ^ (w - 1) + k.natAbs

/-- Whether a value converts to `x` under the working recipe with block scale `sc` (R38, RNE); a value that would have raised the block
scale does not. -/
def convertsTo (fmt sc : Nat) (x v : Val) : Bool :=
  if fmtBlocked fmt then
    match v with
    | .fin _ m e =>
      let z := v.scale (127 - (sc : Int))
      (m == 0 || decide (flog2 m (e + 127 - (sc : Int)) ≤ fmtEmax fmt))
        && ((withScale sc (decElem fmt (convScaled fmt .rne z))).cmp x == some 0)
    | _ => false
  else (decElem fmt (convElem fmt .rne v).1).cmp x == some 0

/-- Bisects between a key outside the set and one inside it for the inside key nearest the first. -/
def bisect (inside : Int → Bool) (out inn : Int) : Nat → Int
  | 0 => inn
  | n + 1 =>
    let mid := (out + inn) / 2
    if (inn - out).natAbs ≤ 1 then inn
    else if inside mid then bisect inside out mid n else bisect inside mid inn n

/-- The master-format value nearest to a master among those that convert to the working value `x` (R283); a value that is no number leaves
the choice open (log entry 1). -/
def Dev.clampMaster (d : Dev) (mf fmt sc : Nat) (x : Val) (master : F32) : F32 × Dev :=
  if x.isNan then (f32Nan, d)
  else if f32IsNan master then
    let r := d.free
    (BitVec.ofNat 32 r.1.toNat, r.2)
  else
    let w := fmtBits mf
    let code := (convElem mf .rne (ofF32 master)).1
    let inside := fun (k : Int) => convertsTo fmt sc x (decElem mf (keyCode w k))
    let from' := codeKey w code
    if inside from' then (master, d)
    else (toF32 (decElem mf (keyCode w (bisect inside from' (codeKey w (convElem mf .rne x).1) 70))), d)

/-- Applies `clampMaster` to a block's masters. -/
def Dev.clampAll (d : Dev) (mf : Nat) (work : Desc) (p : Nat) : Nat → List F32 → List F32 × Dev
  | _, [] => ([], d)
  | j, m :: t =>
    let i := 4096 * p + j
    let r := if work.count ≤ i then (m, d)
      else
        let ix := ixOf work.dims i
        d.clampMaster mf work.fmt (if work.blocked then d.rdScale work ix else 127) (d.rdVal work ix) m
    let z := r.2.clampAll mf work p (j + 1) t
    (r.1 :: z.1, z.2)

/-- Rebuilds the block at map position `k` (R283): the device, or the status that stops the restore. -/
def Dev.rebuildBlock (d : Dev) (work : Desc) (t : W64) (layer k a : Nat) : Dev × Option Status :=
  let h := d.rd a 64
  if !hCastCopy h || hLayer h != layer then (d, some St.badDescriptor)
  else
    let c := hCastStep h
    let mf := hMfmt h
    let r := if t.toNat ≤ c then (([] : List F32), d) else d.clampAll mf work k 0 (d.master mf a)
    let n := if t.toNat ≤ c then c else t.toNat
    let d := if t.toNat ≤ c then d else r.2.wr (a + sbMaster) (storeFlat mf r.1).bytes
    (d.wr a (hSet (hSet (hPutRem (hIdent h (hBlock h) (hLayer h) false false mf) false 0) 0 8 n) 8 8 n), none)

/-- Rebuilds the blocks of an adopt entry in map order. -/
def Dev.rebuildBlocks (d : Dev) (work : Desc) (t : W64) (layer : Nat) : List (Nat × Nat) → Dev × Option Status
  | [] => (d, none)
  | (k, a) :: l =>
    match d.rebuildBlock work t layer k a with
    | (d, none) => d.rebuildBlocks work t layer l
    | r => r

/-- An adopt entry (R277): its map and the working copy are checked, then the blocks are rebuilt. -/
def Dev.rebuildEntry (d : Dev) (p : PartId) (l : List Byte) : Dev × Option Status :=
  let reach := fun (a n : Nat) => d.reachMem p Reach.own false ((a : Int), (a : Int) + n)
  let cm := leAt l 0 8
  let wa := leAt l 8 8
  match firstOf [reach cm 64, reach wa 64] with
  | some c => (d, some c)
  | none =>
    let m := pmapOf (d.rd cm 64)
    let work := descOf (BitVec.ofNat 512 (d.rdN wa 64))
    match firstOf [refuseIf (!d.pmapOk p m 8 m.total) St.badDescriptor, d.checkSrc p Reach.own work] with
    | some c => (d, some c)
    | none =>
      match d.wsbOf work.base with
      | none => (d, some St.badDescriptor)
      | some pe =>
        if d.wsbState pe.1 pe.2 ≠ 2 then (d, some St.versionMismatch)
        else d.rebuildBlocks work (d.wsbTag pe.1 pe.2) (leAt l 16 2) (m.addrs.mapIdx (fun k a => (k, a)))

/-- Step PAT of a restore for one layer (R277, R273). -/
def Dev.restorePat (d : Dev) (p : PartId) (layer : Nat) : Dev :=
  let rec' := d.rd (d.castRxPatina p layer) 256
  let sc := sliceB rec' 0x10 128
  let d := if setOk sc then d.modPart p (fun x => { x with sets := Tab.put x.sets (leAt rec' 2 1) sc }) else d
  let f := fun k => leAt rec' (0xD0 + 4 * k) 4
  let d := d.count p layer ⟨f 0, f 1, f 2, f 3, f 4⟩
  let put := fun (d : Dev) (base o : Nat) =>
    if base = 0 then d
    else
      let a := base + 32 * (layer % 1024)
      if d.rdN a 8 < leAt rec' o 8 then d.wr a (sliceB rec' o 32) else d
  put (put d (d.fld (R.updWatch p) 47 15 * 2 ^ 15) 0x90) (d.fld (R.collNoise p) 47 15 * 2 ^ 15) 0xB0

/-! ## Restores (R277, R294) -/

/-- Whether this module is the lost module's buddy in the group that PLOG_CTRL names (R268), before or after the successor is installed. -/
def Dev.isBuddyOf (d : Dev) (p : PartId) (t : TenantId) (m : BitVec 32) : Bool :=
  match d.groupOf t (d.fld (R.plogCtrl p) 62 51) with
  | none => false
  | some g => (List.range g.n).any (fun r =>
      (g.rank r).module == m && (g.buddy r == some g.own || ((g.rank r).lost && (g.rank r).self)))

/-- Runs a step over adopt entries until one stops it. -/
def Dev.eachEntry (d : Dev) (f : Dev → List Byte → Dev × Option Status) : List (List Byte) → Dev × Option Status
  | [] => (d, none)
  | l :: t =>
    match f d l with
    | (d, none) => d.eachEntry f t
    | r => r

/-- A restore from the table at RESTORE_CTRL.ADDR (R277): the device and its CODE. -/
def Dev.restoreRun (d : Dev) (p : PartId) : Dev × Option Status :=
  let a := d.fld (R.restoreCtrl p) 47 12 * 4096
  let w := d.reg (R.restoreCtrl p)
  match d.tenantOf p, d.reachMem p Reach.own false ((a : Int), (a : Int) + 64) with
  | none, _ => (d, some St.noPermission)
  | _, some c => (d, some c)
  | some t, none =>
    let h := d.rd a 64
    let m := BitVec.ofNat 32 (leAt h 0 4)
    let n := leAt h 4 4
    match d.reachMem p Reach.own false ((a : Int), (a : Int) + 64 + 64 * n) with
    | some c => (d, some c)
    | none =>
      let d := d.modPart p (fun x => { x with restored := x.restored ++ [m] })
      let es := (List.range n).map (fun k => d.rd (a + 64 + 64 * k) 64)
      let buddy := d.isBuddyOf p t m
      let r := if bit w 62 then d.restoreArm p t m (leAt h 8 8) (leAt h 16 4) else (d, none)
      match r with
      | (d, some c) => (d, some c)
      | (d, none) =>
        if !buddy then (d, none)
        else
          let d := if bit w 61 then d.each es (fun d l => d.restorePat p (leAt l 16 2 % 1024)) else d
          d.eachEntry (fun d l => d.rebuildEntry p l) es

/-- Runs a restore and sets CODE; it is over before the next command, so STATE is idle again. -/
def Dev.restore (d : Dev) (p : PartId) : Dev :=
  let r := d.restoreRun p
  r.1.setFld (R.restoreCtrl p) 11 4 (match r.2 with
    | some c => c.toNat
    | none => 0)

/-- A write of RESTORE_CTRL (R294). -/
def Dev.restoreWrite (d : Dev) (p : PartId) (v : W64) : WOut :=
  if bit v 63 then .when d (refuseIf (d.fld (R.restoreCtrl p) 59 56 != 0) St.badDescriptor) (fun d => (d.writeReg (R.restoreCtrl p) v).restore p)
  else .ok (d.writeReg (R.restoreCtrl p) v)

/-- A FAULT_REPORT of MEMBER_LOST that names a member of the tenant's groups (R277): partitions with AUTO run a restore, once for a lost module. -/
def Dev.restoreAuto (d : Dev) (t : TenantId) (m : BitVec 32) : Dev :=
  if !(d.coll.groups.any (fun e => e.2.tenant == t && e.2.ranks.any (fun r => r.module == m))) then d
  else d.each (allParts.filter (fun p => d.holds t p)) (fun d p =>
    let a := d.fld (R.restoreCtrl p) 47 12 * 4096
    if bit (d.reg (R.restoreCtrl p)) 60 && !(d.part p).restored.contains m && (d.reachMem p Reach.own true ((a : Int), (a : Int) + 4)).isNone then
      (d.wr a (leBytes 4 m.toNat)).restore p
    else d)

/-- RESTORE_GO (R277, R294). -/
def execRestoreGo (a : Agent) (p : PartId) (v : W64) (s : State) : Res := onAgent a (R.restoreCtrl p) (fun d => d.restoreWrite p v) s

/-! ## Maquettes (R287, R288, R295) -/

/-- A maquette ends: BUSY is cleared, CODE set. -/
def Dev.maqStop (d : Dev) (p : PartId) (c : Status) : Dev :=
  ((d.modPart p (fun x => { x with maq := none })).setFlag (R.maqCtrl p) 62 false).setFld (R.maqCtrl p) 11 4 c.toNat

/-- Sends one run of 4,224 bytes to an offset of the destination window; frames sent. -/
def Dev.maqSend (d : Dev) (p : PartId) (m : MaqSt) (off : Nat) (run : List Byte) : Nat × Dev :=
  match d.flow m.flow with
  | none => (0, d)
  | some f =>
    let cs := cuts 0 4224 (d.roomFor f.lif f.peerIp 16)
    (cs.length, d.each cs (fun d c =>
      d.send m.flow 0x06 0 m.window (leBytes 8 (off + c.1) ++ leBytes 4 0 ++ [0, 0, 0, 0] ++ sliceB run c.1 c.2) (.maq p)))

/-- The next run of a maquette: the spill ring first, then the next block of the maps; when none is left it is done. -/
def Dev.maqPump (d : Dev) (p : PartId) : Dev :=
  match (d.part p).maq with
  | none => d
  | some m =>
    let go := fun (d : Dev) (m : MaqSt) (off : Nat) (run : List Byte) =>
      let r := d.maqSend p m off run
      r.2.modPart p (fun x => { x with maq := some { m with outstanding := r.1 } })
    if m.outstanding ≠ 0 then d
    else match m.spill, m.blocks with
      | (off, slot) :: t, _ => (go d { m with spill := t } off (d.rd (m.spillAddr + 4224 * slot) 4224)).unitsGo p
      | [], (a, off) :: t =>
        let h := d.rd a 64
        if hWseq h ≠ m.step.toNat then d.maqStop p St.versionMismatch
        else go d { m with blocks := t } off (workRun (d.master (hMfmt h) a))
      | [], [] => ((d.maqStop p St.ok).setFlag (R.maqCtrl p) 61 true).addCtr p (d.fld (R.maqCtrl p) 60 52) 1

/-- A frame of a maquette is acknowledged. -/
def Dev.maqAcked (d : Dev) (p : PartId) : Dev :=
  match (d.part p).maq with
  | none => d
  | some m => (d.modPart p (fun x => { x with maq := some { m with outstanding := m.outstanding - 1 } })).maqPump p

/-- The blocks of a maquette table's entries with their offsets. -/
def Dev.maqBlocks (d : Dev) (l : List (List Byte)) : List (Nat × Nat) :=
  l.flatMap (fun e => (pmapOf (d.rd (leAt e 0 8) 64)).addrs.mapIdx (fun k a => (a, leAt e 8 8 + 4224 * k)))

/-- Starts a maquette (R287): its table is checked, its blocks registered, the first run sent. -/
def Dev.maqStart (d : Dev) (p : PartId) : Dev :=
  let a := d.fld (R.maqCtrl p) 47 12 * 4096
  let reach := fun (b n : Nat) => d.reachMem p Reach.own false ((b : Int), (b : Int) + n)
  match d.tenantOf p, reach a 64 with
  | none, _ => d.maqStop p St.noPermission
  | _, some c => d.maqStop p c
  | some t, none =>
    let h := d.rd a 64
    let n := leAt h 0x2C 4
    let rate := leAt h 0x1E 2
    let sp := leAt h 0x20 8
    let cap := leAt h 0x28 4
    let es := (List.range n).map (fun k => d.rd (a + 64 + 16 * k) 16)
    let spillOk := decide (dramBase p ≤ sp) && decide (sp + 4224 * cap ≤ dramBase p + d.pinBase p)
    match firstOf
      ([ reach a (64 + 16 * n), refuseIf (decide (16 ≤ leAt h 0x1A 1) || decide (64 ≤ leAt h 0x1B 1) || decide (8 ≤ leAt h 0x1D 1)
          || rate == 0 || decide (16000 < rate) || !spillOk || !((sliceB h 0x30 16).all (· == 0))) St.badDescriptor ]
        ++ es.map (fun e => reach (leAt e 0 8) 64)
        ++ es.map (fun e => let m := pmapOf (d.rd (leAt e 0 8) 64); refuseIf (!d.pmapOk p m 8 m.total) St.badDescriptor)) with
    | some c => d.maqStop p c
    | none =>
      let ip : Ip := BitVec.ofNat 128 (beAt h 8 16)
      let port : BitVec 16 := BitVec.ofNat 16 (if leAt h 0x18 2 = 0 then 51430 else leAt h 0x18 2)
      match d.tenantLif t (leAt h 0x1C 1) with
      | none => d.maqStop p St.noPermission
      | some lif =>
        match d.flowAs t (Fin.ofNat 16 (leAt h 0x1A 1)) (.part p) lif (leAt h 0x1D 1) ip port (d.lifNext lif) 0 false with
        | none => d.maqStop p St.queueFull
        | some (f, d) =>
          let m : MaqSt :=
            { step := BitVec.ofNat 64 (leAt h 0 8), flow := f, window := leAt h 0x1B 1, blocks := d.maqBlocks es, spill := [],
              spillAddr := sp, spillCap := cap, spillNext := 0, outstanding := 0 }
          (d.modPart p (fun x => { x with maq := some m })).maqPump p

/-- A write of MAQ_CTRL (R295): GO is refused while BUSY. -/
def Dev.maqWrite (d : Dev) (p : PartId) (v : W64) : WOut :=
  let o := R.maqCtrl p
  if bit v 63 then .when d (refuseIf (bit (d.reg o) 62) St.badDescriptor)
    (fun d => (((d.writeReg o v).setFlag o 62 true).setFld o 11 4 0).maqStart p)
  else .ok (d.writeReg o v)

/-- MAQ_GO (R287, R295). -/
def execMaqGo (a : Agent) (p : PartId) (v : W64) (s : State) : Res := onAgent a (R.maqCtrl p) (fun d => d.maqWrite p v) s

end Sys2Proof.Machine
end

