-- ==== Sys2Proof/Machine/Queue.lean ====
section
/-! DEFINITION. Command queues (R347 to R358), mailboxes (R359 to R361) and the command journal (R362 to R367). -/
namespace Sys2Proof.Machine

/-! ## The journal (R362, R363, R367) -/

/-- What a journal record says beside its sequence, moment and generation. -/
structure JRec where
  kind : Nat
  status : Status
  queue : Nat
  count : Nat
  index : Nat
  opcode : Nat
  cmdId : Nat
  peer : Ip
  pseq : Nat
deriving DecidableEq, Repr

/-- The 64 bytes of a record (R362). -/
def JRec.bytes (r : JRec) (jseq : Nat) (now : W64) (gen p : Nat) : List Byte :=
  leBytes 8 jseq ++ leBytes 8 now.toNat ++ leBytes 1 r.kind ++ [r.status] ++ leBytes 2 r.queue ++ leBytes 2 r.count ++ leBytes 2 (gen % 4096)
    ++ leBytes 4 r.index ++ leBytes 2 r.opcode ++ leBytes 2 p ++ leBytes 8 r.cmdId ++ beBytes 16 r.peer.toNat ++ leBytes 4 r.pseq ++ leBytes 4 0

/-- A tenant's next JSEQ (R376). -/
def Dev.jseq (d : Dev) (t : TenantId) : Nat := (d.reg (R.jrnHead t)).toNat

/-- Writes a record of partition `p` with a generation into tenant `t`'s ring and, where JRN_EXPORT names the tenant, into the ring in
device memory (R362, R367). -/
def Dev.journalPut (d : Dev) (t : TenantId) (p : PartId) (gen : Nat) (r : JRec) : Dev :=
  let n := d.jseq t
  let l := r.bytes n d.localCount gen p.val
  let d := ({ d with journal := Tab.put d.journal (t.val * 8192 + n % 8192) l }).setReg (R.jrnHead t) (BitVec.ofNat 64 (n + 1))
  if bit (d.reg R.jrnExport) 63 && d.fld R.jrnExport 62 59 == t.val then d.wr (d.fld R.jrnExport 47 19 * 2 ^ 19 + 64 * (n % 8192)) l else d

/-- Writes a record under the partition's current generation tag. -/
def Dev.journalWrite (d : Dev) (t : TenantId) (p : PartId) (r : JRec) : Dev := d.journalPut t p (d.gen p) r

/-- A record of the partition's tenant, where it has one. -/
def Dev.journalOf (d : Dev) (p : PartId) (r : JRec) : Dev :=
  match d.tenantOf p with
  | some t => d.journalWrite t p r
  | none => d

/-! ## Queues (R347 to R349) -/

def Dev.queue (d : Dev) (p : PartId) (q : Nat) : Option QueueSt := Tab.find (d.part p).queues q
def Dev.setQueue (d : Dev) (p : PartId) (q : Nat) (x : QueueSt) : Dev := d.modPart p (fun t => { t with queues := Tab.put t.queues q x })

/-- Producer index, consumer index, completion count, errors (R369, R370). -/
def Dev.qPi (d : Dev) (p : PartId) (q : Nat) : Nat := d.fld (R.qIdx p q) 63 32
def Dev.qCi (d : Dev) (p : PartId) (q : Nat) : Nat := d.fld (R.qIdx p q) 31 0
def Dev.qCc (d : Dev) (p : PartId) (q : Nat) : Nat := d.fld (R.qComp p q) 31 0
def Dev.qErr (d : Dev) (p : PartId) (q : Nat) : Nat := d.fld (R.qComp p q) 63 32

/-- Distance of two indices modulo 2^32. -/
def dist32 (a b : Nat) : Nat := (a + 2 ^ 32 - b % 2 ^ 32) % 2 ^ 32

/-- A queue's global number. -/
def qNo (p : PartId) (q : Nat) : Nat := p.val * 1024 + q

/-- The context of an image (R348). -/
def queueImage (l : List Byte) : QueueSt :=
  { enabled := true, ringBase := leAt l 0 8, sizeLog2 := leAt l 8 1, cls := leAt l 9 1, mode := leAt l 10 1, notify := leAt l 11 1 % 2 == 1,
    lif := leAt l 12 1, window := leAt l 14 2, hostIp := BitVec.ofNat 128 (beAt l 0x10 16), hostPort := BitVec.ofNat 16 (leAt l 0x20 2),
    tag := BitVec.ofNat 64 (leAt l 0x28 8), lastStatus := 0, lastIndex := 0, windowOpen := false, unacked := 0, closedWaiting := false,
    aged := false, lost := false }

/-- What refuses the load of a queue (R349). -/
def Dev.queueLoadCheck (d : Dev) (p : PartId) (q a : Nat) : Option Status :=
  match d.reachMem p Reach.own false ((a : Int), (a : Int) + 64) with
  | some c => some c
  | none =>
    let l := d.rd a 64
    let x := queueImage l
    let n := 64 * 2 ^ x.sizeLog2
    firstOf
      [ refuseIf ((match d.queue p q with
          | some y => y.enabled
          | none => false) || decide (2 ^ 48 ≤ x.ringBase) || decide (x.sizeLog2 < 6) || decide (16 < x.sizeLog2) || decide (3 < x.cls)
          || decide (1 < x.mode) || decide (1 < leAt l 11 1) || leAt l 13 1 != 0 || leAt l 0x22 6 != 0
          || leAt l 0x30 16 != 0 || x.ringBase % n != 0) St.badDescriptor,
        refuseIf (!((match d.region x.ringBase with
            | some r => r.part == p && (r.kind == 0 || r.kind == 1)
                && decide (x.ringBase + n ≤ (if r.kind = 0 then r.lo + d.pinBase p else r.hi))
            | none => false) && (d.wsbHits ⟨x.ringBase, x.ringBase + n⟩).isEmpty)
          || (match d.tenantOf p with
            | some t => (d.tenantLif t x.lif).isNone
            | none => true)) St.noPermission ]

/-- The outcome of a QUEUE_CFG operation: CODE and DONE (R371). -/
def Dev.queueReport (d : Dev) (p : PartId) (c : Status) : Dev :=
  (d.setFld (R.queueCfgStatus p) 63 56 c.toNat).setFlag (R.queueCfgStatus p) 55 true

/-- A queue has been configured: outcome and journal record (R362). -/
def Dev.queueDone (d : Dev) (p : PartId) (q op : Nat) : Dev :=
  (d.queueReport p St.ok).journalOf p ⟨4, 0, qNo p q, 0, op, 0, 0, 0, 0⟩

/-- A QUEUE_CFG operation on queue `q` with the image at `a` (R349). A COMPLETE of the queue that is not acknowledged stays outstanding (R358). -/
def Dev.queueOp (d : Dev) (p : PartId) (op q a : Nat) : Dev :=
  match op with
  | 0 =>
    (match d.queueLoadCheck p q a with
    | some c => d.queueReport p c
    | none => (((d.setQueue p q { queueImage (d.rd a 64) with unacked := (d.queue p q).elim 0 (fun x => x.unacked) }).setReg (R.qIdx p q) 0).setReg (R.qComp p q) 0).queueDone p q 0)
  | 1 =>
    (match d.queue p q with
    | some x => (d.setQueue p q { x with enabled := false }).queueDone p q 1
    | none => d.queueDone p q 1)
  | 2 =>
    (match d.queue p q with
    | some x => (d.setQueue p q { x with enabled := true }).queueDone p q 2
    | none => d.queueReport p St.badDescriptor)
  | _ => d.queueReport p St.badDescriptor

/-- A write of QUEUE_CFG with operation `op` in its OP field (R371). -/
def Dev.queueCfgWrite (d : Dev) (p : PartId) (op : Nat) (v : W64) : Dev :=
  let d := d.writeReg (R.queueCfg p) (putBits v 62 61 op)
  if bit v 63 then d.queueOp p op (bits v 60 51) (bits v 47 6 * 64) else d

/-! ## Taking and retiring (R353 to R355) -/

/-- A write of CI (R353, R347): where it frees slots, another command is the oldest untaken one (R354). -/
def Dev.ciWrite (d : Dev) (p : PartId) (q : Nat) (v : W64) : WOut :=
  let ci := bits v 31 0
  let pi := d.qPi p q
  let cc := d.qCc p q
  let old := d.qCi p q
  let size := match d.queue p q with
    | some x => 2 ^ x.sizeLog2
    | none => 0
  .when d (refuseIf (decide (dist32 pi cc < dist32 ci cc) || decide (size < dist32 pi ci)) St.badDescriptor) (fun d =>
    let d := d.setFld (R.qIdx p q) 31 0 ci
    match d.queue p q with
    | some x => (d.setQueue p q { x with aged := x.aged && decide (dist32 ci cc ≤ dist32 old cc) }).modPart p (fun t => { t with qLast := Tab.put t.qLast x.cls q })
    | none => d)

/-- Enabled queues with untaken commands, in ascending order. -/
def Dev.ready (d : Dev) (p : PartId) : List (Nat × QueueSt) :=
  (d.part p).queues.filter (fun e => e.2.enabled && d.qPi p e.1 != d.qCi p e.1)

/-- The next of a list of queues in round-robin order after the queue whose CI was last written in the class. -/
def Dev.rrPick (d : Dev) (p : PartId) (cls : Nat) (l : List (Nat × QueueSt)) : Option (Nat × QueueSt) :=
  let m := l.filter (fun e => e.2.cls == cls)
  match Tab.find (d.part p).qLast cls with
  | none => m.head?
  | some k => (m.filter (fun e => decide (k < e.1)) ++ m).head?

/-- The first of some alternatives. -/
def orElse {α : Type} (a b : Option α) : Option α :=
  match a with
  | some x => some x
  | none => b

/-- Q_NEXT (R354, R372). -/
def Dev.qNext (d : Dev) (p : PartId) : W64 :=
  let l := d.ready p
  let aged := l.filter (fun e => e.2.aged)
  let pick := fun (k : List (Nat × QueueSt)) => orElse (d.rrPick p 1 k) (orElse (d.rrPick p 2 k) (d.rrPick p 3 k))
  match orElse (d.rrPick p 0 l) (orElse (pick aged) (pick l)) with
  | some e => BitVec.ofNat 64 (2 ^ 63 + e.2.cls % 4 * 2 ^ 10 + e.1 % 1024)
  | none => 0

/-- A write of QRETIRE (R355, R357, R373). -/
def Dev.qretireWrite (d : Dev) (p : PartId) (v : W64) : WOut :=
  let q := bits v 55 46
  let n := bits v 15 0
  let st : Status := BitVec.ofNat 8 (bits v 63 56)
  let cc := d.qCc p q
  .when d (refuseIf (n == 0 || decide (dist32 (d.qCi p q) cc < n)) St.badDescriptor) (fun d =>
    let d := d.setFld (R.qComp p q) 31 0 (cc + n)
    let d := if st = 0 then d else d.setFld (R.qComp p q) 63 32 (d.qErr p q + n)
    let d := match d.queue p q with
      | some x =>
        d.setQueue p q { x with lastStatus := if st = 0 then x.lastStatus else st, lastIndex := if st = 0 then x.lastIndex else BitVec.ofNat 32 cc,
                                windowOpen := x.windowOpen || (x.notify && !x.lost) }
      | none => d
    d.journalOf p ⟨3, st, qNo p q, n, cc, 0, 0, 0, 0⟩)

/-! ## Completions (R356 to R358) -/

/-- The payload of a COMPLETE. -/
def Dev.completeBytes (d : Dev) (p : PartId) (q : Nat) (x : QueueSt) : List Byte :=
  leBytes 4 (d.qCc p q) ++ leBytes 4 (d.qCi p q) ++ leBytes 4 (d.qErr p q) ++ [x.lastStatus, 0, 0, 0] ++ leBytes 4 x.lastIndex.toNat ++ leBytes 4 0
    ++ leBytes 8 x.tag.toNat

/-- The port of a queue's host endpoint (R348). -/
def QueueSt.port (x : QueueSt) : BitVec 16 := if x.hostPort = 0 then 51430 else x.hostPort

/-- Sends a COMPLETE, where a flow can be had (R358). -/
def Dev.completeSend (d : Dev) (p : PartId) (q : Nat) (x : QueueSt) : Dev :=
  let wait := d.setQueue p q { x with closedWaiting := true }
  match d.tenantOf p with
  | none => d
  | some t =>
    match d.tenantLif t x.lif with
    | none => wait
    | some k =>
      match d.flowTo t (.part p) k (d.lifClass k x.cls) x.hostIp x.port (d.lifNext k) 0 false with
      | none => wait
      | some (n, d) =>
        (d.setQueue p q { x with closedWaiting := false, unacked := x.unacked + 1 }).send n 0x0C 0 (qNo p q) (d.completeBytes p q x) (.complete p q)

/-- A window that has closed: the COMPLETE goes out, or waits for an acknowledgement (R358). -/
def Dev.completeTry (d : Dev) (p : PartId) (q : Nat) (x : QueueSt) : Dev :=
  if x.lost then d
  else if x.unacked < (if x.cls = 0 then 4 else 1) then d.completeSend p q x
  else d.setQueue p q { x with closedWaiting := true }

/-- COMPLETE_WINDOW_CLOSE (R357, R358). -/
def execCompleteWindowClose (p : PartId) (q : Fin 1024) (s : State) : Res :=
  onDev (fun d =>
    match d.queue p q.val with
    | some x =>
      let x' := { x with windowOpen := false }
      if x.windowOpen then (d.setQueue p q.val x').completeTry p q.val x' else d
    | none => d) s

/-- A COMPLETE is acknowledged: one that waits is built now. -/
def Dev.completeAcked (d : Dev) (p : PartId) (q : Nat) : Dev :=
  match d.queue p q with
  | none => d
  | some x =>
    let x := { x with unacked := x.unacked - 1 }
    if x.closedWaiting then d.completeTry p q { x with closedWaiting := false } else d.setQueue p q x

/-- The flow of a queue's COMPLETEs is lost (R358). -/
def Dev.completeLost (d : Dev) (p : PartId) (q : Nat) : Dev :=
  match d.queue p q with
  | none => d
  | some x =>
    let d := d.setQueue p q { x with unacked := 0, closedWaiting := false, windowOpen := false, lost := true }
    (d.setFlag (R.queueCfgStatus p) 54 true).setFld (R.queueCfgStatus p) 9 0 q

/-- Whether a queue's COMPLETEs travel on a flow. -/
def Dev.completesOn (d : Dev) (f : Flow) (x : QueueSt) : Bool :=
  x.notify && x.hostIp == f.peerIp && x.port == f.peerPort && d.tenantLif f.tenant x.lif == some f.lif && d.lifClass f.lif x.cls == f.cls

/-- Every queue whose COMPLETEs travel on a lost flow stops sending them (R358). -/
def Dev.queuesLost (d : Dev) (f : Flow) : Dev :=
  match f.ep with
  | .part p => d.each ((d.part p).queues.filter (fun e => !e.2.lost && d.completesOn f e.2)) (fun d e => d.completeLost p e.1)
  | .mgmt => d

/-- A write of QUEUE_CFG_STATUS (R371): queues whose COMPLETEs had stopped send them again once LOST is cleared (R358). -/
def Dev.queueStatusWrite (d : Dev) (p : PartId) (v : W64) : Dev :=
  let d := d.writeReg (R.queueCfgStatus p) v
  if bit v 54 then d.modPart p (fun t => { t with queues := t.queues.map (fun e => (e.1, { e.2 with lost := false })) }) else d

/-! ## Feeding (R350 to R352) -/

/-- A descriptor that R350 accepts: OPCODE is not 0, the reserved bytes are. -/
def cmdOk (l : List Byte) : Bool := leAt l 0 2 != 0 && leAt l 2 6 == 0

/-- The descriptors of a run of bytes. -/
def cmdsOf (l : List Byte) : List (List Byte) := (List.range (l.length / 64)).map (fun k => sliceB l (64 * k) 64)

/-- Address of a queue's slot. -/
def QueueSt.slot (x : QueueSt) (i : Nat) : Nat := x.ringBase + 64 * (i % 2 ^ x.sizeLog2)

/-- The journal record of an acceptance or a refusal (R362, R363). -/
def ingressRec (kind : Nat) (st : Status) (r : Req) (q n index : Nat) (first : List Byte) : JRec :=
  ⟨kind, st, q, n, index, leAt first 0 2, leAt first 8 8, r.src, r.seq.toNat⟩

/-- A refused ENQUEUE or DOORBELL is recorded, then answered (R363). -/
def Dev.ingressRefuse (d : Dev) (r : Req) (op : Nat) (st : Status) (n : Nat) (first : List Byte) : Dev :=
  (d.journalWrite r.tenant r.part (ingressRec 2 st r (qNo r.part r.qw.toNat) n 0 first)).nack r op st 0

/-- Commands that a DOORBELL would add. -/
def Dev.bellSize (d : Dev) (r : Req) : Nat := dist32 (leAt r.payload 0 8) (d.qPi r.part r.qw.toNat)

/-- COUNT and the first descriptor in the record of a refused ENQUEUE or DOORBELL: those it brings, or those between PI and its index in a ring
queue of its tenant's. -/
def Dev.ingressAsk (d : Dev) (r : Req) (op : Nat) : Nat × List Byte :=
  if op = 1 then ((cmdsOf r.payload).length, (cmdsOf r.payload).headD [])
  else match (if d.holds r.tenant r.part && decide (r.qw.toNat < 1024) then d.queue r.part r.qw.toNat else none) with
    | none => (0, [])
    | some x =>
      let n := d.bellSize r
      (if 2 ^ 31 ≤ n then 0 else Nat.min n 65535,
        if x.mode = 1 ∧ n ≠ 0 then d.rd (x.slot (d.qPi r.part r.qw.toNat)) 64 else [])

/-- A request is refused: an ENQUEUE or DOORBELL is recorded before its NACK (R363). -/
def Dev.refuseReq (d : Dev) (r : Req) (op : Nat) (st : Status) : Dev :=
  if op = 1 ∨ op = 2 then
    let k := d.ingressAsk r op
    d.ingressRefuse r op st k.1 k.2
  else d.nack r op st 0

/-- The acceptance records of `n` commands from index `i` on, one for each 65,535 of them, the most that COUNT says (R362, R363). -/
def Dev.ingressAccept (d : Dev) (r : Req) (i n : Nat) (first : Nat → List Byte) : Dev :=
  d.each (cuts 0 n 65535) (fun d c =>
    d.journalWrite r.tenant r.part (ingressRec 1 0 r (qNo r.part r.qw.toNat) c.2 ((i + c.1) % 2 ^ 32) (first c.1)))

/-- What refuses new commands up to index `pi'` of `n` more than PI (R351, R352). -/
def Dev.feedFull (d : Dev) (p : PartId) (q : Nat) (x : QueueSt) (pi' : Nat) : Bool :=
  decide (2 ^ x.sizeLog2 < dist32 pi' (d.qCi p q)) || decide (2 ^ 31 - 1 < dist32 pi' (d.qCc p q))

/-- ENQUEUE (R351). -/
def Dev.enqueue (d : Dev) (r : Req) : Dev :=
  let q := r.qw.toNat
  let cs := cmdsOf r.payload
  let n := cs.length
  match (if 1024 ≤ q then none else d.queue r.part q) with
  | none => d.refuseReq r 1 St.badDescriptor
  | some x =>
    let pi := d.qPi r.part q
    if !x.enabled || x.mode != 0 || r.payload.length % 64 != 0 || n == 0 || decide (128 < n) || !cs.all cmdOk then d.refuseReq r 1 St.badDescriptor
    else if d.feedFull r.part q x ((pi + n) % 2 ^ 32) then d.refuseReq r 1 St.queueFull
    else
      let d := d.each (cs.mapIdx (fun k c => (k, c))) (fun d e => d.wr (x.slot (pi + e.1)) e.2)
      (d.ingressAccept r pi n (fun _ => cs.headD [])).setFld (R.qIdx r.part q) 63 32 (pi + n)

/-- A request that feeds a queue, recorded and refused where its partition is fenced (check 11 of R332, R363). -/
def Dev.feed (d : Dev) (r : Req) (op : Nat) (f : Dev → Dev) : Dev :=
  if !r.mgmt && d.fenced r.part then d.refuseReq r op St.partitionReset else f d

/-- ENQUEUE (R351): Places 1 to 128 command descriptors into an inline queue or refuses them whole. -/
def execEnqueue (r : Req) (s : State) : Res := onDev (fun d => d.feed r 1 (fun d => d.enqueue r)) s

/-- DOORBELL (R352). -/
def Dev.doorbell (d : Dev) (r : Req) : Dev :=
  let q := r.qw.toNat
  match (if 1024 ≤ q then none else d.queue r.part q) with
  | none => d.refuseReq r 2 St.badDescriptor
  | some x =>
    let pi := d.qPi r.part q
    let np := leAt r.payload 0 8
    let n := d.bellSize r
    if !x.enabled || x.mode != 1 || r.payload.length != 8 || decide (2 ^ 32 ≤ np) || decide (2 ^ 31 ≤ n) then d.refuseReq r 2 St.badDescriptor
    else if d.feedFull r.part q x np then d.refuseReq r 2 St.queueFull
    else if !(List.range n).all (fun k => cmdOk (d.rd (x.slot (pi + k)) 64)) then d.refuseReq r 2 St.badDescriptor
    else if n = 0 then d
    else (d.ingressAccept r pi n (fun k => d.rd (x.slot (pi + k)) 64)).setFld (R.qIdx r.part q) 63 32 np

/-- DOORBELL (R352): Advances the producer index of a ring queue after checking the new slots. -/
def execDoorbell (r : Req) (s : State) : Res := onDev (fun d => d.feed r 2 (fun d => d.doorbell r)) s

/-! ## Register commands of queues -/

def execQueueLoad (a : Agent) (p : PartId) (v : W64) (s : State) : Res := onAgent a (R.queueCfg p) (fun d => .ok (d.queueCfgWrite p 0 v)) s
/-- QUEUE_DISABLE (R349): Disables a queue so that further ENQUEUE and DOORBELL are refused. -/
def execQueueDisable (a : Agent) (p : PartId) (v : W64) (s : State) : Res := onAgent a (R.queueCfg p) (fun d => .ok (d.queueCfgWrite p 1 v)) s
/-- QUEUE_REENABLE (R349): Re-enables a disabled queue with its indices kept. -/
def execQueueReenable (a : Agent) (p : PartId) (v : W64) (s : State) : Res := onAgent a (R.queueCfg p) (fun d => .ok (d.queueCfgWrite p 2 v)) s
/-- CI_WRITE (R353): Control code frees slots by advancing CI within CC and PI. -/
def execCiWrite (a : Agent) (p : PartId) (q : Fin 1024) (v : W64) (s : State) : Res := onAgent a (R.qIdx p q.val) (fun d => d.ciWrite p q.val v) s
/-- QRETIRE (R355): Retires COUNT commands of a queue with one status and journals it. -/
def execQretire (a : Agent) (p : PartId) (v : W64) (s : State) : Res := onAgent a (R.qRetire p) (fun d => d.qretireWrite p v) s

/-- OLDEST_COMMAND_WAIT_EXPIRE (R354): the oldest untaken command of a queue has waited 2^20 array cycles. -/
def execOldestCommandWaitExpire (p : PartId) (q : Fin 1024) (s : State) : Res :=
  onDev (fun d =>
    match d.queue p q.val with
    | some x => if d.qPi p q.val != d.qCi p q.val then d.setQueue p q.val { x with aged := true } else d
    | none => d) s

/-! ## Mailboxes (R359 to R361, R374, R375) -/

/-- FULL of a mailbox. -/
def Dev.mboxFull (d : Dev) (k : Nat) : Bool := (Tab.find d.mbFull k).getD false

/-- A write of a mailbox (R360). -/
def Dev.mboxPut (d : Dev) (k : Nat) (v : W64) : WOut :=
  .when d (refuseIf (d.mboxFull k) St.mboxFull) (fun d => ({ d with mbFull := Tab.put d.mbFull k true }).setReg (R.mbox k) v)

/-- What a read of a mailbox returns: word and FULL (R360). -/
def Dev.mboxWord (d : Dev) (k : Nat) : W64 := if d.mboxFull k then d.reg (R.mbox k) else 0

/-- What a read of a mailbox leaves: FULL is cleared. -/
def Dev.mboxTake (d : Dev) (k : Nat) : Dev :=
  if d.mboxFull k then ({ d with mbFull := Tab.del d.mbFull k }).setReg (R.mbox k) 0 else d

/-- MBOX_FULLj (R375). -/
def Dev.mboxFlags (d : Dev) (j : Nat) : W64 := BitVec.ofNat 64 ((List.range 64).map (fun b => if d.mboxFull (64 * j + b) then 2 ^ b else 0)).sum

/-- MBOX_REG_WRITE (R374): A register write to a mailbox stores the word or is refused when full. -/
def execMboxRegWrite (a : Agent) (k : Fin 320) (v : W64) (s : State) : Res := onAgent a (R.mbox k.val) (fun d => d.mboxPut k.val v) s

/-- MBOX_REG_READ (R360): the word read is in `readData`. -/
def execMboxRegRead (a : Agent) (k : Fin 320) (s : State) : Res :=
  onDev (fun d => if d.running && d.agentMay a false (R.mbox k.val) then { d.mboxTake k.val with readData := d.mboxWord k.val } else d) s

/-- The mailbox that a request names, or the status that refuses it (R322, R359). -/
def Dev.mboxOf (d : Dev) (r : Req) : Nat ⊕ Status :=
  let q := r.qw.toNat
  if r.mgmt then
    if 64 ≤ q then .inr St.badDescriptor
    else if d.mailboxMay r.tenant (256 + q) then .inl (256 + q) else .inr St.noPermission
  else if 16 ≤ q then .inr St.badDescriptor
  else .inl (16 * r.part.val + q)

/-- MBOX_WRITE (R322, R360). -/
def Dev.mboxWriteOp (d : Dev) (r : Req) : Dev :=
  match d.mboxOf r with
  | .inr c => d.nack r 3 c 0
  | .inl k =>
    if r.payload.length ≠ 8 then d.nack r 3 St.badDescriptor 0
    else match d.mboxPut k (BitVec.ofNat 64 (leAt r.payload 0 8)) with
      | (d, none) => d
      | (d, some c) => d.nack r 3 c 0

/-- MBOX_WRITE (R360): Writes a word to an empty mailbox or is refused with MBOX_FULL. -/
def execMboxWrite (r : Req) (s : State) : Res := onDev (fun d => d.takeReq r 3 (fun d => d.mboxWriteOp r)) s

/-- MBOX_READ (R322, R360). -/
def Dev.mboxReadOp (d : Dev) (r : Req) : Dev :=
  match d.mboxOf r with
  | .inr c => d.nack r 4 c 0
  | .inl k =>
    if r.payload.length ≠ 0 then d.nack r 4 St.badDescriptor 0
    else (d.mboxTake k).reply r 4 (leBytes 8 (d.mboxWord k).toNat ++ leBytes 8 (b2n (d.mboxFull k)))

/-- MBOX_READ (R360): Reads a mailbox word and flag and clears FULL. -/
def execMboxRead (r : Req) (s : State) : Res := onDev (fun d => d.takeReq r 4 (fun d => d.mboxReadOp r)) s

/-! ## JOURNAL_READ (R365, R366) -/

/-- Whether a flow is an owner session (R336, R393). -/
def Dev.ownerFlow (d : Dev) (n : Nat) : Bool :=
  match d.flow n with
  | some f => f.owner
  | none => false

/-- A flow closed by this module without a loss: completions that wait on it are not outstanding any more. -/
def Dev.closeQuiet (d : Dev) (n : Nat) : Dev :=
  match d.flow n with
  | none => d
  | some f => (d.dropFlow n).plogResume.each (f.unacked ++ f.waitQ) (fun d r => match r.what with
      | .plog p _ => d.logOwe p true
      | .complete p q => (match d.queue p q with
          | some x => d.setQueue p q { x with unacked := 0 }
          | none => d)
      | _ => d)

/-- SEAL (R366): every flow of the tenant from the request's source is closed, the request's own excepted. -/
def Dev.seal (d : Dev) (t : TenantId) (r : Req) : Dev :=
  d.each ((d.flows.filter (fun e => e.2.tenant == t && !e.2.ownerIf && e.2.peerIp == r.src && e.1 != r.flow)).map (·.1)) Dev.closeQuiet

/-- JOURNAL_READ (R365, R366): as many records as one frame of the interface carries. -/
def Dev.journalRead (d : Dev) (r : Req) : Dev :=
  let sel := leAt r.payload 10 1
  let t : TenantId := Fin.ofNat 16 (sel % 16)
  let cnt := leAt r.payload 8 2
  if r.payload.length ≠ 16 ∨ cnt = 0 ∨ 128 < cnt ∨ 32 ≤ sel ∨ leAt r.payload 11 5 ≠ 0 then d.nack r 0xB St.badDescriptor 0
  else if t ≠ r.tenant ∧ !d.ownerFlow r.flow then d.nack r 0xB St.noPermission 0
  else
    let d := if sel / 16 % 2 = 1 then d.seal t r else d
    let head := d.jseq t
    let first := Nat.max (leAt r.payload 0 8) (head - 8192)
    let room := match d.flow r.flow with
      | some f => (d.roomFor f.lif f.peerIp 24) / 64
      | none => 0
    let recs := (List.range (Nat.min (Nat.min cnt room) (head - first))).flatMap (fun k => (Tab.find d.journal (t.val * 8192 + (first + k) % 8192)).getD [])
    d.reply r 0xB (leBytes 8 first ++ leBytes 8 head ++ recs)

/-- JOURNAL_READ (R365): Returns journal records of a tenant, optionally sealing old flows first. -/
def execJournalRead (r : Req) (s : State) : Res := onDev (fun d => d.journalRead r) s

end Sys2Proof.Machine
end

