-- ==== Sys2Proof/Machine/Peek.lean ====
section
/-! DEFINITION. What a control-space register reads as (R6 to R8, R439, R440): the stored word with the fields that follow the state of
the unit it describes. Reading here changes nothing; Machine/Ctl.lean adds what a read clears. -/
namespace Sys2Proof.Machine

/-! ## Logical MACs and shared resources (R296, R313, R414, R420) -/

/-- Logical MACs of the breakout mode (R296). -/
def Dev.macCount (d : Dev) : Nat := 2 ^ d.fld R.ethPortCfg 1 0

/-- Whether a logical MAC exists (R296). -/
def Dev.macExists (d : Dev) (m : Fin 8) : Bool := decide (m.val < d.macCount)

/-- Holder of a MAC's transmit hold timer: 1 PAUSE, 2 injection delay (R313, R420). -/
def Dev.holdHolder (d : Dev) (m : Fin 8) : Nat :=
  if d.fld (R.ethMacCfg m) 61 60 = 1 then 1
  else if d.fld (R.ethInj m) 63 62 ≠ 0 ∧ d.fld (R.ethInj m) 61 59 = 3 then 2 else 0

/-- Holder of a MAC's lane loopback multiplexer: 1 near-end link test, 2 injection loop (R313, R420). -/
def Dev.loopHolder (d : Dev) (m : Fin 8) : Nat :=
  if d.fld (R.ethMacCfg m) 59 58 = 2 then 1
  else if d.fld (R.ethInj m) 63 62 ≠ 0 ∧ d.fld (R.ethInj m) 61 59 = 4 then 2 else 0

/-- Holder of the management DMA channel: 1 rubbing copies, 2 journal copies (R414, R420). -/
def Dev.dmaHolder (d : Dev) : Nat :=
  if (List.finRange 16).any (fun t => bit (d.reg (R.rubExp t)) 63) then 1 else if bit (d.reg R.jrnExport) 63 then 2 else 0

/-- Holder of the debug read path: 1 rubbing capture, 2 live debug (R395, R414, R420). -/
def Dev.dbgHolder (d : Dev) : Nat :=
  if d.dbg.live then 2 else if allParts.any (fun p => d.fld (R.prstStatus p) 51 48 == 2) then 1 else 0

/-- Which of two feature bits holds an indicator: 1 for the low bit, 2 for the high one (R420, R470). -/
def ledHolder (w : W64) (i : Nat) : Nat := if bit w i then 1 else if bit w (i + 1) then 2 else 0

/-- RES_TABLE (R420): it shows who holds each resource, so after a reset LED1, LED2 and ALERT have the holders that the enables of R470
reset to (DESIGN CHOICE, log entry 139). -/
def Dev.resTable (d : Dev) : W64 :=
  let macs := ((List.finRange 8).map (fun m => (d.holdHolder m + 4 * d.loopHolder m) * 2 ^ (32 + 4 * m.val))).sum
  BitVec.ofNat 64 (macs + d.dmaHolder * 2 ^ 12 + d.dbgHolder * 2 ^ 10 + ledHolder (d.reg R.indCtrl) 0 * 2 ^ 8
    + ledHolder (d.reg R.indCtrl) 2 * 2 ^ 6 + ledHolder (d.reg R.alertCtrl) 0 * 2 ^ 4)

/-! ## Rubbings as bytes (R409, R452) -/

/-- A source record: its header and its data, padded (R409). -/
def RubRec.bytes (r : RubRec) : List Byte :=
  let l := leBytes 1 r.source ++ leBytes 1 (b2n r.noImp + 2 * b2n r.budget) ++ leBytes 2 0 ++ leBytes 4 r.data.length ++ leBytes 4 r.elapsed
    ++ leBytes 4 0 ++ r.data
  l ++ List.replicate (ceilDiv l.length 64 * 64 - l.length) 0

/-- BYTES of a rubbing, headers included. -/
def Rubbing.size (r : Rubbing) : Nat := 64 + (r.records.map (fun x => x.bytes.length)).sum

/-- A rubbing as it is stored (R409). -/
def Rubbing.bytes (r : Rubbing) : List Byte :=
  leBytes 8 r.local0.toNat ++ leBytes 1 r.part.val ++ [r.reason] ++ leBytes 2 r.gen.toNat ++ leBytes 2 r.records.length ++ leBytes 2 r.tenant
    ++ leBytes 4 r.size ++ leBytes 4 r.elapsed ++ leBytes 8 0 ++ leBytes 8 0 ++ leBytes 8 0 ++ leBytes 8 0 ++ leBytes 8 0
    ++ r.records.flatMap RubRec.bytes

/-- The rubbing in a store half. -/
def Dev.rubHalf (d : Dev) (newer : Bool) : Option Rubbing := if newer then d.rub1 else d.rub0

/-- A word of the rubbing window (R452). -/
def Dev.rubWindow (d : Dev) (o : Nat) : W64 :=
  match d.rubHalf (bit (d.reg R.rubWin) 4) with
  | none => 0
  | some r => BitVec.ofNat 64 (leNat (sliceB r.bytes (d.fld R.rubWin 3 0 * 0x8000 + o) 8))

/-! ## Fields that follow a unit's state -/

/-- SEQx_STATUS: LOOPS and INFLIGHT (R140). -/
def Dev.seqPeek (d : Dev) (p : PartId) (x : Seq) (w : W64) : W64 :=
  let s := d.port p x.port
  putBits (putBits w 51 49 s.loops.length) 48 43 s.flights.length

/-- ARRAYa_STATUS: leaves, TK_OPEN, DRAINING (R80). -/
def Dev.arrPeek (d : Dev) (p : PartId) (a : Fin 2) (w : W64) : W64 :=
  let s := (d.part p).arr a
  let n := fun (c : Ctx) => Nat.min c.count 0x1FFFFF
  putBit (putBit (putBits (putBits w 45 25 (n s.ctx1)) 24 4 (n s.ctx0)) 3 s.topk.isSome) 2 (!s.toks.isEmpty)

/-- Rows of 128 bytes that an accumulator input holds (R92): a top-k list may take several (R77). -/
def AccIn.slots (x : AccIn) : Nat := (x.rows.map (fun r => ceilDiv r.length 32)).sum

/-- VEC_STATUS: rows held, ACTIVE, CLAIMED, SFU_LOADING of a load that is its port's turn (R88, R114). -/
def Dev.vecPeek (d : Dev) (p : PartId) (w : W64) : W64 :=
  let x := d.part p
  let act := fun k => x.vq.any (fun i => i.port.num == k)
  let w := putBits (putBits w 49 44 x.in1.slots) 43 38 x.in0.slots
  let w := putBit (putBit (putBit (putBit w 37 (act 0)) 36 (act 1)) 35 (act 2)) 34 (act 3)
  putBit (putBit (putBit w 33 x.in1.claim.isSome) 32 x.in0.claim.isSome) 2 ((List.range 4).any (fun k => (x.vq.find? (fun i => i.port.num == k)).any (fun i => i.opc == 0x42)))

/-- SCALAR_STATUS: WAITING (R116). -/
def Dev.scalarPeek (d : Dev) (p : PartId) (w : W64) : W64 :=
  (List.finRange 6).foldl (fun w c => putBit w (28 + c.val) ((d.part p).cores[c]).wait.isSome) w

/-- KV_STATUSn (R263). -/
def Dev.kvPeek (d : Dev) (p : PartId) (e : Nat) (w : W64) : W64 :=
  match d.coll.ops.find? (fun y => y.op == 6 && y.running && y.part == p && d.kvRank y == e) with
  | none => putBits w 63 8 0
  | some x =>
    match d.collGroup x with
    | none => putBits w 63 8 0
    | some g =>
      let landed := (List.range (x.rotIn g + 1)).countP (fun r => decide (0 < r) && decide (x.ring.bytes ≤ x.rotLanded r))
      putBit (putBit (putBits (putBits (putBits w 63 47 landed) 46 30 (x.kvSent g)) 29 13 (d.releasedCount x)) 9 (x.ring.mode == 1)) 8 true

/-- ARM_STATUS.EPOCH: the armature epoch of the partition's tenant (R244). -/
def Dev.armPeek (d : Dev) (p : PartId) (w : W64) : W64 := putBits w 31 0 (d.armEpochNo (d.tenantNo p))

/-- A register of partition block `p` at offset `l` within the block. -/
def Dev.partPeek (d : Dev) (p : PartId) (l : Nat) (w : W64) : W64 :=
  if l < 0x60 then (if l % 0x20 = 0x10 then d.seqPeek p (if l < 0x20 then .f else if l < 0x40 then .b else .u) w else w)
  else if l = 0x60 then d.arrPeek p 0 w
  else if l = 0x68 then d.arrPeek p 1 w
  else if l = 0x70 then d.vecPeek p w
  else if l = 0x78 then d.scalarPeek p w
  else if l = 0xF0 then d.armPeek p w
  else if l = 0x108 then d.kvPeek p 0 w
  else if l = 0x110 then d.kvPeek p 1 w
  else if l = 0x168 then d.qNext p
  else if 0x2000 ≤ l ∧ l < 0x2800 ∧ l % 32 = 8 then putBit w 16 (d.wsbWaiter p ((l - 0x2000) / 32))
  else w

/-- Owner sessions open (R393, R396). -/
def Dev.sessions (d : Dev) : Nat := d.flows.countP (fun e => e.2.owner)

/-- Whether an offset is a register of a logical MAC that does not exist (R296). -/
def Dev.macAbsent (d : Dev) (o : Nat) : Bool :=
  (decide (0x30100 ≤ o) && decide (o < 0x301C0) && !decide ((o - 0x30100) % 0x40 / 8 < d.macCount))
  || (decide (0x34000 ≤ o) && decide (o < 0x35000) && !decide ((o - 0x34000) / 0x200 < d.macCount))

/-- ETH_MACm_STATUS: PAUSED and PFC_HELD follow the hold timers (R317). -/
def Dev.macPeek (d : Dev) (m : Fin 8) (w : W64) : W64 :=
  putBits (putBit w 60 ((d.macs.get m).hold != 0)) 59 52 (((d.macs.get m).pfcHold.map (fun e => 2 ^ (e.1 % 8))).sum)

/-- A register outside the partition blocks. -/
def Dev.headPeek (d : Dev) (o : Nat) (w : W64) : W64 :=
  let one := fun (w : W64) (hi lo : Nat) => putBits w hi lo (Nat.max 1 (bits w hi lo))
  if o = R.secStatus then putBits w 2 0 d.sessions
  else if d.macAbsent o then 0
  else if 0x30140 ≤ o ∧ o < 0x30180 then d.macPeek (Fin.ofNat 8 ((o - 0x30140) / 8)) w
  else if 0x50000 ≤ o ∧ o < 0x50A00 then d.mboxWord ((o - 0x50000) / 8)
  else if 0x50A00 ≤ o ∧ o < 0x50A28 then d.mboxFlags ((o - 0x50A00) / 8)
  else if o = R.tpCfg then one (one w 43 40) 31 28
  else if 0x32000 ≤ o ∧ o < 0x34000 ∧ o % 64 = 0x20 then one w 60 53
  else if o = R.resTable then d.resTable
  else if 0x88000 ≤ o ∧ o < 0x90000 then d.rubWindow (o - 0x88000)
  else w

/-- What the register at a control-space offset reads as. -/
def Dev.peek (d : Dev) (o : Nat) : W64 :=
  readWord (regFields o) (if o < 0x100000 then d.headPeek o (d.reg o) else d.partPeek (Fin.ofNat 16 (o / 0x10000)) (o % 0x10000) (d.reg o))

end Sys2Proof.Machine
end

