-- ==== Sys2Proof/Machine/Reset.lean ====
section
/-! DEFINITION. The partition reset (R402 to R405): its causes, the fence, the rubbing (R407 to R409), the reset step, the generation bump
and reintegration (R404, R433). -/
namespace Sys2Proof.Machine

/-- UNIT of a reset's fault record (R410). -/
def unitReset : Nat := 0x13

def Dev.prstState (d : Dev) (p : PartId) : Nat := d.fld (R.prstStatus p) 51 48
def Dev.setPrst (d : Dev) (p : PartId) (st : Nat) : Dev := d.setFld (R.prstStatus p) 51 48 st

/-! ## Causes and the fence (R402, R403 step 1) -/

/-- The fence stops the partition's collective instructions (R213). -/
def Dev.fenceColl (d : Dev) (p : PartId) : Dev :=
  (d.each (d.coll.ops.filter (fun x => x.part == p)) Dev.collEnd).collKick

/-- A reset begins: its fence stands, its record is written and its incident opened under the generation before the bump (R403, R410). -/
def Dev.fenceStart (d : Dev) (p : PartId) (reason : Nat) (skip : Bool) (retrain failed : BitVec 4) : Dev :=
  let d := (d.setPrst p 1).setFld (R.prstStatus p) 47 40 reason
  let d := d.setFld (R.prstStatus p) 34 31 0
  let d := d.record p unitReset St.partitionReset reason 0 0
  let d := (d.setFld (R.scalarStatus p) 39 34 0).modPart p (fun x =>
    { x with rst := some ⟨skip, retrain, failed, d.localCount, 0, []⟩, cores := x.cores.map (fun c => { c with wait := none }) })
  d.fenceColl p

/-- A cause of a reset (R402): before the generation bump of a reset in progress it sets MORE, during reintegration it starts a new reset
without a rubbing. -/
def Dev.resetCause (d : Dev) (p : PartId) (reason : Nat) (skip : Bool) (retrain failed : BitVec 4) : Dev :=
  match d.prstState p with
  | 0 => d.fenceStart p reason skip retrain failed
  | 4 => d.fenceStart p reason true retrain failed
  | _ => d.setFlag (R.prstStatus p) 39 true

/-! ## The rubbing (R407 to R409) -/

/-- Sources and their largest sizes, in order (R407). -/
def rubSources : List (Nat × Nat) :=
  [(0x01, 256), (0x02, 2048), (0x03, 17408), (0x04, 17408), (0x05, 17408), (0x06, 16896), (0x07, 2048), (0x08, 21504), (0x09, 21504),
   (0x0A, 9216), (0x0B, 3072), (0x0C, 65536), (0x0D, 262144), (0x0E, 1024), (0x0F, 4096), (0x10, 16384), (0x11, 2048)]

/-- A free number below `n` + 1. -/
def Dev.freeUpTo (d : Dev) (n : Nat) : Nat × Dev := (d.free.1.toNat % (n + 1), d.free.2)

/-- Registers as little-endian bytes, read without clearing (R440). -/
def Dev.regBytes (d : Dev) (l : List Nat) : List Byte := l.flatMap (fun o => leBytes 8 (d.peek o).toNat)

/-- The summary registers, in the order R407 lists them. -/
def rubSummary (p : PartId) : List Nat :=
  [R.prstStatus p, R.eccStatus p, R.memPin p, R.memTrain p, R.vecStatus p, R.scalarStatus p, R.bwdStatus p, R.arrayStatus p 0, R.arrayStatus p 1]
    ++ (List.finRange 4).map (R.updStatus p) ++ (List.finRange 4).map (R.updOpen p) ++ [R.kvStatus p 0, R.kvStatus p 1]

/-- The bytes of a source whose content R407 names by register or by memory; `none` for a source that shows a unit's inside. -/
def Dev.rubKnown (d : Dev) (p : PartId) (src : Nat) : Option (List Byte) :=
  match src with
  | 0x01 => some (d.regBytes (rubSummary p))
  | 0x02 => some (d.regBytes ((List.range 64).flatMap (fun n => (List.range 4).map (fun k => R.faultRec p n k))))
  | 0x07 => some ((List.range 512).flatMap (fun c => leBytes 4 (d.ctr p c).toNat))
  | 0x0C => some (d.rd (slmBase p + 0x10000 * (d.fld R.rubCfg 2 1 + 1)) 0x10000)
  | 0x0D => some (d.rd (cacheBase p + 0x40000 * d.fld R.rubCfg 5 3) 0x40000)
  | 0x10 => some (d.regBytes (((List.range 1024).filter (fun q => d.qPi p q != d.qCc p q)).flatMap (fun q => [R.qIdx p q, R.qComp p q])))
  | 0x11 => some (d.regBytes ((List.range 64).flatMap (fun e => [R.wsbBase p e, R.wsbCtrl p e, R.wsbTag p e, R.wsbRefadj p e])))
  | _ => none

/-- What a source that shows a unit holds of its state, before and behind the bytes whose layout is not stated (R407, log entry 109). -/
def Dev.rubShown (d : Dev) (p : PartId) (src : Nat) : List Byte × List Byte :=
  let port := fun (q : Port) =>
    let s := d.port p q
    (List.range 16).flatMap (fun k => leBytes 8 (s.pwAt k).toNat) ++ leBytes 8 s.step.toNat ++ leBytes 4 s.armEp.toNat ++ leBytes 4 s.layEp.toNat
  let table := fun (q : Port) => (List.range 256).flatMap (fun k => leBytes 64 (Tab.get (fun _ => 0) (d.port p q).desc k).toNat)
  let exts := fun (l : List Extent) => leBytes 1 l.length ++ l.flatMap (fun e => leBytes 6 e.lo ++ leBytes 6 e.hi)
  let board := fun (q : Port) => ((d.port p q).flights.flatMap (fun f => leBytes 4 f.id ++ leBytes 6 f.pc ++ exts f.reads ++ exts f.writes)).take 840
  let seq := fun (x : Seq) => (d.regBytes [R.seqPc p x, R.seqCtrl p x, R.seqStatus p x, R.seqFaultPc p x] ++ port x.port ++ board x.port, table x.port)
  let ctx := fun (c : Ctx) => leBytes 1 (b2n (!c.isEmpty)) ++ leBytes 4 c.count ++ leBytes 1 (b2n c.longsum)
  let tok := fun (t : DrainTok) => leBytes 4 t.id ++ leBytes 1 t.port.num ++ leBytes 1 t.ctx.val ++ leBytes 2 t.tag.toNat ++ leBytes 1 t.rows ++ leBytes 1 t.cols
  let lists := fun (t : TopkSt) => t.lists.flatMap (fun l => leBytes 1 l.length ++ l.flatMap (fun e => leBytes 4 e.1.toNat ++ leBytes 4 e.2))
  let arr := fun (a : Fin 2) =>
    let x := d.arr p a
    (ctx x.ctx0 ++ ctx x.ctx1 ++ leBytes 2 x.toks.length ++ x.toks.flatMap tok ++ (match x.topk with
      | some t => lists t
      | none => []), ([] : List Byte))
  match src with
  | 0x03 => seq .f
  | 0x04 => seq .b
  | 0x05 => seq .u
  | 0x06 => (table (.s 0) ++ port (.s 0)
      ++ ((List.finRange 6).flatMap (fun c => ((d.part p).cores[c]).queue.flatMap (fun w => leBytes 8 w.1.toNat ++ (match w.2 with
        | some v => leBytes 8 v.toNat
        | none => [])))).take 368, [])
  | 0x08 => arr 0
  | 0x09 => arr 1
  | 0x0A => (((d.part p).vq.take 64).flatMap (fun i => leBytes 1 i.opc.toNat ++ leBytes 1 i.port.num ++ leBytes 4 i.pos ++ leBytes 2 i.acc.length),
      (List.finRange 2).flatMap (fun n => (((d.part p).inp n).rows.take 32).flatMap (fun r => r.flatMap (fun v => leBytes 4 v.toNat))))
  | 0x0B => ((List.finRange 6).flatMap (fun c =>
      let x := (d.part p).cores[c]
      (List.range 32).flatMap (fun r => leBytes 8 (Tab.get (fun _ => 0) x.x r).toNat)
        ++ (List.range 32).flatMap (fun r => leBytes 4 (Tab.get (fun _ => 0) x.f r).toNat) ++ leBytes 8 x.pc), [])
  | 0x0E => (((d.part p).mq.take 40).flatMap (fun i => leBytes 1 i.opc ++ leBytes 1 i.port.num ++ leBytes 1 (b2n i.begun) ++ leBytes 8 i.w1.toNat), [])
  | 0x0F => ((List.finRange 4).flatMap (fun c => (((d.part p).units[c]).q.take 20).flatMap (fun i =>
      leBytes 1 i.port.num ++ leBytes 4 i.next ++ leBytes 4 i.blocksN ++ leBytes 1 i.held.length) ++ leBytes 2 (((d.part p).units[c]).slotQ.length)), [])
  | _ => ([], [])

/-- A source's bytes: those named, or what a unit holds with a free length of free bytes for the rest of its inside, whose layout is not
stated. -/
def Dev.rubData (d : Dev) (p : PartId) (s : Nat × Nat) : List Byte × Dev :=
  match d.rubKnown p s.1 with
  | some l => (l, d)
  | none =>
    let l := d.rubShown p s.1
    let n := d.freeUpTo (s.2 - l.1.length - l.2.length)
    let f := n.2.freeBytes n.1
    ((l.1 ++ f.1 ++ l.2).take s.2, f.2)

def Dev.rubAdd (d : Dev) (p : PartId) (r : RubRec) : Dev :=
  d.modPart p (fun x => { x with rst := x.rst.map (fun t => { t with rub := t.rub ++ [r] }) })

/-- A source is read whole; the cycles it takes are free up to its 64,000. -/
def Dev.rubFull (d : Dev) (p : PartId) (s : Nat × Nat) : Dev :=
  let l := d.rubData p s
  let e := l.2.freeUpTo 64000
  e.2.rubAdd p ⟨s.1, false, false, l.1, e.1⟩

/-- A source is ended with what arrived (R408). -/
def Dev.rubCut (d : Dev) (p : PartId) (s : Nat × Nat) (timeUp : Bool) : Dev :=
  let l := d.rubData p s
  let n := l.2.freeUpTo (l.1.length - 1)
  let e := n.2.freeUpTo 64000
  e.2.rubAdd p ⟨s.1, true, false, l.1.take n.1, if timeUp then 64000 else e.1⟩

/-- A source not begun (R408). -/
def Dev.rubNone (d : Dev) (p : PartId) (s : Nat × Nat) : Dev := d.rubAdd p ⟨s.1, true, true, [], 0⟩

/-- Sources not yet recorded. -/
def ResetSt.left (r : ResetSt) : List (Nat × Nat) := rubSources.drop r.rub.length

/-- RUBBING_SOURCE_EXPIRE (R408): which of the sources left is being read is not stated by the command and is free; those before it were
read whole. -/
def Dev.rubExpire (d : Dev) (p : PartId) (budget : Bool) : Dev :=
  match (d.part p).rst with
  | none => d
  | some r =>
    let l := r.left
    if d.prstState p ≠ 2 ∨ l.isEmpty then d
    else
      let k := d.freeUpTo (l.length - 1)
      let d := k.2.each (l.take k.1) (fun d s => d.rubFull p s)
      let d := d.each ((l.drop k.1).take 1) (fun d s => d.rubCut p s (!budget))
      if budget then d.each (l.drop (k.1 + 1)) (fun d s => d.rubNone p s) else d

/-- The rubbing begins; live debug holds the debug read path against it (R395, R408). -/
def Dev.rubBegin (d : Dev) (p : PartId) : Dev :=
  let d := (d.setPrst p 2).modPart p (fun x => { x with rst := x.rst.map (fun t => { t with rubStart := d.localCount, rub := [] }) })
  if d.dbg.live then d.each rubSources (fun d s => d.rubNone p s) else d

/-- A rubbing copied into its tenant's ring of eight slots of 512 KiB (R409, R419). -/
def Dev.rubCopy (d : Dev) (t : TenantId) (r : Rubbing) : Dev :=
  let n := (Tab.find d.rubCopies t.val).getD 0
  { (d.wr (d.fld (R.rubExp t) 47 22 * 2 ^ 22 + 2 ^ 19 * (n % 8)) r.bytes) with rubCopies := Tab.put d.rubCopies t.val (n + 1) }

/-- A rubbing goes into the store half that NEWEST does not name (R409, R418, R452). -/
def Dev.rubStore (d : Dev) (p : PartId) (r : Rubbing) : Dev :=
  let newest := bit (d.reg R.rubWin) 5
  let lost := match d.rubHalf (!newest) with
    | some o => !o.copied
    | none => false
  let d := if lost then d.bump R.rubStatus 47 32 1 else d
  let c := (match d.tenantOf p with
    | some t => if bit (d.reg (R.rubExp t)) 63 then (true, d.rubCopy t r) else (false, d)
    | none => (false, d))
  let r := { r with copied := c.1 }
  let d := if newest then { c.2 with rub0 := some r } else { c.2 with rub1 := some r }
  let d := (d.setFlag R.rubWin 5 (!newest)).bump R.rubStatus 63 48 1
  (d.setFld R.rubStatus 31 28 p.val).setFld R.rubStatus 27 0 r.size

/-- The rubbing of a partition whose sources have all been recorded (R409); TENANT is free where no tenant holds the partition. -/
def Dev.rubTake (d : Dev) (p : PartId) : Dev :=
  match (d.part p).rst with
  | none => d
  | some r =>
    let t := match d.tenantOf p with
      | some t => (t.val, d)
      | none => d.freeUpTo 0xFFFF
    let r : Rubbing :=
      { local0 := r.startLocal, part := p, reason := BitVec.ofNat 8 (d.fld (R.prstStatus p) 47 40), gen := BitVec.ofNat 12 (d.gen p), tenant := t.1,
        records := r.rub, copied := false, elapsed := Nat.min 400000 (d.localCount - r.rubStart).toNat }
    t.2.rubStore p r

/-! ## The reset step (R403 step 3, R364, R325) -/

/-- Registers of a partition block that a partition reset leaves: MEM_PIN, UPDc_OPEN, the pointing log's, PRST_STATUS, FAULT_HEAD and
the fault ring (R150, R211, R289 to R292, R416, R454). -/
def resetKeeps (l : Nat) : Bool :=
  l == 0x88 || (decide (0xC0 ≤ l) && decide (l < 0xE0)) || (decide (0x118 ≤ l) && decide (l < 0x138)) || l == 0x180 || l == 0x190
    || (decide (0x800 ≤ l) && decide (l < 0x1000))

/-- Registers that keep their content over a reset of partition `p`: all but those of its block and of its mailbox bank (R374). -/
def keptReg (p : PartId) (o : Nat) : Bool :=
  if inBlock p o then resetKeeps (o % 0x10000) else !(mailboxOff o && (o - 0x50000) / 8 / 16 == p.val)

/-- The journal records of a reset (R364); COUNT stops at 65,535. -/
def Dev.resetJournal (d : Dev) (p : PartId) : Dev :=
  let d := d.each ((d.part p).queues.filter (fun e => e.2.enabled && d.qPi p e.1 != d.qCc p e.1)) (fun d e =>
    d.journalOf p ⟨3, St.partitionReset, qNo p e.1, Nat.min 65535 (dist32 (d.qPi p e.1) (d.qCc p e.1)), d.qCc p e.1, 0, 0, 0, 0⟩)
  match d.tenantOf p with
  | some t => d.journalPut t p (d.gen p + 1) ⟨5, 0, 0xFFFF, 0, 0, 0, 0, 0, 0⟩
  | none => d

/-- A queue context after the reset: disabled, its completions forgotten (R349). -/
def QueueSt.afterReset (x : QueueSt) : QueueSt :=
  { x with enabled := false, lastStatus := 0, lastIndex := 0, windowOpen := false, unacked := 0, closedWaiting := false, aged := false, lost := false }

/-- What a partition holds beside its registers and its memory after the reset step: nothing but what a reset leaves. -/
def Part.afterReset (x : Part) : Part :=
  { Part.reset with queues := x.queues.map (fun e => (e.1, e.2.afterReset)), restored := x.restored, rst := x.rst, image := x.image,
                    sfuImage := x.sfuImage, microcode := x.microcode, microPending := x.microPending }

/-- The reset step: journal records, registers at their reset values, local memories zeroed, queues disabled, flows freed (R403, R85). -/
def Dev.resetStep (d : Dev) (p : PartId) : Dev :=
  let d := (d.resetJournal p).resetRegs (keptReg p)
  let d := (d.modPart p Part.afterReset).logOwe p (d.plogBehind p != 0)
  let m := memZero (memZero d.mem (cacheBase p) (cacheBase p + 0x200000)) (slmBase p) (slmBase p + 0x40000)
  { d with mem := m, mbFull := d.mbFull.filter (fun e => e.1 / 16 != p.val),
           flows := d.flows.filter (fun e => e.2.ep != EndPt.part p), winQ := d.winQ.filter (fun e => e.2.mgmt || e.2.part != p) }.setPrst p 3

/-- The fence's time passes: a phase that a unit has begun and cannot finish, because it waits for its channel or for a full hold, is cut (R194). -/
def Dev.updFence (d : Dev) (p : PartId) : Dev := d.each (List.finRange 4) (fun d c => d.updTear p c)

/-- FENCE_COMPLETE (R403): the rubbing begins, or is skipped. -/
def execFenceComplete (p : PartId) (s : State) : Res :=
  onDev (fun d =>
    match (d.part p).rst with
    | none => d
    | some r => if d.prstState p ≠ 1 then d else if r.skip then (d.updFence p).resetStep p else (d.updFence p).rubBegin p) s

/-- RUBBING_SOURCE_EXPIRE (R408). -/
def execRubbingSourceExpire (p : PartId) (s : State) : Res := onDev (fun d => d.rubExpire p false) s

/-- RUBBING_BUDGET_EXPIRE (R408). -/
def execRubbingBudgetExpire (p : PartId) (s : State) : Res := onDev (fun d => d.rubExpire p true) s

/-- RUBBING_END (R403, R409): the sources left have been read, the rubbing is stored, the reset step follows. -/
def execRubbingEnd (p : PartId) (s : State) : Res :=
  onDev (fun d =>
    match (d.part p).rst with
    | none => d
    | some r => if d.prstState p ≠ 2 then d else ((d.each r.left (fun d s => d.rubFull p s)).rubTake p).resetStep p) s

/-! ## Release and reintegration (R403 steps 4 and 5, R404, R433) -/

/-- Bytes of an image that management memory holds. -/
def Dev.image (d : Dev) (k : Nat) : List Byte := (Tab.find d.boot.images k).getD []

/-- The partition firmware image is written into the first 64 KiB of scalar local memory, the built-in tables are loaded and core 0
starts at the entry point (R403, R109, R102). -/
def Dev.loadFirmware (d : Dev) (p : PartId) : Dev :=
  let k := (d.part p).image
  let code := sliceB (Config.codeSection (d.image k)) 0 0x10000
  let d := (d.wr (slmBase p) code).modPart p (fun x =>
    { x with sfuImage := k, cores := x.cores.set 0 { x.cores[0] with pc := slmBase p + (Config.entryPoint (d.image k)).toNat / 8 * 8 } })
  d.setFlag (R.scalarStatus p) 34 true

/-- The pending image is taken where PEND_PARTS marks the partition as its image is loaded (R403 step 5, R433). -/
def Dev.takePending (d : Dev) (p : PartId) : Dev :=
  match d.boot.pendImage with
  | some k =>
    if bit (d.reg R.fwStatus) (33 + p.val) then (d.modPart p (fun x => { x with image := k })).setFlag R.fwStatus (33 + p.val) false else d
  | none => d

/-- The generation tag advances modulo 4,096 (R403, R416). -/
def Dev.bumpGen (d : Dev) (p : PartId) : Dev := d.setFld (R.prstStatus p) 63 52 (d.gen p + 1)

/-- The channels of a mask, ascending. -/
def maskChans (m : BitVec 4) : List (Fin 4) := (List.finRange 4).filter (fun c => bit m c.val)

/-- RESET_RELEASE (R403, R404): the tag advances; implicated channels are retrained before the firmware is loaded. -/
def Dev.release (d : Dev) (p : PartId) (r : ResetSt) : Dev :=
  let d := (d.bumpGen p).setPrst p 4
  if r.retrain = 0 then (d.takePending p).loadFirmware p
  else (d.modPart p (fun x => { x with trainQ := maskChans r.retrain })).trainBusy p

/-- RESET_RELEASE (R403): Reset is released after 10 µs; the generation advances and reintegration starts. -/
def execResetRelease (p : PartId) (s : State) : Res :=
  onDev (fun d =>
    match (d.part p).rst with
    | some r => if d.prstState p = 3 then d.release p r else d
    | none => d) s

/-- A channel's training in a reset has ended: RETRAINED, and the firmware once no channel is left (R404, R416). -/
def Dev.trained (d : Dev) (p : PartId) (c : Fin 4) : Dev :=
  let d := d.trainEnd p
  if d.prstState p = 4 then
    let d := d.setFlag (R.prstStatus p) (31 + c.val) true
    if (d.part p).trainQ.isEmpty then (d.takePending p).loadFirmware p else d
  else d

/-- A channel's contents are lost: its bytes read as memory that nothing has written (R404; log entry 11). -/
def Dev.loseChannel (d : Dev) (p : PartId) (c : Fin 4) : Dev :=
  let lo := dramBase p
  let here := fun (a : Nat) => decide (lo ≤ a) && decide (a < lo + d.cap p) && (pinMap (d.pinBase p) (d.cap p) (a - lo)).1 == c.val
  ({ d with mem := d.mem.filter (fun e => !here e.1) }).setFlag (R.prstStatus p) (35 + c.val) true

/-- A channel is held in self-refresh until its partition's reset (R165). -/
def Dev.freeze (d : Dev) (p : PartId) (c : Fin 4) : Dev := d.modPart p (fun x => { x with refresh := x.refresh ++ [c] })

/-- A retraining that has not finished is abandoned (R165): FAILED; outside a reset it leads to one (and cuts a phase, R194), in a reset the
channel is trained once more, and the second time from power-up with its contents lost (R404). -/
def Dev.retrainAbandon (d : Dev) (p : PartId) (c : Fin 4) : Dev :=
  let d := d.setFlag (R.memTrain p) (20 + c.val) true
  match (d.part p).rst with
  | some r =>
    if d.prstState p = 4 then
      if bit r.failed c.val then (d.loseChannel p c).trained p c
      else d.modPart p (fun x => { x with rst := some { r with failed := r.failed ||| BitVec.ofNat 4 (2 ^ c.val) } })
    else ((d.trainEnd p).freeze p c).setFlag (R.prstStatus p) 39 true
  | none => (((d.updTear p c).trainEnd p).freeze p c).resetCause p 4 false (BitVec.ofNat 4 (2 ^ c.val)) (BitVec.ofNat 4 (2 ^ c.val))

/-- REINTEGRATION_EXPIRE (R403): the partition stays fenced, REASON becomes 0x05 and a new reset begins without a rubbing. -/
def execReintegrationExpire (p : PartId) (s : State) : Res :=
  onDev (fun d => if d.prstState p = 4 then d.fenceStart p 5 true 0 0 else d) s

/-! ## PRST_CTRL (R415) -/

/-- READY (R403, R415, R416): the fence lifts, DURATION takes the time from the fence. -/
def Dev.liftFence (d : Dev) (p : PartId) : Dev :=
  match (d.part p).rst with
  | some r =>
    if d.prstState p = 4 && (d.part p).trainQ.isEmpty then
      ((d.setPrst p 0).setFld (R.prstStatus p) 30 16 (Nat.min 0x7FFF ((d.localCount - r.startLocal).toNat / 1024))).modPart p
        (fun x => { x with rst := none })
    else d
  | none => d

/-- Whether an agent is firmware of the partition: HEARTBEAT and READY are its alone (R415). -/
def isFirmware (p : PartId) : Agent → Bool
  | .partFw q => q == p
  | _ => false

/-- A write of PRST_CTRL (R415). -/
def Dev.prstWrite (d : Dev) (fw : Bool) (p : PartId) (v : W64) : Dev :=
  let d := if fw && bit v 57 then d.modPart p (fun x => { x with heartbeats := x.heartbeats + 1 }) else d
  let d := if fw && bit v 56 then d.liftFence p else d
  if bit v 63 then d.resetCause p 1 (bit v 62) (BitVec.ofNat 4 (bits v 61 58)) 0 else d

/-- PRST_REQ (R402, R415). -/
def execPrstReq (a : Agent) (p : PartId) (v : W64) (s : State) : Res :=
  onAgent a (R.prstCtrl p) (fun d => .ok (d.prstWrite false p (putBit v 63 true))) s

/-- PRST_HEARTBEAT (R400, R415): the core 0 heartbeat restarts. -/
def execPrstHeartbeat (a : Agent) (p : PartId) (s : State) : Res :=
  onAgent a (R.prstCtrl p) (fun d => .ok (d.prstWrite (isFirmware p a) p (BitVec.ofNat 64 (2 ^ 57)))) s

/-- PRST_READY (R403, R415). -/
def execPrstReady (a : Agent) (p : PartId) (s : State) : Res :=
  onAgent a (R.prstCtrl p) (fun d => .ok (d.prstWrite (isFirmware p a) p (BitVec.ofNat 64 (2 ^ 56)))) s

end Sys2Proof.Machine
end

