-- ==== Sys2Proof/Machine/Vector.lean ====
section
/-! DEFINITION. Vector instructions at issue (R81 to R108, R121, R472): the checks of each opcode and its entry into the vector
engine's queue. -/
namespace Sys2Proof.Machine

/-- Whether a descriptor position is absent, required or optional. -/
inductive Need where
  | no | yes | opt
deriving DecidableEq, Repr

/-- Operand positions of a vector opcode: D, S1, S2, S3. -/
structure VNeeds where
  d : Need
  s1 : Need
  s2 : Need
  s3 : Need
deriving DecidableEq, Repr

/-- What has been captured when an instruction issues (R128): its operands and the parameter words it names. -/
structure VArgs where
  w : TWord
  d : Option Desc
  s1 : Option Desc
  s2 : Option Desc
  s3 : Option Desc
  mask : Option Desc
  maskW : W64
  maskW2 : W64
  step : W64
deriving DecidableEq, Repr

/-- Mask kind, MZ and the flag of an operation bit (R121). -/
def TWordMaskKind (w : TWord) : Nat := bits w.mod 5 4
def TWordMz (w : TWord) : Bool := bit w.mod 6
/-- OPF[48 + i]. -/
def opf (w : TWord) (i : Nat) : Bool := bit w.mod i
/-- The mask field. -/
def maskField (w : TWord) : BitVec 8 := BitVec.ofNat 8 (bits w.imm 15 8)

/-- Scalars a and b of a second word (log entry 21). -/
def scalarA (w : TWord) : F32 := BitVec.ofNat 32 (bits w.w1 63 32)
def scalarB (w : TWord) : F32 := BitVec.ofNat 32 (bits w.w1 31 0)

def captureArgs (ps : PortSt) (w : TWord) : VArgs :=
  { w := w, d := ps.descAt w.d, s1 := ps.descAt w.s1, s2 := ps.descAt w.s2, s3 := ps.descAt w.s3,
    mask := if TWordMaskKind w = 1 then ps.descAt (maskField w) else none,
    maskW := ps.pwAt (maskField w).toNat, maskW2 := ps.pwAt ((maskField w).toNat + 1), step := ps.step }

/-- The mask field's refusals (R89, R122). -/
def maskCheck (ps : PortSt) (w : TWord) : Option Status :=
  let f := (maskField w).toNat
  refuseIf (match TWordMaskKind w with
    | 0 => f != 0
    | 1 => f == 0
    | 2 => decide (15 < f)
    | _ => decide (14 < f) || bits (ps.pwAt (f + 1)) 30 0 == 0) St.badDescriptor

/-- Presence of the descriptors an opcode needs. -/
def needOk (n : Need) (x : Option Desc) (i : BitVec 8) : Bool :=
  match n with
  | .no => i == 0
  | .yes => x.isSome
  | .opt => true

def needsCheck (n : VNeeds) (a : VArgs) : Option Status :=
  refuseIf (!(needOk n.d a.d a.w.d && needOk n.s1 a.s1 a.w.s1 && needOk n.s2 a.s2 a.w.s2 && needOk n.s3 a.s3 a.w.s3)) St.badDescriptor

/-- A destination of the vector engine: R127, R97's staging limit, and no working-shard entry, of which the vector engine is no
writer (R156). -/
def Dev.vecDst (d : Dev) (p : PartId) (x : Desc) : Option Status :=
  firstOf
    [ d.checkDst p Reach.own x,
      refuseIf (x.exts.any (fun e => !(d.wsbHits e).isEmpty)) St.noPermission,
      refuseIf (x.blocked && x.axis != 0 && decide (512 < prodL (x.dims.take x.axis))) St.badDescriptor ]

def optCheck (f : Desc → Option Status) (x : Option Desc) : Option Status :=
  match x with
  | some y => f y
  | none => none

/-- Descriptor checks of the operands: sources, the mask over `n` elements, destination. -/
def Dev.vecOperands (d : Dev) (p : PartId) (a : VArgs) (n : Nat) : Option Status :=
  firstOf
    [ optCheck (d.checkSrc p Reach.own) a.s1, optCheck (d.checkSrc p Reach.own) a.s2, optCheck (d.checkSrc p Reach.own) a.s3,
      optCheck (fun m => d.checkMask p m n) a.mask, optCheck (fun x => d.vecDst p x) a.d ]

/-- Sources fit the destination (R87). -/
def fitsAll (a : VArgs) : Option Status :=
  match a.d with
  | none => some St.badDescriptor
  | some x => refuseIf (!([a.s1, a.s2, a.s3].all (fun s => match s with
      | some y => y.fits x
      | none => true))) St.badDescriptor

/-- The vector engine's queue for a port is full (R119). -/
def Part.vecFull (x : Part) (q : Port) : Bool := decide (5 ≤ x.vq.countP (fun i => i.port.num == q.num))

/-- The first instruction of a port in the vector engine. -/
def Part.vecHead (x : Part) (n : Nat) : Option VIns := x.vq.find? (fun i => i.port.num == n)

def unitVec : Nat := 0xC

/-- Input that a VACC names (R123). -/
def vaccInput (w : TWord) : Fin 2 := if opf w 3 then 1 else 0

/-- Each unclaimed input is claimed by the first VACC that names it and is next in its port's order (R92). -/
def Part.claimInput (x : Part) (n : Fin 2) : Part :=
  if (x.inp n).claim.isSome then x
  else match x.vq.find? (fun i => i.opc == 0x50 && vaccInput i.w == n && ((x.vecHead i.port.num).map (·.id)) == some i.id) with
    | some i => x.setInp n { x.inp n with claim := some (i.port.num, i.id) }
    | none => x

def Dev.claimInputs (d : Dev) (p : PartId) : Dev := d.modPart p (fun x => (x.claimInput 0).claimInput 1)

/-- Read and write extents of a vector instruction (R134). -/
def VArgs.reads (a : VArgs) (n : Nat) : List Extent :=
  ([a.s1, a.s2, a.s3].filterMap id).flatMap Desc.exts ++ a.mask.toList.map (fun m => toExtent (m.maskExt n))

def VArgs.writes (a : VArgs) : List Extent := a.d.toList.flatMap Desc.exts

/-- The instruction enters the engine's queue. -/
def Dev.vecPush (d : Dev) (p : PartId) (q : Port) (opc : BitVec 8) (a : VArgs) (alpha : F32) (reads writes : List Extent) : Dev :=
  let ps := d.port p q
  let l := d.launch p q .vector reads writes
  let i : VIns :=
    { id := l.1, port := q, pc := d.portPc p q, opc := opc, w := a.w, d := a.d, s1 := a.s1, s2 := a.s2, s3 := a.s3, mask := a.mask,
      maskW := a.maskW, maskW2 := a.maskW2, alpha := alpha, step := a.step, seed := ps.pwAt 14, pos := 0, acc := [], run := [] }
  (((l.2.adv p q a.w.len).modPart p (fun x => { x with vq := x.vq ++ [i] }))).claimInputs p

/-- What an opcode asks of its word and operands at issue: the word rule, the descriptors it needs, its own shape checks, and the extents
it reads and writes. -/
structure VForm where
  opc : BitVec 8
  wordOk : Bool
  needs : VNeeds
  shape : Dev → VArgs → Option Status
  ext : VArgs → List Extent × List Extent

/-- The refusal of a vector instruction whose word is in order: mask field, presence, operands, then the opcode's own checks. -/
def Dev.vecRefuse (d : Dev) (p : PartId) (w : TWord) (f : VForm) (ps : PortSt) : Option Status :=
  let a := captureArgs ps w
  firstOf [maskCheck ps w, needsCheck f.needs a,
    d.vecOperands p a (match a.d with
      | some x => x.count
      | none => 0), f.shape d a]

/-- The factor α that a vector instruction captures: PW[31:0] of the word it names, or 1 (R93, R121). -/
def vecAlpha (ps : PortSt) (w : TWord) : F32 := if opf w 0 then BitVec.ofNat 32 (bits (ps.pwAt (bits w.w1 23 20)) 31 0) else f32One

/-- The common issue of a vector instruction: its checks, the queue, the scoreboard. -/
def Dev.vecIssue (d : Dev) (p : PartId) (q : Port) (w : TWord) (f : VForm) : Dev :=
  d.issue p q (encT f.opc.toNat w) w.snd (fun d =>
    let ps := d.port p q
    let e := f.ext (captureArgs ps w)
    if !f.wordOk then .refuse St.badDescriptor
    else match d.vecRefuse p w f ps with
      | some c => .refuseAt c (d.setFlag (R.vecStatus p) 0 true)
      | none =>
        if (d.part p).vecFull q || d.held p q e.1 e.2 then .hold
        else .go (d.vecPush p q f.opc (captureArgs ps w) (vecAlpha ps w) e.1 e.2))

/-- Extents of an instruction that writes D alone. -/
def extD (a : VArgs) : List Extent × List Extent :=
  (a.reads (match a.d with
    | some x => x.count
    | none => 0), a.writes)

/-- Extents of an instruction that also writes S3, or reads D. -/
def extDS3 (a : VArgs) : List Extent × List Extent := ((extD a).1 ++ a.writes, a.writes ++ a.s3.toList.flatMap Desc.exts)

/-! ## Class 0x3 -/

/-- The halves of a second word that no scalar uses are 0 (R122). -/
def scalarsOk (w : TWord) : Bool := !w.x || ((opf w 3 || scalarA w == 0) && (opf w 2 || scalarB w == 0))

/-- Word rule of class 0x3: OPF[48] is reserved; a scalar needs the second word (R121, R122, R123). -/
def word3 (w : TWord) (scA scB : Bool) (immOk : Bool) : Bool :=
  !opf w 0 && (scA || !opf w 3) && (scB || !opf w 2) && (w.x || !(opf w 3 || opf w 2)) && scalarsOk w && immOk

/-- S2 of class 0x3: a descriptor, or scalar a. -/
def needA (w : TWord) : Need := if opf w 3 then .opt else .yes
def needB (w : TWord) : Need := if opf w 2 then .opt else .yes

def imm0 (w : TWord) : Bool := bits w.imm 7 0 == 0

/-- Shape of an elementwise instruction (R87). -/
def shapeElem (_ : Dev) (a : VArgs) : Option Status := fitsAll a

/-- A two-source elementwise instruction of class 0x3. -/
def binForm (opc : BitVec 8) (w : TWord) : VForm := ⟨opc, word3 w true false (imm0 w), ⟨.yes, .yes, needA w, .no⟩, shapeElem, extD⟩

/-- VADD (R81, R123). -/
def execVadd (p : PartId) (q : Port) (w : TWord) (s : State) : Res := onDev (fun d => d.vecIssue p q w (binForm 0x30 w)) s
/-- VSUB (R81, R123). -/
def execVsub (p : PartId) (q : Port) (w : TWord) (s : State) : Res := onDev (fun d => d.vecIssue p q w (binForm 0x31 w)) s
/-- VMUL (R81, R123). -/
def execVmul (p : PartId) (q : Port) (w : TWord) (s : State) : Res := onDev (fun d => d.vecIssue p q w (binForm 0x32 w)) s
/-- What VFMA checks and touches at issue. -/
def vfmaForm (_ : PartId) (w : TWord) : VForm :=
  ⟨0x33, (word3 w true true (imm0 w)), ⟨.yes, .yes, needA w, needB w⟩,
    shapeElem, extD⟩

/-- VFMA (R81, R123): S1 × S2 + S3. -/
def execVfma (p : PartId) (q : Port) (w : TWord) (s : State) : Res := onDev (fun d => d.vecIssue p q w (vfmaForm p w)) s
/-- VMIN (R81, R123). -/
def execVmin (p : PartId) (q : Port) (w : TWord) (s : State) : Res := onDev (fun d => d.vecIssue p q w (binForm 0x34 w)) s
/-- VMAX (R81, R123). -/
def execVmax (p : PartId) (q : Port) (w : TWord) (s : State) : Res := onDev (fun d => d.vecIssue p q w (binForm 0x35 w)) s
/-- What VCMP checks and touches at issue. -/
def vcmpForm (_ : PartId) (w : TWord) : VForm :=
  ⟨0x36, (word3 w true false (bits w.imm 7 3 == 0 && decide (bits w.imm 2 0 < 6))), ⟨.yes, .yes, needA w, .no⟩,
    shapeElem, extD⟩

/-- VCMP (R472). -/
def execVcmp (p : PartId) (q : Port) (w : TWord) (s : State) : Res := onDev (fun d => d.vecIssue p q w (vcmpForm p w)) s
/-- What VSEL checks and touches at issue. -/
def vselForm (_ : PartId) (w : TWord) : VForm :=
  ⟨0x37, (word3 w true true (imm0 w)), ⟨.yes, .yes, needA w, needB w⟩,
    shapeElem, extD⟩

/-- VSEL (R472). -/
def execVsel (p : PartId) (q : Port) (w : TWord) (s : State) : Res := onDev (fun d => d.vecIssue p q w (vselForm p w)) s
/-- VDIV (R82, R123). -/
def execVdiv (p : PartId) (q : Port) (w : TWord) (s : State) : Res := onDev (fun d => d.vecIssue p q w (binForm 0x38 w)) s
/-- What VSQRT checks and touches at issue. -/
def vsqrtForm (_ : PartId) (w : TWord) : VForm :=
  ⟨0x39, (word3 w false false (imm0 w)), ⟨.yes, .yes, .no, .no⟩,
    shapeElem, extD⟩

/-- VSQRT (R82, R123). -/
def execVsqrt (p : PartId) (q : Port) (w : TWord) (s : State) : Res := onDev (fun d => d.vecIssue p q w (vsqrtForm p w)) s
/-- What VIOP checks and touches at issue. OPF[49], BF16 mode, is refused for an INT32 instruction (DESIGN CHOICE, log entry 145). -/
def viopForm (_ : PartId) (w : TWord) : VForm :=
  ⟨0x3A, (word3 w true true true && !opf w 1), ⟨.yes, .yes, .opt, .opt⟩,
    shapeElem, extD⟩

/-- VIOP (R81, R123): the INT32 operation that IMM[7:0] selects. -/
def execViop (p : PartId) (q : Port) (w : TWord) (s : State) : Res := onDev (fun d => d.vecIssue p q w (viopForm p w)) s

/-! ## Class 0x4 -/

/-- Word rule of VSF and VSFD: no scalars, no second word. -/
def word4 (w : TWord) (immOk : Bool) : Bool := !w.x && !opf w 3 && !opf w 2 && immOk

/-- The function code is one of R99. -/
def codeCheck (w : TWord) : Option Status := refuseIf (!sfuCodeOk (bits w.imm 5 0)) St.formatInvalid

/-- What VSF checks and touches at issue. -/
def vsfForm (_ : PartId) (w : TWord) : VForm :=
  ⟨0x40, (word4 w (bits w.imm 7 6 == 0) && !opf w 0), ⟨.yes, .yes, .no, .no⟩,
    (fun _ a => firstOf [codeCheck w, fitsAll a]), extD⟩

/-- VSF (R98, R99). -/
def execVsf (p : PartId) (q : Port) (w : TWord) (s : State) : Res := onDev (fun d => d.vecIssue p q w (vsfForm p w)) s

/-- What VSFD checks and touches at issue. -/
def vsfdForm (_ : PartId) (w : TWord) : VForm :=
  ⟨0x41, (word4 w (bits w.imm 7 6 == 0) && !opf w 0), ⟨.yes, .yes, .yes, .no⟩,
    (fun _ a => firstOf [codeCheck w, fitsAll a]), extD⟩

/-- VSFD (R100). -/
def execVsfd (p : PartId) (q : Port) (w : TWord) (s : State) : Res := onDev (fun d => d.vecIssue p q w (vsfdForm p w)) s


/-- What SFLOAD checks and touches at issue. -/
def sfloadForm (p : PartId) (w : TWord) : VForm :=
  ⟨0x42, (!w.x && w.mod == 0 && bits w.imm 15 5 == 0), ⟨.no, .yes, .no, .no⟩,
    (fun d a => optCheck (fun x => firstOf [d.checkImage p x 6208,
        refuseIf (match d.region x.base with
          | some r => r.kind != 2
          | none => true) St.badDescriptor]) a.s1), (fun a => (a.s1.toList.map (fun x => toExtent (imageExt x 6208)), []))⟩

/-- SFLOAD (R101, R102): the image lies in the operand cache; one elsewhere is refused with BAD_DESCRIPTOR (DESIGN CHOICE, log entry 125). -/
def execSfload (p : PartId) (q : Port) (w : TWord) (s : State) : Res := onDev (fun d => d.vecIssue p q w (sfloadForm p w)) s

/-- Whether a destination holds one element per run of a source's innermost dimension, the dimension kept with size 1 or dropped
(R91, log entry 22). -/
def redShape (src dst : Desc) : Bool :=
  let o := src.dims.drop 1
  dst.dims == 1 :: o || dst.dims == o ++ [1]

/-- What VRED checks and touches at issue. -/
def vredForm (_ : PartId) (w : TWord) : VForm :=
  ⟨0x43, (word4 w true && !opf w 0), ⟨.yes, .yes, .no, .no⟩,
    (fun _ a => match a.d, a.s1 with
      | some x, some y => firstOf
          [ refuseIf (decide (5 < bits w.imm 7 0)) St.badDescriptor,
            refuseIf (bits w.imm 7 0 == 5 && !(x.norec && x.fmt == 0xD)) St.formatInvalid,
            refuseIf (!redShape y x) St.badDescriptor ]
      | _, _ => some St.badDescriptor), extD⟩

/-- VRED (R91). -/
def execVred (p : PartId) (q : Port) (w : TWord) (s : State) : Res := onDev (fun d => d.vecIssue p q w (vredForm p w)) s

/-- What VCVT checks and touches at issue. -/
def vcvtForm (_ : PartId) (w : TWord) : VForm :=
  ⟨0x44, (word4 w (imm0 w)), ⟨.yes, .yes, .no, .no⟩,
    shapeElem, extD⟩

/-- VCVT (R97). -/
def execVcvt (p : PartId) (q : Port) (w : TWord) (s : State) : Res := onDev (fun d => d.vecIssue p q w (vcvtForm p w)) s

/-- A top-k list tensor of lists of `k` (R94, R76). -/
def isTopk (x : Desc) (k : Nat) : Bool := x.norec && (x.fmt == 0 || x.fmt == 0xD) && x.dim 0 == 2 * k

/-- What VTKMERGE checks and touches at issue. -/
def vtkmergeForm (_ : PartId) (w : TWord) : VForm :=
  ⟨0x45, (word4 w (!bit w.imm 7) && !opf w 0), ⟨.yes, .yes, .yes, .no⟩,
    (fun _ a => match a.d, a.s1, a.s2 with
      | some x, some y, some z =>
        let k := bits w.imm 6 0
        refuseIf (k == 0 || decide (64 < k) || !isTopk x k || !isTopk y k || !isTopk z k || x.rows != y.rows || x.rows != z.rows)
          St.badDescriptor
      | _, _, _ => some St.badDescriptor), extD⟩

/-- VTKMERGE (R76): lists of `k` in IMM[6:0], direction in OPF[49] (log entry 23). -/
def execVtkmerge (p : PartId) (q : Port) (w : TWord) (s : State) : Res := onDev (fun d => d.vecIssue p q w (vtkmergeForm p w)) s

/-! ## Class 0x5 -/

/-- Tiles of one plane of a destination, and of the whole (R94). -/
def planeTiles (x : Desc) : Nat := ceilDiv (x.dim 1) 32 * ceilDiv (x.dim 0) 32
def destTiles (x : Desc) : Nat := planeTiles x * (x.dim 2 * x.dim 3)

/-- VACC's own refusals (R93, R94). -/
def vaccShape (w : TWord) (a : VArgs) : Option Status :=
  match a.d with
  | none => some St.badDescriptor
  | some x =>
    let t := bits w.w1 63 40 + 1
    if opf w 2 then
      refuseIf (!(x.norec && (x.fmt == 0 || x.fmt == 0xD)) || decide (ceilDiv x.rows 32 < t) || opf w 0 || opf w 1
        || a.s1.isSome || a.s2.isSome || a.s3.isSome) St.badDescriptor
    else firstOf
      [ refuseIf (opf w 1 && !sfuCodeOk (bits w.imm 5 0)) St.formatInvalid,
        refuseIf (match a.s1 with
          | some b => b.count != x.dim 0 && b.count != 1
          | none => false) St.badDescriptor,
        refuseIf (match a.s2 with
          | some y => !y.fits x
          | none => false) St.badDescriptor,
        refuseIf (match a.s3 with
          | some c => c.count != x.rows && c.count != x.dim 1 && c.count != 1
          | none => false) St.badDescriptor,
        refuseIf (decide (destTiles x < t)) St.badDescriptor ]

/-- What VACC checks and touches at issue. -/
def vaccForm (_ : PartId) (w : TWord) : VForm :=
  ⟨0x50, (w.x && bits w.imm 7 6 == 0 && bits w.w1 19 0 == 0 && (opf w 1 || bits w.imm 5 0 == 0) && (opf w 0 || bits w.w1 23 20 == 0)),
    ⟨.yes, .opt, .opt, .opt⟩,
    (fun _ a => vaccShape w a), extD⟩

/-- VACC (R92 to R96). -/
def execVacc (p : PartId) (q : Port) (w : TWord) (s : State) : Res := onDev (fun d => d.vecIssue p q w (vaccForm p w)) s

/-- Rows of a pair-per-row statistics tensor: FP32, two values per row (R103, log entry 24). -/
def isStats (x : Desc) (rows : Nat) : Bool := x.norec && x.fmt == 0 && x.dim 0 == 2 && x.rows == rows

/-- A tensor of one FP32 value per row. -/
def isRowVec (x : Desc) (rows : Nat) : Bool := x.norec && x.fmt == 0 && x.count == rows

/-- What VSMXSTEP checks and touches at issue. -/
def vsmxStepForm (p : PartId) (w : TWord) : VForm :=
  ⟨0x51, (bits w.mod 3 0 == 0 && imm0 w && (!w.x || bits w.w1 31 0 == 0)), ⟨.yes, .yes, .yes, .yes⟩,
    (fun d a => match a.d, a.s1, a.s2, a.s3 with
      | some x, some y, some m, some c => firstOf
          [ refuseIf (y.fmt != 0 || x.dims != y.dims || !isStats m x.rows || !isRowVec c x.rows) St.badDescriptor,
            d.vecDst p m, d.vecDst p c ]
      | _, _, _, _ => some St.badDescriptor), (fun a => (a.reads (match a.d with
        | some x => x.count
        | none => 0), (extDS3 a).2 ++ a.s2.toList.flatMap Desc.exts))⟩

/-- VSMX.STEP (R103): D is P, S1 the scores, S2 the statistics (m, l), S3 the correction tensor (log entry 24). -/
def execVsmxStep (p : PartId) (q : Port) (w : TWord) (s : State) : Res := onDev (fun d => d.vecIssue p q w (vsmxStepForm p w)) s

/-- What VSMXEND checks and touches at issue. -/
def vsmxEndForm (p : PartId) (w : TWord) : VForm :=
  ⟨0x52, (bits w.mod 3 0 == 0 && imm0 w && (!w.x || w.w1 == 0)), ⟨.yes, .yes, .yes, .yes⟩,
    (fun d a => match a.d, a.s1, a.s2, a.s3 with
      | some x, some y, some m, some c => firstOf
          [ refuseIf (x.dims != y.dims || !isStats m x.rows || !isRowVec c x.rows) St.badDescriptor, d.vecDst p c ]
      | _, _, _, _ => some St.badDescriptor), extDS3⟩

/-- VSMX.END (R104): D is O, S1 O before, S2 the statistics, S3 the log-sum-exp tensor (log entry 24). -/
def execVsmxEnd (p : PartId) (q : Port) (w : TWord) (s : State) : Res := onDev (fun d => d.vecIssue p q w (vsmxEndForm p w)) s

/-- What VSMXBWD checks and touches at issue. -/
def vsmxBwdForm (_ : PartId) (w : TWord) : VForm :=
  ⟨0x53, (bits w.mod 3 0 == 0 && imm0 w && (!w.x || bits w.w1 31 0 == 0)), ⟨.yes, .yes, .yes, .yes⟩,
    (fun _ a => match a.d, a.s1, a.s2, a.s3 with
      | some x, some y, some g, some m => refuseIf (x.dims != y.dims || x.dims != g.dims || !isStats m x.rows) St.badDescriptor
      | _, _, _, _ => some St.badDescriptor), extD⟩

/-- VSMX.BWD (R105): D is dS, S1 the scores, S2 dP, S3 the pairs (LSE, D) of each row (log entry 24). -/
def execVsmxBwd (p : PartId) (q : Port) (w : TWord) (s : State) : Res := onDev (fun d => d.vecIssue p q w (vsmxBwdForm p w)) s

/-- An offset tensor of `n + 1` INT32 entries (R106). -/
def isOffsets (x : Desc) (n : Nat) : Bool := x.fmt == 0xD && x.count == n + 1

/-- Pooling modes of IMM[7:0] in the order of R106: 0 sum, 1 mean, 2 max, 3 weighted; of VUNPOOL also 4, the weights' gradient (log entry
25). -/
def poolMode (w : TWord) : Nat := bits w.imm 7 0

/-- What VPOOL checks and touches at issue. -/
def vpoolForm (p : PartId) (w : TWord) : VForm :=
  ⟨0x54, (!w.x && bits w.mod 3 0 == 0), ⟨.yes, .yes, .yes, if poolMode w = 3 then .yes else if poolMode w = 2 then .opt else .no⟩,
    (fun d a => match a.d, a.s1, a.s2 with
      | some x, some r, some o => firstOf
          [ refuseIf (decide (3 < poolMode w)) St.badDescriptor,
            refuseIf (x.dim 0 != r.dim 0 || !isOffsets o x.rows) St.badDescriptor,
            refuseIf (match a.s3 with
              | some y => if poolMode w = 3 then y.fmt != 0 || y.count != r.rows else y.fmt != 0xD || y.dims != x.dims
              | none => false) St.badDescriptor,
            if poolMode w = 2 then optCheck (fun y => d.vecDst p y) a.s3 else none ]
      | _, _, _ => some St.badDescriptor), (fun a => if poolMode w = 2 then extDS3 a else extD a)⟩

/-- VPOOL (R106, R107): D pooled rows, S1 rows, S2 offsets, S3 weights or the arg-max output (log entry 25). -/
def execVpool (p : PartId) (q : Port) (w : TWord) (s : State) : Res := onDev (fun d => d.vecIssue p q w (vpoolForm p w)) s

/-- The operands of VUNPOOL's weight gradient (R108): D one value per row, S1 the pooled gradient, S2 offsets, S3 the rows. Rows of RANK 0 are refused
(DESIGN CHOICE, log entry 143). -/
def weightGradShape (x g o : Desc) (y : Option Desc) : Option Status :=
  refuseIf (match y with
    | some r => x.count != r.rows || r.dim 0 != g.dim 0 || !isOffsets o g.rows || r.rank == 0
    | none => true) St.badDescriptor

/-- What VUNPOOL checks and touches at issue. -/
def vunpoolForm (_ : PartId) (w : TWord) : VForm :=
  ⟨0x55, (!w.x && bits w.mod 3 0 == 0), ⟨.yes, .yes, .yes, if 2 ≤ poolMode w then .yes else .no⟩,
    (fun _ a => match a.d, a.s1, a.s2 with
      | some x, some g, some o =>
        if poolMode w = 4 then weightGradShape x g o a.s3
        else firstOf
          [ refuseIf (decide (3 < poolMode w)) St.badDescriptor,
            refuseIf (x.dim 0 != g.dim 0 || !isOffsets o g.rows) St.badDescriptor,
            refuseIf (match a.s3 with
              | some y => if poolMode w = 3 then y.fmt != 0 || y.count != x.rows else y.fmt != 0xD || y.dims != g.dims
              | none => false) St.badDescriptor ]
      | _, _, _ => some St.badDescriptor), extD⟩

/-- VUNPOOL (R108): D gradient rows, S1 the pooled gradient, S2 offsets, S3 weights or recorded rows; mode 4 writes the weights' gradient
(log entry 25). -/
def execVunpool (p : PartId) (q : Port) (w : TWord) (s : State) : Res := onDev (fun d => d.vecIssue p q w (vunpoolForm p w)) s

end Sys2Proof.Machine
end

