-- ==== Sys2Proof/Machine/VecRun.lean ====
section
/-! DEFINITION. The vector engine at work (R86 to R108): segments of the instructions in progress, and the accumulator read path. -/
namespace Sys2Proof.Machine

/-! ## Lanes and masks (R86 to R90) -/

/-- Whether the lane of a destination element is active (R89): `idx` its flattened index, `ix` its position. -/
def Dev.active (d : Dev) (i : VIns) (idx : Nat) (ix : List Nat) : Bool :=
  let col : Int := (ix.getD 0 0 : Int) + sext 32 (bits i.maskW 31 0)
  let row : Int := (ix.getD 1 0 : Int) + sext 32 (bits i.maskW 63 32)
  match TWordMaskKind i.w with
  | 0 => true
  | 1 => (match i.mask with
    | some m => bit (memGet d.mem (m.base + idx / 8)) (idx % 8)
    | none => false)
  | 2 => decide (col ≤ row)
  | _ => decide (col ≤ row) && decide (row - col < (bits i.maskW2 30 0 : Int))

/-- What an inactive lane does (R90). -/
def idleLane (i : VIns) : Lane := if TWordMz i.w then .val (.fin false 0 0) false else .keep

/-- What keys an instruction's random bits (R46). -/
def VIns.key (i : VIns) (p : PartId) : RndKey :=
  { seed := i.seed, tensor := 0, source := i.port.num, part := p.val, hop := 0, step := i.step }

/-- An optional source at a destination position, broadcast (R87); `dflt` where it is absent. -/
def Dev.srcAt (d : Dev) (x : Option Desc) (dflt : F32) (ix : List Nat) : F32 :=
  match x with
  | some y => d.rdF32 y (y.bcast ix)
  | none => dflt

/-- An operand of VIOP as an INT32 value. -/
def Dev.intAt (d : Dev) (x : Option Desc) (dflt : F32) (ix : List Nat) : BitVec 32 :=
  match x with
  | some y =>
    if y.fmt = 0xB ∨ y.fmt = 0xC ∨ y.fmt = 0xD then BitVec.ofInt 32 (d.rdInt y (y.bcast ix))
    else BitVec.ofNat 32 (convElem 0xD .rne (d.rdVal y (y.bcast ix))).1
  | none => dflt

/-- The predicate of VCMP (R472). -/
def vcmp (pred : Nat) (a b : F32) : Bool :=
  match f32Cmp a b with
  | none => pred == 1
  | some c =>
    match pred with
    | 0 => c == 0
    | 1 => c != 0
    | 2 => decide (c < 0)
    | 3 => decide (c ≤ 0)
    | 4 => decide (0 < c)
    | _ => decide (0 ≤ c)

/-- The FP32 operation of an elementwise opcode (R49, R82, R98, R100, R472). -/
def Part.vecOp (x : Part) (i : VIns) (a b c : F32) : F32 :=
  match i.opc.toNat with
  | 0x30 => f32Add a b
  | 0x31 => f32Sub a b
  | 0x32 => f32Mul a b
  | 0x33 => f32Fma a b c
  | 0x34 => f32Min a b
  | 0x35 => f32Max a b
  | 0x36 => if vcmp (bits i.w.imm 2 0) a b then f32One else f32Zero
  | 0x37 => if f32Cmp a f32Zero = some 1 then b else c
  | 0x38 => f32Div a b
  | 0x39 => f32Sqrt a
  | 0x40 => x.sfuEval (bits i.w.imm 5 0) false a
  | 0x41 => f32Mul b (x.sfuEval (bits i.w.imm 5 0) true a)
  | _ => a

/-- An INT32 result as a conversion takes it: exact into an integer format, decoded to FP32 into any other (R37, R50). -/
def intResult (fmt : Nat) (v : BitVec 32) : Val := if fmt = 0xB ∨ fmt = 0xC ∨ fmt = 0xD then .ofInt v.toInt else ofF32 (f32OfInt v.toInt)

/-- The value of an elementwise instruction at a destination position. -/
def Dev.elemVal (d : Dev) (p : PartId) (i : VIns) (x : Desc) (idx : Nat) (ix : List Nat) : Val :=
  if i.opc = 0x3A then
    intResult x.fmt (Config.viop (BitVec.ofNat 8 (bits i.w.imm 7 0)) (d.intAt i.s1 0 ix)
      (d.intAt (if opf i.w 3 then none else i.s2) (scalarA i.w) ix) (d.intAt (if opf i.w 2 then none else i.s3) (scalarB i.w) ix))
  else
    let a := d.srcAt i.s1 f32Zero ix
    let b := d.srcAt (if opf i.w 3 then none else i.s2) (scalarA i.w) ix
    let c := d.srcAt (if opf i.w 2 then none else i.s3) (scalarB i.w) ix
    let r := (d.part p).vecOp i a b c
    let rnd := if i.opc = 0x44 ∧ opf i.w 0 then .sr (randBits { i.key p with tensor := x.tensorId } (x.indexBase + idx)) else .rne
    ofF32 (if opf i.w 1 then bf16Round rnd r else r)

/-- The lane of a destination element of an elementwise instruction. -/
def Dev.elemLane (d : Dev) (p : PartId) (i : VIns) (x : Desc) (idx : Nat) : Lane :=
  let ix := ixOf x.dims idx
  if d.active i idx ix then .val (d.elemVal p i x idx ix) true else idleLane i

/-- Whether VCVT marks its conversion stochastic (R44). -/
def VIns.sr (i : VIns) : Bool := i.opc == 0x44 && opf i.w 0

/-! ## Completion and faults -/

/-- A vector instruction leaves the engine; an input it had claimed is released and the next VACC may claim it (R92). -/
def Part.vecDrop (x : Part) (i : VIns) : Part :=
  let rel := fun (a : AccIn) => if a.claim = some (i.port.num, i.id) then { a with claim := none } else a
  { x with vq := x.vq.filter (fun j => !(j.port.num == i.port.num && j.id == i.id)), in0 := rel x.in0, in1 := rel x.in1 }

def Dev.vecDone (d : Dev) (p : PartId) (i : VIns) : Dev :=
  ((((d.backToWork p (.vector, 0)).modPart p (fun x => x.vecDrop i))).complete p i.port i.id).claimInputs p

/-- The vector engine stops the issuing stream (R95, R107, R128, R136, R163). -/
def Dev.vecFault (d : Dev) (p : PartId) (i : VIns) (code : Status) (addr : Nat) : Dev :=
  (((d.modPart p (fun x => x.vecDrop i)).setFlag (R.vecStatus p) 0 true).execFault p i.port i.id i.pc unitVec code (i.pc / 8) addr).claimInputs p

/-- Checks before an instruction reads its first data: step tags, then uncorrectable errors (R128, R157, R163). -/
def Dev.vecReadCheck (d : Dev) (i : VIns) : Option (Status × Nat) :=
  let src := ([i.s1, i.s2, i.s3, i.mask].filterMap id)
  match src.find? (fun x => !(d.tagOk x i.step)) with
  | some x => some (St.versionMismatch, x.base)
  | none =>
    match src.find? d.badData with
    | some x => some (St.eccUncorrected, d.badAt x)
    | none => none

def Dev.vecReplace (d : Dev) (p : PartId) (i : VIns) : Dev :=
  d.modPart p (fun x => { x with vq := x.vq.map (fun j => if j.port.num = i.port.num ∧ j.id = i.id then i else j) })

/-! ## Elementwise instructions, segment by segment -/

/-- A lane as the staging buffer holds it (R97): the FP32 value and whether its events count (R90). -/
def laneF32 (l : Lane) : Option (F32 × Bool) :=
  match l with
  | .keep => none
  | .val v c => some (toF32 v, c)

def laneOf (x : Option (F32 × Bool)) : Lane :=
  match x with
  | some v => .val (ofF32 v.1) v.2
  | none => .keep

/-- Flattened index of the last element of block `b`. -/
def Desc.blockLast (x : Desc) (b : Nat) : Nat :=
  let ix := x.blockIx b
  flatOf x.dims (ix.mapIdx (fun k i => if k == x.axis then i + x.blockLen ix - 1 else i))

/-- The blocks whose last element lies among elements `lo` to `hi - 1`: those that these elements finish (R97). -/
def Desc.blocksEnding (x : Desc) (lo hi : Nat) : List Nat :=
  (List.range x.blocks).filter (fun b => decide (lo ≤ x.blockLast b) && decide (x.blockLast b < hi))

/-- Stores some blocks of a blocked destination, each from its whole block of lanes. -/
def Dev.storeBs (d : Dev) (x : Desc) (sr : Bool) (k : RndKey) (lane : Nat → Lane) (bs : List Nat) : Dev × Ev :=
  bs.foldl (fun (z : Dev × Ev) b =>
    let w := z.1.storeBlock x sr k lane b
    (w.1, z.2.add w.2)) (d, {})

/-- Stores the lanes of elements `lo` to `hi - 1`: the elements themselves, or the blocks that they finish, and counts their events (R97, R51). -/
def Dev.storeRange (d : Dev) (p : PartId) (x : Desc) (sr : Bool) (k : RndKey) (lo hi : Nat) (lane : Nat → Lane) : Dev :=
  let r := if x.blocked then d.storeBs x sr k lane (x.blocksEnding lo hi)
    else d.storeRun x sr k lo ((List.range (hi - lo)).map (fun j => lane (lo + j)))
  r.1.count p x.layer.toNat r.2

/-- Lanes of elements from `lo` on, in flattened order, are stored, those of blocks not yet finished staged (R97). -/
def Dev.stageStore (d : Dev) (p : PartId) (i : VIns) (x : Desc) (sr : Bool) (lo : Nat) (lanes : List Lane) : Dev × List (Option (F32 × Bool)) :=
  let acc := if x.blocked then i.acc ++ lanes.map laneF32 else []
  (d.storeRange p x sr (i.key p) lo (lo + lanes.length)
    (fun j => if x.blocked then laneOf (acc.getD j none) else lanes.getD (j - lo) .keep), acc)

/-- A turn of an instruction that gives its destination's elements in flattened order; `next` is its position after the turn. -/
def Dev.stageTurn (d : Dev) (p : PartId) (i : VIns) (x : Desc) (sr : Bool) (lo : Nat) (lanes : List Lane) (next : Nat) : Dev :=
  let r := d.stageStore p i x sr lo lanes
  if x.count ≤ lo + lanes.length then r.1.vecDone p i else r.1.vecReplace p { i with pos := next, acc := r.2 }

/-- A turn that stops its instruction with BAD_DESCRIPTOR where `stop` says so, behind what it has stored. -/
def Dev.stageStop (d : Dev) (p : PartId) (i : VIns) (x : Desc) (stop : Bool) (addr lo : Nat) (lanes : List Lane) (next : Nat) : Dev :=
  if stop then (d.stageStore p i x false lo lanes).1.vecFault p i St.badDescriptor addr else d.stageTurn p i x false lo lanes next

/-- The lanes of an instruction's segment of 512 elements (R86). -/
def VIns.segLanes (i : VIns) (x : Desc) (lane : Nat → Lane) : List Lane :=
  (List.range (Nat.min 512 (x.count - 512 * i.pos))).map (fun j => lane (512 * i.pos + j))

/-- One segment of 512 elements (R86) of an instruction whose lanes are given. -/
def Dev.segTurn (d : Dev) (p : PartId) (i : VIns) (x : Desc) (sr : Bool) (lane : Nat → Lane) : Dev :=
  d.stageTurn p i x sr (512 * i.pos) (i.segLanes x lane) (i.pos + 1)

/-- One segment of an elementwise instruction. -/
def Dev.elemSegment (d : Dev) (p : PartId) (i : VIns) (x : Desc) : Dev := d.segTurn p i x i.sr (fun j => d.elemLane p i x j)

/-! ## Instructions that go by rows: a turn is as many whole rows as a segment packs (log entry 31) -/

/-- Rows of a destination that one turn writes: those of a segment, at least one, or the rows that fill its blocks along an outer axis. -/
def Desc.rowGroup (x : Desc) (r : Nat) : Nat :=
  if x.blocked && x.axis != 0 then
    let inner := prodL ((x.dims.take x.axis).drop 1)
    Nat.min 32 (x.dim x.axis - r / inner % x.dim x.axis) * inner
  else Nat.max 1 (512 / x.dim 0)

/-- The rows of this turn. -/
def VIns.rows (i : VIns) (x : Desc) : List Nat := (List.range (Nat.min (x.rowGroup i.pos) (x.rows - i.pos))).map (i.pos + ·)

/-- Stores `k` FP32 values per row of the turn into a statistics tensor. -/
def Dev.storeStats (d : Dev) (p : PartId) (i : VIns) (x : Desc) (k : Nat) (vs : List F32) : Dev :=
  d.storeRange p x false (i.key p) (k * i.pos) (k * i.pos + vs.length) (fun j => .val (ofF32 (vs.getD (j - k * i.pos) 0)) true)

/-- The end of a turn of rows of `x`. -/
def Dev.rowsDone (d : Dev) (p : PartId) (i : VIns) (x : Desc) (rs : List Nat) : Dev :=
  if x.rows ≤ i.pos + rs.length then d.vecDone p i else d.vecReplace p { i with pos := i.pos + rs.length }

/-- A row decoded to FP32. -/
def Dev.rowF32 (d : Dev) (x : Desc) (r : Nat) : List F32 := (List.range (x.dim 0)).map (fun k => d.rdF32 x (x.rowIx r k))

/-- The elements of row `r` that a segment reads behind those that earlier segments of the row have read (R86, R91). -/
def VIns.more (i : VIns) (row : List F32) : List F32 := i.run ++ (row.drop i.run.length).take 512

/-- VRED (R91): the runs that a segment packs; a longer run goes by segments of 512 elements, its result behind the last of them. -/
def Dev.runVred (d : Dev) (p : PartId) (i : VIns) (x y : Desc) : Dev :=
  let op := bits i.w.imm 7 0
  let one := fun (xs : List F32) =>
    if op = 5 then Val.ofInt (argMax xs)
    else ofF32 (if opf i.w 1 then bf16Round .rne (reduce op xs) else reduce op xs)
  let lane := fun r xs => if d.active i r (ixOf x.dims r) then Lane.val (one xs) true else idleLane i
  if 512 < y.dim 0 then
    let xs := i.more (d.rowF32 y i.pos)
    if xs.length < y.dim 0 then d.vecReplace p { i with run := xs }
    else d.stageTurn p { i with run := [] } x false i.pos [lane i.pos xs] (i.pos + 1)
  else
    let n := Nat.min (512 / y.dim 0) (y.rows - i.pos)
    d.stageTurn p i x false i.pos ((List.range n).map (fun j => lane (i.pos + j) (d.rowF32 y (i.pos + j)))) (i.pos + n)

/-- A top-k list of `k` pairs in row `r` of a tensor (R77). -/
def Dev.topkRow (d : Dev) (x : Desc) (k r : Nat) : List (F32 × Nat) :=
  (List.range k).map (fun j => (BitVec.ofNat 32 (d.rdCode x (x.rowIx r (2 * j))), d.rdCode x (x.rowIx r (2 * j + 1))))

/-- Writes words `k`, `k + 1`, ... of row `row` as stored bit patterns; a masked word is kept, or 0 (R90, R94). -/
def Dev.emitRow (d : Dev) (i : VIns) (x : Desc) (row k : Nat) : List F32 → Dev
  | [] => d
  | v :: t =>
    let ix := x.rowIx row k
    let d' := if d.active i (flatOf x.dims ix) ix then d.wrCode x ix v.toNat
      else if TWordMz i.w then d.wrCode x ix 0 else d
    d'.emitRow i x row (k + 1) t

/-- VTKMERGE (R76, R77). -/
def Dev.runVtkmerge (d : Dev) (p : PartId) (i : VIns) (x y z : Desc) : Dev :=
  let k := bits i.w.imm 6 0
  let sm := opf i.w 1
  let rs := i.rows x
  (d.each rs (fun d r =>
    d.emitRow i x r 0 (rankWords (rankPad k sm (rankMerge k sm [] (d.topkRow y k r ++ d.topkRow z k r)))))).rowsDone p i x rs

/-- SFLOAD (R102). -/
def Dev.runSfload (d : Dev) (p : PartId) (i : VIns) (y : Desc) : Dev :=
  let img := d.rd y.base 6208
  let n := bits i.w.imm 4 0
  if imageOk img then
    ((d.modPart p (fun x => { x with sfu := Tab.put x.sfu n img })).setReg (R.sfuSlot p n)
      (BitVec.ofNat 64 (2 ^ 32 + leNat (sliceB img 0x1C 4)))).vecDone p i
  else d.vecFault p i St.badDescriptor y.base

/-- α of the online softmax: scalar a of the second word, 1 without one (log entry 24). -/
def smxAlpha (w : TWord) : F32 := if w.x then scalarA w else f32One

/-- A row's scores after scaling and masking (R103). -/
def Dev.smxScores (d : Dev) (i : VIns) (y : Desc) (r : Nat) : List F32 :=
  (d.rowF32 y r).mapIdx (fun k v =>
    if d.active i (flatOf y.dims (y.rowIx r k)) (y.rowIx r k) then f32Mul (smxAlpha i.w) v else 0xFF800000)

/-- The rows of a turn of VSMX.STEP, whose scores `sc` gives (R103): P, then the statistics and the correction of each row. l * c + sum is a
multiplication and an addition, each rounded (DESIGN CHOICE, log entry 124). -/
def Dev.stepRows (d : Dev) (p : PartId) (i : VIns) (x m c : Desc) (rs : List Nat) (sc : Nat → List F32) : Dev :=
  let img := (d.part p).sfuImage
  let row := fun r =>
    let sc := sc r
    let mOld := d.rdF32 m (m.rowIx r 0)
    let mNew := f32Max mOld (redMax sc)
    let cor := if mNew = 0xFF800000 then f32One else sfuExp img (f32Sub mOld mNew)
    (mNew, cor, sc.map (fun v => if v = 0xFF800000 then f32Zero else sfuExp img (f32Sub v mNew)), d.rdF32 m (m.rowIx r 1))
  let rows := rs.map row
  let n := x.dim 0
  let d := d.storeRange p x false (i.key p) (n * i.pos) (n * (i.pos + rs.length)) (fun j =>
    Lane.val (ofF32 (((rows.getD (j / n - i.pos) (0, 0, [], 0)).2.2.1).getD (j % n) f32Zero)) (d.active i j (ixOf x.dims j)))
  let lNew := rs.mapIdx (fun k r =>
    let t := rows.getD k (0, 0, [], 0)
    f32Add (f32Mul t.2.2.2 t.2.1) (redSum false (d.rowF32 x r)))
  let d := d.storeStats p i m 2 (rows.mapIdx (fun k t => [t.1, lNew.getD k 0])).flatten
  (d.storeStats p i c 1 (rows.map (fun t => t.2.1))).rowsDone p i x rs

/-- VSMX.STEP (R103): whole rows; a row of more than a segment is read segment by segment and written behind the last of them. -/
def Dev.runStep (d : Dev) (p : PartId) (i : VIns) (x y m c : Desc) : Dev :=
  if 512 < y.dim 0 then
    let xs := i.more (d.smxScores i y i.pos)
    if xs.length < y.dim 0 then d.vecReplace p { i with run := xs }
    else d.stepRows p { i with run := [] } x m c [i.pos] (fun _ => xs)
  else d.stepRows p i x m c (i.rows x) (d.smxScores i y)

/-- Stores one FP32 value for each row of `x` whose last element is among elements `lo` to `hi - 1`. -/
def Dev.storeRowEnds (d : Dev) (p : PartId) (i : VIns) (x c : Desc) (lo hi : Nat) (v : Nat → F32) : Dev :=
  d.storeRange p c false (i.key p) (lo / x.dim 0) (hi / x.dim 0) (fun r => .val (ofF32 (v r)) true)

/-- VSMX.END (R104), segment by segment. -/
def Dev.runEnd (d : Dev) (p : PartId) (i : VIns) (x y m c : Desc) : Dev :=
  let img := (d.part p).sfuImage
  let l := fun r => d.rdF32 m (m.rowIx r 1)
  let lse := fun r => if (ofF32 (l r)).isZero then 0xFF800000 else f32Add (d.rdF32 m (m.rowIx r 0)) (sfuLog img (l r))
  let lane := fun j =>
    let ix := ixOf x.dims j
    let r := j / x.dim 0
    if d.active i j ix then Lane.val (ofF32 (if (ofF32 (l r)).isZero then f32Zero else f32Mul (d.rdF32 y ix) (sfuRecip img (l r)))) true
    else idleLane i
  let lanes := i.segLanes x lane
  (d.storeRowEnds p i x c (512 * i.pos) (512 * i.pos + lanes.length) lse).stageTurn p i x false (512 * i.pos) lanes (i.pos + 1)

/-- VSMX.BWD (R105), segment by segment: stochastic rounding whatever the destination's kind. alpha * s and the subtraction of LSE round
separately (DESIGN CHOICE, log entry 124). -/
def Dev.runBwd (d : Dev) (p : PartId) (i : VIns) (x y g m : Desc) : Dev :=
  let img := (d.part p).sfuImage
  let al := smxAlpha i.w
  d.segTurn p i x true (fun j =>
    let ix := ixOf x.dims j
    let r := flatOf (x.dims.drop 1) (ix.drop 1)
    let lse := d.rdF32 m (m.rowIx r 0)
    let pv := if d.active i j ix && lse != 0xFF800000 then sfuExp img (f32Sub (f32Mul al (d.rdF32 y ix)) lse) else f32Zero
    Lane.val (ofF32 (f32Mul (f32Mul al pv) (f32Sub (d.rdF32 g ix) (d.rdF32 m (m.rowIx r 1))))) (d.active i j ix))

/-! ## Pooling (R106 to R108) -/

/-- Offset entry `k`. -/
def Dev.offAt (d : Dev) (o : Desc) (k : Nat) : Int := d.rdInt o (ixOf o.dims k)

/-- Segments before the first whose offsets R107 refuses: all `s`, or fewer; the first offset's predecessor is 0 (log entry 25). -/
def Dev.goodSegs (d : Dev) (o : Desc) (n s : Nat) : Nat :=
  let bad := fun i => decide (d.offAt o i < 0) || decide (d.offAt o (i + 1) < d.offAt o i) || decide ((n : Int) < d.offAt o (i + 1))
  (List.range s).findIdx bad

/-- Rows of a segment. -/
def Dev.segRows (d : Dev) (o : Desc) (i : Nat) : List Nat :=
  (List.range ((d.offAt o (i + 1)) - (d.offAt o i)).toNat).map (fun k => (d.offAt o i).toNat + k)

/-- Row of the maximum of an element: the first NaN, else the lowest among equals (R106). -/
def maxRow (rows : List Nat) (xs : List F32) : Int := ((rows.getD (argMax xs) 0 : Nat) : Int)

/-- One element of a pooled row: value and recorded row (R106). The weighted sum rounds each product before it is added (DESIGN CHOICE, log entry
124). -/
def Dev.poolElem (d : Dev) (mode : Nat) (r : Desc) (wt : Option Desc) (rows : List Nat) (k : Nat) : F32 × Int :=
  match rows with
  | [] => (f32Zero, -1)
  | _ =>
    let xs := rows.map (fun j => d.rdF32 r (r.rowIx j k))
    let sum := fun (l : List F32) => match l with
      | [] => f32Zero
      | v :: t => t.foldl f32Add v
    match mode with
    | 0 => (sum xs, 0)
    | 1 => (f32Div (sum xs) (f32OfInt rows.length), 0)
    | 2 => (redMax xs, maxRow rows xs)
    | _ => (sum (rows.zipWith (fun j v => f32Mul (match wt with
        | some w => d.rdF32 w (ixOf w.dims j)
        | none => f32One) v) xs), 0)

/-- The lane of element `j` of a destination that has a value there under the instruction's mask; without one it is kept. -/
def Dev.maskLane (d : Dev) (i : VIns) (x : Desc) (j : Nat) (v : Option Val) : Lane :=
  match v with
  | some v => if d.active i j (ixOf x.dims j) then .val v true else idleLane i
  | none => .keep

/-- One segment of an instruction that stops behind it where `stop` says so. -/
def Dev.segStop (d : Dev) (p : PartId) (i : VIns) (x : Desc) (stop : Bool) (addr : Nat) (lane : Nat → Lane) : Dev :=
  d.stageStop p i x stop addr (512 * i.pos) (i.segLanes x lane) (i.pos + 1)

/-- VPOOL (R106, R107), segment by segment: the pooled elements before the first row whose offsets are refused. -/
def Dev.runVpool (d : Dev) (p : PartId) (i : VIns) (x r o : Desc) : Dev :=
  let mode := poolMode i.w
  let good := d.goodSegs o r.rows x.rows
  let n := Nat.min 512 (x.count - 512 * i.pos)
  let lo := 512 * i.pos
  let pooled : Nat → Option (F32 × Int) := fun j =>
    if j / x.dim 0 < good then some (d.poolElem mode r i.s3 (d.segRows o (j / x.dim 0)) (j % x.dim 0)) else none
  let d1 := match (if mode = 2 then i.s3 else none) with
    | some y => d.storeRange p y false (i.key p) lo (lo + n) (fun j => d.maskLane i y j ((pooled j).map (fun (t : F32 × Int) => .ofInt t.2)))
    | none => d
  d1.segStop p i x (decide (good * x.dim 0 < lo + n)) o.base (fun j => d.maskLane i x j ((pooled j).map (fun (t : F32 × Int) => ofF32 t.1)))

/-- The gradient of element `k` of row `j` in segment `s` (R108). -/
def Dev.unpoolElem (d : Dev) (mode : Nat) (g : Desc) (y : Option Desc) (s len j k : Nat) : F32 :=
  let v := d.rdF32 g (g.rowIx s k)
  match mode with
  | 0 => v
  | 1 => f32Div v (f32OfInt len)
  | 2 => (match y with
    | some m => if d.rdInt m (m.rowIx s k) = (j : Int) then v else f32Zero
    | none => f32Zero)
  | _ => f32Mul (match y with
    | some w => d.rdF32 w (ixOf w.dims j)
    | none => f32One) v

/-- The segment of row `j` among the first `good`. -/
def Dev.segOf (d : Dev) (o : Desc) (good j : Nat) : Option Nat :=
  (List.range good).find? (fun s => decide (d.offAt o s ≤ (j : Int)) && decide ((j : Int) < d.offAt o (s + 1)))

/-- A row and its segment's pooled gradient, pair by pair; nothing where the row lies in no segment. -/
def Dev.gradPairs (d : Dev) (g r : Desc) (s : Option Nat) (j : Nat) : List (F32 × F32) :=
  match s with
  | some s => (d.rowF32 g s).zip (d.rowF32 r j)
  | none => (d.rowF32 r j).map (fun v => (f32Zero, v))

/-- The pairs of a list of values, two by two. -/
def twos : List F32 → List (F32 × F32)
  | a :: b :: t => (a, b) :: twos t
  | _ => []

/-- The dot product of a row and its segment's pooled gradient, in the order of R91, each product fused (R108, log entry 25). -/
def weightGrad (ps : List (F32 × F32)) : F32 :=
  let lane := fun l => ((List.range (ceilDiv (ps.length - l) 512)).map (fun k => ps.getD (l + 512 * k) (0, 0))).foldl
    (fun acc t => f32Fma t.1 t.2 acc) f32Zero
  pairTree 9 ((List.range (Nat.min 512 ps.length)).map lane)

/-- The weights' gradient of VUNPOOL (R108): the rows that a segment packs; a longer row goes by segments of 512 elements, as a reduction does. -/
def Dev.runWeightGrad (d : Dev) (p : PartId) (i : VIns) (x g o r : Desc) : Dev :=
  let good := d.goodSegs o r.rows g.rows
  let lane := fun j ps => d.maskLane i x j ((d.segOf o good j).map (fun _ => ofF32 (weightGrad ps)))
  let finish := fun (i : VIns) (lanes : List Lane) =>
    d.stageStop p i x (good < g.rows && decide (x.count ≤ i.pos + lanes.length)) o.base i.pos lanes (i.pos + lanes.length)
  if 512 < g.dim 0 then
    let ps := d.gradPairs g r (d.segOf o good i.pos) i.pos
    let xs := i.run ++ ((ps.drop (i.run.length / 2)).take 512).flatMap (fun t => [t.1, t.2])
    if xs.length < 2 * g.dim 0 then d.vecReplace p { i with run := xs }
    else finish { i with run := [] } [lane i.pos (twos xs)]
  else finish i ((List.range (Nat.min (512 / g.dim 0) (x.count - i.pos))).map (fun k =>
    lane (i.pos + k) (d.gradPairs g r (d.segOf o good (i.pos + k)) (i.pos + k))))

/-- VUNPOOL (R108), segment by segment: rows of no segment, or of one whose offsets are refused, are kept. -/
def Dev.runVunpool (d : Dev) (p : PartId) (i : VIns) (x g o : Desc) : Dev :=
  match poolMode i.w, i.s3 with
  | 4, some r => d.runWeightGrad p i x g o r
  | _, _ =>
    let good := d.goodSegs o x.rows g.rows
    let val := fun j => (d.segOf o good (j / x.dim 0)).map (fun s =>
      ofF32 (d.unpoolElem (poolMode i.w) g i.s3 s ((d.offAt o (s + 1)) - (d.offAt o s)).toNat (j / x.dim 0) (j % x.dim 0)))
    d.segStop p i x (good < g.rows && decide (x.count ≤ 512 * (i.pos + 1))) o.base (fun j => d.maskLane i x j (val j))

/-- One turn of an instruction: a segment, or the whole rows that one packs; a table load is one turn (R88, R169, log entry 31). -/
def Dev.vecTurn (d : Dev) (p : PartId) (i : VIns) : Dev :=
  match i.opc.toNat, i.d, i.s1, i.s2, i.s3 with
  | 0x42, _, some y, _, _ => d.runSfload p i y
  | 0x43, some x, some y, _, _ => d.runVred p i x y
  | 0x45, some x, some y, some z, _ => d.runVtkmerge p i x y z
  | 0x51, some x, some y, some m, some c => d.runStep p i x y m c
  | 0x52, some x, some y, some m, some c => d.runEnd p i x y m c
  | 0x53, some x, some y, some g, some m => d.runBwd p i x y g m
  | 0x54, some x, some r, some o, _ => d.runVpool p i x r o
  | 0x55, some x, some g, some o, _ => d.runVunpool p i x g o
  | _, some x, _, _, _ => d.elemSegment p i x
  | _, _, _, _, _ => d.vecDone p i

/-- The bytes that a vector instruction reads and writes. -/
def VIns.exts (i : VIns) : List Extent :=
  ([i.s1, i.s2, i.s3, i.d].filterMap (fun o => o)).flatMap Desc.exts
    ++ i.mask.toList.map (fun m => toExtent (m.maskExt (match i.d with
      | some x => x.count
      | none => 0)))

/-- Whether a port's first instruction can take the lanes: it is no VACC, which its input drives (R92), and needs no channel that retrains
(R165). -/
def Dev.vecReady (d : Dev) (i : VIns) : Bool := i.opc != 0x50 && !d.extsBusy i.exts

/-- The instruction that takes the lanes next: round-robin among F, B and U, the scalar port where none of them is ready (R88). -/
def Dev.vecPick (d : Dev) (p : PartId) : Option VIns :=
  let x := d.part p
  let order := [(x.vLast + 1) % 3, (x.vLast + 2) % 3, x.vLast % 3, 3]
  (order.filterMap x.vecHead).find? d.vecReady

/-- VECTOR_SEGMENT (R88). -/
def execVectorSegment (p : PartId) (s : State) : Res :=
  onDev (fun d =>
    if d.fenced p then d
    else match d.vecPick p with
      | none => d
      | some i =>
        let d := if i.port.num < 3 then d.modPart p (fun x => { x with vLast := i.port.num }) else d
        match (if i.pos = 0 then d.vecReadCheck i else none) with
        | some e => (d.markIfEcc e).vecFault p i e.1 e.2
        | none => d.vecTurn p i) s

/-! ## The accumulator read path (R92 to R96) -/

/-- The VACC that has claimed an input. -/
def Part.claimant (x : Part) (n : Fin 2) : Option VIns :=
  match (x.inp n).claim with
  | some (q, id) => x.vq.find? (fun i => i.port.num == q && i.id == id)
  | none => none

/-- An optional bias, addend or multiplier at a position: b by column, c by row of the destination or of its plane (R93). -/
def Dev.biasAt (d : Dev) (b : Option Desc) (col : Nat) : F32 :=
  match b with
  | some y => d.rdF32 y (ixOf y.dims (if y.count = 1 then 0 else col))
  | none => f32Zero

def Dev.rowMulAt (d : Dev) (c : Option Desc) (x : Desc) (ix : List Nat) : F32 :=
  match c with
  | some y =>
    let row := flatOf (x.dims.drop 1) (ix.drop 1)
    d.rdF32 y (ixOf y.dims (if y.count = 1 then 0 else if y.count = x.rows then row else ix.getD 1 0))
  | none => f32One

/-- The epilogue of one drained value (R93). -/
def Dev.epilogue (d : Dev) (p : PartId) (i : VIns) (x : Desc) (ix : List Nat) (v : F32) : F32 :=
  let y := f32Fma i.alpha v (d.biasAt i.s1 (ix.getD 0 0))
  let y := match i.s2 with
    | some a => f32Fma (d.rowMulAt i.s3 x ix) (d.rdF32 a (a.bcast ix)) y
    | none => y
  if opf i.w 1 then (d.part p).sfuEval (bits i.w.imm 5 0) false y else y

/-- Destination position of row `r`, column `k` of tile `t` (R94). -/
def tileIx (x : Desc) (t r k : Nat) : List Nat :=
  let tn := ceilDiv (x.dim 0) 32
  let plane := t / planeTiles x
  let u := t % planeTiles x
  [32 * (u % tn) + k, 32 * (u / tn) + r, plane % x.dim 2, plane / x.dim 2]

/-- Whether a position lies in the tensor. -/
def Desc.inside (x : Desc) (ix : List Nat) : Bool := (List.range 4).all (fun k => decide (ix.getD k 0 < x.dim k))

/-- The lanes of a tile: flattened index and lane of each value inside ROWS, COLS and the destination. -/
def Dev.tileLanes (d : Dev) (p : PartId) (i : VIns) (x : Desc) (t rows cols : Nat) (vals : List (List F32)) : List (Nat × Lane) :=
  (List.range rows).flatMap (fun r => (List.range cols).filterMap (fun k =>
    let ix := tileIx x t r k
    if x.inside ix then
      let idx := flatOf x.dims ix
      some (idx, if d.active i idx ix then .val (ofF32 (d.epilogue p i x ix ((vals.getD r []).getD k f32Zero))) true else idleLane i)
    else none))

/-- Results staged over tiles, for a block axis outside the plane (R97). -/
def stageTile (n : Nat) (acc : List (Option (F32 × Bool))) (l : List (Nat × Lane)) : List (Option (F32 × Bool)) :=
  l.foldl (fun a e => a.set e.1 (laneF32 e.2)) (if acc.isEmpty then List.replicate n none else acc)

/-- The tile in which a destination position lies (R94). -/
def tileOf (x : Desc) (ix : List Nat) : Nat :=
  (ix.getD 2 0 + x.dim 2 * ix.getD 3 0) * planeTiles x + ix.getD 1 0 / 32 * ceilDiv (x.dim 0) 32 + ix.getD 0 0 / 32

/-- The blocks that a tile finishes: those whose last element lies in it (R97); with the last tile, all that are staged. -/
def Desc.blocksOfTile (x : Desc) (t : Nat) (last : Bool) : List Nat :=
  (List.range x.blocks).filter (fun b => last || tileOf x (ixOf x.dims (x.blockLast b)) == t)

/-- The status bits that a consumed tile leaves in VEC_STATUS (R95). -/
def Dev.noteTile (d : Dev) (p : PartId) (n : Fin 2) (w : W64) : Dev :=
  let o := R.vecStatus p
  let d := if bit w 5 || bit w 4 then d.setFlag o (4 + 2 * n.val) true else d
  let d := if bit w 2 then d.setFlag o (5 + 2 * n.val) true else d
  if bit w 3 then d.setFlag o 3 true else d

/-- The input's rows and status word are consumed or discarded, and their credits return (R92); rows of an emission that waited with the array
for credits have followed them, and the emission is over (R73, R77). -/
def Dev.freeInput (d : Dev) (p : PartId) (n : Fin 2) : Dev :=
  let d := d.modPart p (fun x => x.setInp n { x.inp n with status := none, rows := [], short := false })
  if (d.arr p n).emit.isEmpty then d
  else
    let d := d.setArr p n { d.arr p n with emit := [] }
    match (d.arr p n).toks with
    | tok :: _ => d.popToken p n tok none
    | [] => d

/-- A tile in tile mode. -/
def Dev.tileMode (d : Dev) (p : PartId) (i : VIns) (x : Desc) (rows cols : Nat) (vals : List (List F32)) (last : Bool) : Dev :=
  let l := d.tileLanes p i x i.pos rows cols vals
  if x.blocked && decide (1 < x.axis) then
    let acc := stageTile x.count i.acc l
    let bs := x.blocksOfTile i.pos last
    let r := d.storeBs x false (i.key p) (fun j => laneOf (acc.getD j none)) bs
    let d := r.1.count p x.layer.toNat r.2
    if last then d.vecDone p i
    else d.vecReplace p { i with pos := i.pos + 1, acc := acc.mapIdx (fun j v => if bs.contains (x.blockOf j) then none else v) }
  else
    let d := d.storeSome p x (i.key p) l
    if last then d.vecDone p i else d.vecReplace p { i with pos := i.pos + 1 }

/-- An emission in top-k mode (R94). -/
def Dev.topkMode (d : Dev) (p : PartId) (i : VIns) (x : Desc) (rows : Nat) (vals : List (List F32)) (last : Bool) : Dev :=
  let d := d.each (List.range rows) (fun d r =>
    if 32 * i.pos + r < x.rows then d.emitRow i x (32 * i.pos + r) 0 (vals.getD r []) else d)
  if last then d.vecDone p i else d.vecReplace p { i with pos := i.pos + 1 }

/-- The tile at a claimed input is checked, processed and written (R92 to R96). -/
def Dev.vaccTile (d : Dev) (p : PartId) (n : Fin 2) : Dev :=
  match (d.part p).claimant n, ((d.part p).inp n).status with
  | some i, some w =>
    match i.d with
    | none => d
    | some x =>
      if d.fenced p || d.extsBusy i.exts then d
      else
        let vals := ((d.part p).inp n).rows ++ (d.arr p n).emit
        let topk := opf i.w 2
        let cols := bits w 26 21
        if bits w 63 48 ≠ (bits i.w.w1 39 24 + i.pos) % 2 ^ 16 ∨ bit w 6 ≠ topk ∨ (topk ∧ 2 * (cols + 1) ≠ x.dim 0) then
          (d.freeInput p n).vecFault p i St.badDescriptor x.base
        else match (if i.pos = 0 then d.vecReadCheck i else none) with
          | some e => ((d.freeInput p n).markIfEcc e).vecFault p i e.1 e.2
          | none =>
            let d := (d.noteTile p n w).freeInput p n
            let last := i.pos == bits i.w.w1 63 40
            if topk then d.topkMode p i x (bits w 20 15) vals last
            else d.tileMode p i x (bits w 20 15) cols vals last
  | _, _ => d

/-- VACC_TILE (R92 to R96). -/
def execVaccTile (p : PartId) (n : Fin 2) (s : State) : Res := onDev (fun d => d.vaccTile p n) s

end Sys2Proof.Machine
end

