-- ==== Sys2Proof/Machine/Watch.lean ====
section
/-! DEFINITION. Progress watchdogs (R400, R401), internal checks (R136, R402), the patrol scrubber (R163), droop (R16) and the registers
that set them (R417 to R419, R376). -/
namespace Sys2Proof.Machine

/-! ## Streams and cores (R400, R136, R113) -/

/-- An instruction that every port issues (R123) is presented to its port; no other command is. -/
def present (i : Instr) (s : State) : Res :=
  match i with
  | .setpw p q w => execSetpw p q w s
  | .setstep p q w => execSetstep p q w s
  | .setepoch p q w => execSetepoch p q w s
  | .dload p q w => execDload p q w s
  | .dstep p q w => execDstep p q w s
  | .post p q w => execPost p q w s
  | .cset p q w => execCset p q w s
  | .mmul p q w => execMmul p q w s
  | .mmulh p q w => execMmulh p q w s
  | .vadd p q w => execVadd p q w s
  | .vsub p q w => execVsub p q w s
  | .vmul p q w => execVmul p q w s
  | .vfma p q w => execVfma p q w s
  | .vmin p q w => execVmin p q w s
  | .vmax p q w => execVmax p q w s
  | .vcmp p q w => execVcmp p q w s
  | .vsel p q w => execVsel p q w s
  | .vdiv p q w => execVdiv p q w s
  | .vsqrt p q w => execVsqrt p q w s
  | .viop p q w => execViop p q w s
  | .vsf p q w => execVsf p q w s
  | .vsfd p q w => execVsfd p q w s
  | .sfload p q w => execSfload p q w s
  | .vred p q w => execVred p q w s
  | .vcvt p q w => execVcvt p q w s
  | .vtkmerge p q w => execVtkmerge p q w s
  | .vacc p q w => execVacc p q w s
  | .vsmxStep p q w => execVsmxStep p q w s
  | .vsmxEnd p q w => execVsmxEnd p q w s
  | .vsmxBwd p q w => execVsmxBwd p q w s
  | .vpool p q w => execVpool p q w s
  | .vunpool p q w => execVunpool p q w s
  | .move p q w => execMove p q w s
  | .mfill p q w => execMfill p q w s
  | .mgather p q w => execMgather p q w s
  | .mscatter p q w => execMscatter p q w s
  | .mput p q w => execMput p q w s
  | .mget p q w => execMget p q w s
  | .crs p q w => execCrs p q w s
  | .cag p q w => execCag p q w s
  | .car p q w => execCar p q w s
  | .ca2a p q w => execCa2a p q w s
  | .cbc p q w => execCbc p q w s
  | .crsh p q w => execCrsh p q w s
  | .ckv p q w => execCkv p q w s
  | .upd p q w => execUpd p q w s
  | .uroute p q w => execUroute p q w s
  | .uload p q w => execUload p q w s
  | .uscal p q w => execUscal p q w s
  | _ => .next s

/-- The instruction that a hazard or a full unit queue holds in front of a sequencer (R119, R134). -/
def Dev.heldInstr (d : Dev) (p : PartId) (x : Seq) : Option Instr :=
  (d.port p x.port).heldWord.bind (fun w => portCmd (bits w.1 63 56) p x.port w.1 (w.2.getD 0))

/-- A sequencer tries the instruction that holds it again. -/
def State.reissue (s : State) (p : PartId) (x : Seq) : Res :=
  match s.dev.heldInstr p x with
  | some i => present i s
  | none => .next s

/-- Whether a sequencer's instruction is held still. -/
def State.stillHeld (s : State) (p : PartId) (x : Seq) : Bool :=
  match s.reissue p x with
  | .next t => t.dev.seqState p x == 3
  | _ => false

/-- The device with every channel ready. -/
def Dev.allTrained (d : Dev) : Dev := d.each allParts (fun d p => d.modPart p (fun x => { x with trainQ := [], refresh := [] }))

/-- SEQ_WATCHDOG_EXPIRE (R400, R136): a stream that waits or is held stops with TIMEOUT, as for a fault found at issue; a counter that satisfies
its WAIT wins, and the wait completes, and so does the end of what holds the instruction, which then issues (R26).
A stream that only a retraining channel holds does not stop (R165). -/
def execSeqWatchdogExpire (p : PartId) (q : Seq) (s : State) : Res :=
  let stop := onDev (fun d => d.issueFault p q St.timeout) s
  if s.dev.fenced p then .next s
  else if s.dev.seqState p q == 2 then (if s.dev.waitReady p q then onDev (fun d => d.waitTry p q) s else stop)
  else if s.dev.seqState p q == 3 then
    if !s.stillHeld p q then s.reissue p q
    else if { s with dev := s.dev.allTrained }.stillHeld p q then stop
    else .next s
  else .next s

/-- Whether a wait is satisfied: FUNC 0 a sync counter, 1 a full mailbox, 2 an empty one, 3 to 5 PI, CI and CC of a queue. -/
def Dev.swaitMet (d : Dev) (p : PartId) (f : Nat) (n v : W64) : Bool :=
  let t : BitVec 32 := BitVec.ofNat 32 v.toNat
  match f with
  | 0 => waitMet (d.ctr p n.toNat) t
  | 1 => d.mboxFull n.toNat
  | 2 => !d.mboxFull n.toNat
  | 3 => waitMet (BitVec.ofNat 32 (d.qPi p n.toNat)) t
  | 4 => waitMet (BitVec.ofNat 32 (d.qCi p n.toNat)) t
  | _ => waitMet (BitVec.ofNat 32 (d.qCc p n.toNat)) t

/-- Whether the wait that holds a core is satisfied. -/
def Dev.swaitReady (d : Dev) (p : PartId) (c : Fin 6) : Bool :=
  match (d.core p c).wait with
  | some (f, n, v) => d.swaitMet p f.toNat n v
  | none => false

/-- A core goes on behind its wait where that is satisfied. -/
def Dev.swaitTry (d : Dev) (p : PartId) (c : Fin 6) : Dev :=
  if d.swaitReady p c then d.setCore p c { (d.core p c).step 1 with wait := none } else d

/-- Whether a core waits: in a wait instruction, or on its full port queue (R111, R400). -/
def Dev.coreWaits (d : Dev) (p : PartId) (c : Fin 6) : Bool :=
  bit (d.reg (R.scalarStatus p)) (34 + c.val) && ((d.core p c).wait.isSome || decide (8 ≤ (d.core p c).queue.length))

/-- SCALAR_WATCHDOG_EXPIRE (R400, R113): what satisfies the core's wait wins (R26). -/
def execScalarWatchdogExpire (p : PartId) (core : Fin 6) (s : State) : Res :=
  onDev (fun d =>
    if d.fenced p || !d.coreWaits p core then d
    else if d.swaitReady p core then d.swaitTry p core
    else d.coreFault p core St.timeout 0) s

/-- HEARTBEAT_EXPIRE (R400, R402). -/
def execHeartbeatExpire (p : PartId) (s : State) : Res := onDev (fun d => d.resetCause p 3 false 0 0) s

/-! ## Units (R401) -/

/-- The oldest instruction of a port in an array: one whose tile drains, the one that runs, or the first that waits. -/
def ArraySt.oldest (x : ArraySt) (want : Nat) : Option (Nat × Port) :=
  match x.toks.find? (fun t => t.port.num == want) with
  | some t => some (t.id, t.port)
  | none => ((x.cur.toList ++ x.ins).find? (fun i => i.port.num == want)).map (fun i => (i.id, i.port))

/-- The pair in which an instruction of array `a` stands breaks: the other array's product of the same port goes on by itself (R172, R174). -/
def Dev.breakPair (d : Dev) (p : PartId) (a : Fin 2) (id : Nat) (q : Port) : Dev :=
  let o := otherCtx a
  let all := fun (x : ArraySt) => x.cur.toList ++ x.ins
  match (all (d.arr p o)).find? (fun i => i.paired == 2 && i.port == q) with
  | some m =>
    let free := fun (i : MatIns) => if i.id = m.id ∧ i.port = q then { i with paired := 0 } else i
    if (all (d.arr p a)).any (fun i => i.id == id && i.port == q && i.paired != 0) then
      d.setArr p o { d.arr p o with cur := (d.arr p o).cur.map free, ins := (d.arr p o).ins.map free }
    else d
  | none => d

/-- An array abandons an instruction (R401): its tokens are discarded, no further row or emission of it is sent, and the top-k lists are
discarded; after its watchdog's expiry every context it accumulated into is emptied too. An emission that had begun is over, with what the
accumulator input holds of it. What INTERNAL leaves of the instruction is a DESIGN CHOICE: all that the watchdog takes but the contexts (log entry
141). -/
def ArraySt.abandon (x : ArraySt) (id : Nat) (q : Port) (expired : Bool) : ArraySt :=
  let mine := fun (t : DrainTok) => t.id == id && t.port.num == q.num
  let used := fun (c : Fin 2) => expired && x.toks.any (fun t => mine t && t.ctx == c)
  let keep := fun (i : MatIns) => !(i.id == id && i.port.num == q.num)
  { x with
    ctx0 := if used 0 then Ctx.empty else x.ctx0, ctx1 := if used 1 then Ctx.empty else x.ctx1,
    cur := x.cur.filter keep, ins := x.ins.filter keep, toks := x.toks.filter (fun t => !mine t), topk := none,
    emit := if x.toks.head?.any mine then [] else x.emit }

/-- The part of a discarded emission that has reached the accumulator input goes with the rest. -/
def Dev.dropShort (d : Dev) (p : PartId) (a : Fin 2) : Dev :=
  d.modPart p (fun x =>
    if (x.inp a).short && (x.arr a).emit.isEmpty then x.setInp a { x.inp a with status := none, rows := [], short := false } else x)

/-- Address of an instruction in flight. -/
def Dev.flightPc (d : Dev) (p : PartId) (q : Port) (id : Nat) : Nat :=
  match (d.port p q).flights.find? (fun f => f.id == id) with
  | some f => f.pc
  | none => 0

/-- An array's oldest instruction of a port stops with a status and is abandoned. -/
def Dev.arrayStop (d : Dev) (p : PartId) (a : Fin 2) (want : Nat) (code : Status) : Option Dev :=
  match (d.arr p a).oldest want with
  | none => none
  | some (id, q) =>
    let pc := d.flightPc p q id
    let d := d.breakPair p a id q
    let d := (d.setArr p a ((d.arr p a).abandon id q (code == St.timeout))).dropShort p a
    some (((d.execFault p q id pc (unitArr a) code (pc / 8) 0).arrayRun p a).arrayRun p (otherCtx a))

/-- An update unit's instruction of a port stops: a UPD leaves its phase, and a UROUTE its row,
as R194 says after an expiry; else one of all four units. -/
def Dev.updUnitStop (d : Dev) (p : PartId) (c : Fin 4) (want : Nat) (code : Status) : Option Dev :=
  match ((d.part p).units[c]).q.find? (fun i => i.port.num == want) with
  | some i => some ((if code = St.timeout then d.updTearOf p c i else d).updFault p c i code 0)
  | none => ((d.part p).uops.find? (fun o => o.port.num == want)).map (fun o =>
      let d' := d.modPart p (fun x => { x with uops := x.uops.filter (· != o) })
      match o.act with
      | .rows u =>
        let pos := ((d.rowsOf u c).map (·.1)).headD 0
        (if code = St.timeout then d'.rowTear p c u else d').rowsFault p o.port o.id o.pc c code pos 0
      | _ => d'.execFault p o.port o.id o.pc (unitUpd c) code (o.pc / 8) 0)

/-- The requests of a move instruction end: a reply that still comes is delivered to nothing (R406). -/
def Dev.endRequests (d : Dev) (p : PartId) (i : MIns) : Dev :=
  let mine := fun (r : TxRec) => match r.what with
    | .mput p' q id => p' == p && q == i.port && id == i.id
    | .mget p' q id _ _ => p' == p && q == i.port && id == i.id
    | _ => false
  let cut := fun (l : List TxRec) => l.map (fun r => if mine r then { r with what := .ended } else r)
  { d with flows := d.flows.map (fun e => (e.1, { e.2 with unacked := cut e.2.unacked, awaiting := cut e.2.awaiting, waitQ := cut e.2.waitQ })) }

/-- A unit's instruction of a port stops with a status and is abandoned; `none` where the unit has none. -/
def Dev.unitStop (d : Dev) (p : PartId) (u : UnitKind) (want : Nat) (code : Status) : Option Dev :=
  match u with
  | .array a => d.arrayStop p a want code
  | .vector => ((d.part p).vq.find? (fun i => i.port.num == want)).map (fun i => d.vecFault p i code 0)
  | .move => ((d.part p).mq.find? (fun i => i.port.num == want)).map (fun i => (d.endRequests p i).moveFault p i code (i.pc / 8) 0)
  | .update c => d.updUnitStop p c want code

/-- A unit is told to abandon an instruction (R401). -/
def Dev.tell (d : Dev) (p : PartId) (u : UnitKind × Nat) : Dev :=
  d.modPart p (fun x => { x with told := if x.told.contains u then x.told else x.told ++ [u] })

/-- What a unit does with what has arrived at it: the device is the same where nothing that it waits for has (R26). -/
def Dev.unitTry (d : Dev) (p : PartId) (u : UnitKind) (q : Port) : Dev :=
  match u with
  | .array a => ((d.arrayRun p a).drainOne p a).pairTry p
  | .vector => (d.vaccTile p 0).vaccTile p 1
  | .move => d.moveRun p q.num
  | .update _ => d.unitsGo p

/-- Whether a unit's instruction of a port waits for its partner or only for a channel that retrains: neither counts against its watchdog
(R165, R174). -/
def Dev.unitExempt (d : Dev) (p : PartId) (u : UnitKind) (q : Port) : Bool :=
  match u with
  | .array a => (match (d.arr p a).cur with
      | some i => d.pairHeld p i || (!i.discard && d.extsBusy (i.a.exts ++ i.b.exts))
      | none => false)
  | .vector => (match (d.part p).vecHead q.num with
      | some i => d.extsBusy i.exts
      | none => false)
  | .move => (match (d.part p).moveHead q.num with
      | some i => d.extsBusy (i.exts.1 ++ i.exts.2)
      | none => false)
  | .update c => d.chanShut p c || (match ((d.part p).units[c]).q.find? (fun i => i.port.num == q.num) with
      | some i => d.extsBusy i.d.exts
      | none => (d.part p).uops.any (fun o => o.port.num == q.num && (match o.act with
          | .rows r => d.rowsBusy p r
          | _ => false)))

/-- UNIT_WATCHDOG_EXPIRE (R401): what the unit waits for wins where it has arrived (R26); a wait that does not count lets no watchdog expire. -/
def execUnitWatchdogExpire (p : PartId) (u : UnitKind) (q : Port) (s : State) : Res :=
  onDev (fun d =>
    let t := d.unitTry p u q
    if t ≠ d then t
    else if d.fenced p || d.unitExempt p u q then d
    else match d.unitStop p u q.num St.timeout with
      | some d => d.tell p (unitOf u q.num)
      | none => d) s

/-- UNIT_HANG_EXPIRE (R401, R402): a unit told to abandon an instruction has not returned to idle within a second period. -/
def execUnitHangExpire (p : PartId) (u : UnitKind) (s : State) : Res :=
  onDev (fun d => if (d.part p).told.any (·.1 == u) then d.resetCause p 2 false 0 0 else d) s

/-- INTERNAL_CHECK_FAILURE (R136, R402): a unit's instruction stops with INTERNAL; a failed check of the partition's logic resets it. -/
def execInternalCheckFailure (p : PartId) (site : CheckSite) (s : State) : Res :=
  onDev (fun d =>
    match site with
    | .unitInstr u q => (d.unitStop p u q.num St.internal).getD d
    | .collective n => (match d.collOp n with
        | some x => if x.part = p && x.running then d.collStop x St.internal (x.pc / 8) else d
        | none => d)
    | .partitionLogic => d.resetCause p 5 false 0 0) s

/-! ## Memory and clock (R163, R164, R16, R17) -/

/-- UNIT of a scrubber's fault record (R410). -/
def unitScrubber : Nat := 0x12

/-- PATROL_SCRUB (R163): a correctable error is corrected and counted; an uncorrectable one is recorded, the data left unchanged, and
every later reader of the word faults. -/
def execPatrolScrub (p : PartId) (word : BitVec 24) (found : EccFinding) (s : State) : Res :=
  onDev (fun d =>
    let a := sramBase p + 16 * word.toNat
    match found with
    | .clean => d
    | .correctable => d.bump (R.eccStatus p) 63 48 1
    | .uncorrectable =>
      let d := { d with poison := if d.poison.contains (a / 16) then d.poison else d.poison ++ [a / 16] }
      (d.setFlag (R.eccStatus p) 4 true).record p unitScrubber St.eccUncorrected 0 a 0) s

/-- SUPPLY_DROOP (R16, R17): array cycles of a partition's island pass stretched, while its clock runs. -/
def execSupplyDroop (p : PartId) (cycles : Nat) (s : State) : Res :=
  onDev (fun d =>
    if d.running && d.fld (R.prstStatus p) 51 48 != 3 then (d.arrayCycles p cycles).bump (R.clkStretch p) 47 0 cycles else d) s

/-! ## Registers (R417 to R419, R376, R414) -/

/-- A write of WDOG_CFG (R417): every field 16 to 30. -/
def Dev.wdogWrite (d : Dev) (p : PartId) (v : W64) : WOut :=
  .when d (refuseIf (!(List.range 7).all (fun k => decide (16 ≤ bits v (33 + 5 * k) (29 + 5 * k)) && decide (bits v (33 + 5 * k) (29 + 5 * k) ≤ 30)))
    St.badDescriptor) (fun d => d.writeReg (R.wdogCfg p) v)

/-- WDOG_CFG_WRITE (R417): Sets watchdog lengths, refusing values outside 16 to 30. -/
def execWdogCfgWrite (a : Agent) (p : PartId) (v : W64) (s : State) : Res := onAgent a (R.wdogCfg p) (fun d => d.wdogWrite p v) s

/-- A write of RUB_CFG (R418). -/
def Dev.rubCfgWrite (d : Dev) (v : W64) : WOut := .when d (refuseIf (bits v 2 1 == 3) St.badDescriptor) (fun d => d.writeReg R.rubCfg v)

/-- A write of RUB_EXPt (R419, R414). -/
def Dev.rubExpWrite (d : Dev) (t : TenantId) (v : W64) : WOut :=
  let a := bits v 47 22 * 2 ^ 22
  .when d (firstOf
    [ refuseIf (bit v 63 && d.dmaHolder == 2) St.resourceHeld,
      refuseIf (bit v 63 && !d.tenantMem t a (a + 2 ^ 22)) St.noPermission ]) (fun d => d.writeReg (R.rubExp t) v)

/-- RUB_EXP_ENABLE: a write of RUB_EXPt. -/
def execRubExpEnable (a : Agent) (t : TenantId) (v : W64) (s : State) : Res := onAgent a (R.rubExp t) (fun d => d.rubExpWrite t v) s

/-- A write of JRN_EXPORT (R376, R414). -/
def Dev.jrnExportWrite (d : Dev) (v : W64) : WOut :=
  let a := bits v 47 19 * 2 ^ 19
  let t : TenantId := Fin.ofNat 16 (bits v 62 59)
  .when d (firstOf
    [ refuseIf (bit v 63 && d.dmaHolder == 1) St.resourceHeld,
      refuseIf (bit v 63 && !d.tenantMem t a (a + 2 ^ 19)) St.noPermission ]) (fun d => d.writeReg R.jrnExport v)

/-- JRN_EXPORT_ENABLE: a write of JRN_EXPORT. -/
def execJrnExportEnable (a : Agent) (v : W64) (s : State) : Res := onAgent a R.jrnExport (fun d => d.jrnExportWrite v) s

/-! ## Incidents (R411 to R413, R421, R422) -/

/-- The 64 bytes of an incident entry. -/
def Dev.incBytes (d : Dev) (n : Nat) : List Byte := (List.range 8).flatMap (fun k => leBytes 8 (d.reg (R.inc n k)).toNat)

/-- Sends an entry's record to its tenant's endpoint, where INC_DESTt enables it. -/
def Dev.incRecord (d : Dev) (n : Nat) (t : TenantId) : Dev :=
  let w := d.reg (R.incDest t)
  if !bit w 63 then d
  else match d.tenantLif t (bits w 62 60) with
    | none => d
    | some k =>
      let ip : Ip := BitVec.ofNat 128 ((d.reg (R.incIp0 t)).toNat * 2 ^ 64 + (d.reg (R.incIp1 t)).toNat)
      let port : BitVec 16 := BitVec.ofNat 16 (if bits w 59 44 = 0 then 51430 else bits w 59 44)
      match d.flowTo t .mgmt k (d.lifClass k 1) ip port (d.lifNext k) 0 false with
      | none => d
      | some (f, d) => d.send f 0x0E 0 0 (d.incBytes n) (.incident n)

/-- INCIDENT_SEND (R413): one record of KIND 1, 131,072 management cycles after the entry opened. -/
def execIncidentSend (n : Fin 256) (s : State) : Res :=
  onDev (fun d =>
    match Tab.find d.inc n.val with
    | none => d
    | some e =>
      if e.isOpen && !e.sent then
        let d := { d with inc := Tab.put d.inc n.val { e with sent := true } }
        if h : e.tenant < 16 then d.incRecord n.val ⟨e.tenant, h⟩ else d
      else d) s

/-- INCIDENT_CLOSE (R413): sent, and 2^20 management cycles without a report on its key. -/
def execIncidentClose (n : Fin 256) (s : State) : Res :=
  onDev (fun d =>
    match Tab.find d.inc n.val with
    | none => d
    | some e => if e.isOpen && e.sent then ({ d with inc := Tab.put d.inc n.val { e with isOpen := false } }).incRecount else d) s

/-- FAULT_REPORT (R411 to R413, R277): it joins or opens an incident; a MEMBER_LOST report starts the restores with AUTO. -/
def Dev.faultReport (d : Dev) (r : Req) : Dev :=
  let l := r.payload
  if !r.mgmt ∨ l.length ≠ 64 then d.nack r 0xE St.badDescriptor 0
  else
    let st : Status := BitVec.ofNat 8 (leAt l 9 1)
    let d := d.incident ⟨r.tenant.val, leAt l 4 4, leAt l 8 1, leAt l 0xA 2 % 4096, st⟩ (leAt l 0x18 4) (leAt l 0xC 4)
      (BitVec.ofNat 64 (leAt l 0x30 8)) (leAt l 0x38 4)
    if st = St.memberLost then d.restoreAuto r.tenant (BitVec.ofNat 32 (leAt l 4 4)) else d

/-- FAULT_REPORT (R413): A received fault report joins or opens an incident and may start a restore. -/
def execFaultReport (r : Req) (s : State) : Res := onDev (fun d => d.faultReport r) s

end Sys2Proof.Machine
end

