-- ==== Sys2Proof/Machine/Tenant.lean ====
section
/-! DEFINITION. The tenant table (R378, R379), provisioning (R380), removal and scrub (R381), windows and relay entries (R333, R345, R346). -/
namespace Sys2Proof.Machine

/-! ## The table's conditions (R379) -/

/-- Valid tenants. -/
def Dev.tenants (d : Dev) : List TenantId := (List.finRange 16).filter (fun t => d.tenantValid t)

/-- Pairs of a list, each once. -/
def pairsOf {α : Type} : List α → List (α × α)
  | [] => []
  | a :: t => t.map (fun b => (a, b)) ++ pairsOf t

/-- A tenant's group range. -/
def Dev.groupLo (d : Dev) (t : TenantId) : Nat := d.fld (R.tenCfg t) 31 20
def Dev.groupHi (d : Dev) (t : TenantId) : Nat := d.fld (R.tenCfg t) 31 20 + d.fld (R.tenCfg t) 19 7

/-- Module interfaces that valid tenants map, one entry for each mapping. -/
def Dev.mappings (d : Dev) : List Nat := d.tenants.flatMap (fun t => (List.range 8).filterMap (fun i => d.tenantLif t i))

/-- No element twice. -/
def distinct : List Nat → Bool
  | [] => true
  | a :: t => !t.contains a && distinct t

/-- The conditions of R379 on a whole table. -/
def Dev.tableOk (d : Dev) : Bool :=
  let ts := d.tenants
  ts.all (fun t => d.fld (R.tenCfg t) 47 32 != 0) && (List.finRange 16).all (fun t => decide (d.groupHi t ≤ 4096))
  && (pairsOf ts).all (fun e => Nat.land (d.fld (R.tenCfg e.1) 47 32) (d.fld (R.tenCfg e.2) 47 32) == 0)
  && (pairsOf ts).all (fun e => decide (d.groupHi e.1 ≤ d.groupLo e.2) || decide (d.groupHi e.2 ≤ d.groupLo e.1)
    || d.groupLo e.1 == d.groupHi e.1 || d.groupLo e.2 == d.groupHi e.2)
  && distinct d.mappings && (List.finRange 16).all (fun t => distinct ((List.range 8).filterMap (fun i => d.tenantLif t i)))
  && decide ((ts.map (fun t => d.fld (R.tenLim t) 47 38)).sum ≤ 1024) && decide ((ts.map (fun t => d.fld (R.tenLim t) 63 48)).sum ≤ 65536)

/-! ## Windows (R333, R345) -/

/-- The extent of a window. -/
def Dev.winLo (d : Dev) (t : TenantId) (w : Nat) : Nat := d.fld (R.winBase t w) 47 12 * 4096
def Dev.winSize (d : Dev) (t : TenantId) (w : Nat) : Nat := d.fld (R.winCtrl t w) 55 32 * 4096

/-- Whether a window's extent touches a partition. -/
def Dev.winTouches (d : Dev) (t : TenantId) (w : Nat) (p : PartId) : Bool :=
  match d.spans (d.winLo t w) (d.winLo t w + d.winSize t w) 80 with
  | some l => l.any (fun e => e.1.part == p)
  | none => true

/-- Disables the windows of a tenant that a condition names. -/
def Dev.winsOff (d : Dev) (t : TenantId) (c : Nat → Bool) : Dev :=
  d.each ((List.range 64).filter c) (fun d w => d.setFlag (R.winCtrl t w) 63 false)

/-- A write of WIN_CTRLt_w (R333, R345). -/
def Dev.winCtrlWrite (d : Dev) (t : TenantId) (w : Nat) (v : W64) : WOut :=
  let n := bits v 55 32 * 4096
  .when d (refuseIf (bit v 63 && (n == 0 || !d.tenantHolds t (d.winLo t w) (d.winLo t w + n))) St.badDescriptor)
    (fun d => (d.writeReg (R.winCtrl t w) v).setFld (R.winCtrl t w) 31 0 (bits v 31 0))

/-- Who writes a tenant's windows: the owner, and partition firmware of a partition of the tenant (R333). -/
def Dev.winMay (d : Dev) (a : Agent) (t : TenantId) : Bool :=
  match a with
  | .owner => true
  | .mgmtFw => true
  | .partFw p => d.holds t p
  | .tenantCode _ => false

/-- WIN_CTRL_WRITE (R333): Enables or configures a tenant memory window under reach checks. -/
def execWinCtrlWrite (a : Agent) (t : TenantId) (w : Fin 64) (v : W64) (s : State) : Res :=
  onDev (fun d => if d.running && d.winMay a t then (d.winCtrlWrite t w.val v).1 else d) s

/-! ## Relay entries (R346) -/

/-- A write of RLY_CFGk (R346). -/
def Dev.rlyWrite (d : Dev) (k : Nat) (v : W64) : WOut :=
  let t : TenantId := Fin.ofNat 16 (bits v 62 59)
  .when d (refuseIf (bit v 63 && d.lifTenant (bits v 58 52) != some t) St.noPermission) (fun d => d.writeReg (R.rlyCfg k) v)

/-- RLY_CFG_WRITE (R346): Configures a relay entry, refusing interfaces the tenant does not hold. -/
def execRlyCfgWrite (a : Agent) (k : Fin 64) (v : W64) (s : State) : Res := onAgent a (R.rlyCfg k.val) (fun d => d.rlyWrite k.val v) s

/-! ## Provisioning (R380) -/

/-- What provisioning clears of a tenant: its journal, epochs, groups, windows, relay entries and flows; its incidents close where its armature
epoch changes (R413). -/
def Dev.provisionClear (d : Dev) (t : TenantId) : Dev :=
  let d := if d.armEpoch t = 0 then d else d.incEpoch t
  let d := { d with journal := d.journal.filter (fun e => e.1 / 8192 != t.val) }
  let d := (d.setReg (R.jrnHead t) 0).setReg (R.collEpoch t) 0
  let d := { d with coll := { d.coll with groups := d.coll.groups.filter (fun e => e.2.tenant != t),
                                          installs := d.coll.installs.filter (fun i => i.tenant != t) } }
  let d := d.winsOff t (fun _ => true)
  let d := d.each (List.range 64) (fun d k => if d.fld (R.rlyCfg k) 62 59 = t.val then d.setFlag (R.rlyCfg k) 63 false else d)
  d.each ((d.flows.filter (fun e => e.2.tenant == t && !e.2.ownerIf)).map (·.1)) Dev.closeQuiet

/-- The partitions a tenant holds. -/
def Dev.partsOf (d : Dev) (t : TenantId) : List PartId := allParts.filter (fun p => d.holds t p)

/-- Provisions a tenant (R380): then a partition reset of each of its partitions. -/
def Dev.provision (d : Dev) (t : TenantId) : Dev := (d.provisionClear t).each (d.partsOf t) (fun d p => d.resetCause p 7 true 0 0)

/-! ## Adding and removing partitions (R379, R381) -/

/-- A partition leaves tenant `t`: its windows that touch it go, it resets without a rubbing, its scrub begins (R381). -/
def Dev.removePart (d : Dev) (t : TenantId) (p : PartId) : Dev :=
  ((d.winsOff t (fun w => bit (d.reg (R.winCtrl t w)) 63 && d.winTouches t w p)).resetCause p 6 true 0 0).setFlag R.secStatus (16 + p.val) true

/-- Offset of a tenant table register. -/
def tenOff (t : TenantId) : TenReg → Nat
  | .cfg => R.tenCfg t
  | .lif => R.tenLif t
  | .lim => R.tenLim t

/-- A write of a tenant table register (R378 to R381); collectives that a higher COLL_INSTR or SEG_SLOTS lets start do so. -/
def Dev.tenWrite (d : Dev) (t : TenantId) (r : TenReg) (v : W64) : WOut :=
  let n := d.writeReg (tenOff t r) v
  let added := allParts.filter (fun p => n.holds t p && !d.holds t p)
  let removed := allParts.filter (fun p => d.holds t p && !n.holds t p)
  let prov := r == .cfg && bit v 62
  .when d (firstOf
    [ refuseIf (!n.tableOk || (prov && !bit v 63)) St.badDescriptor,
      refuseIf (added.any (fun p => bit (d.reg R.secStatus) (16 + p.val))) St.partitionReset ])
    (fun _ =>
      let n := n.each removed (fun d p => d.removePart t p)
      if prov then n.provision t else if r == .lim then n.collKick else n.each added (fun d p => d.resetCause p 7 true 0 0))

/-- TENANT_TABLE_WRITE (R379): Writes a tenant table register under the table's consistency checks. -/
def execTenantTableWrite (a : Agent) (t : TenantId) (r : TenReg) (v : W64) (s : State) : Res :=
  onAgent a (tenOff t r) (fun d => d.tenWrite t r v) s

/-- TENANT_PROVISION (R380): a write of 1 to PROV with the rest of the word as it stands. -/
def execTenantProvision (a : Agent) (t : TenantId) (s : State) : Res :=
  onAgent a (R.tenCfg t) (fun d => d.tenWrite t .cfg (putBit (d.reg (R.tenCfg t)) 62 true)) s

/-- SCRUB_COMPLETE (R381): the partition's bonded SRAM and LPDDR5X hold zeros, the registers that a partition reset alone leaves are reset,
the SCRUBBING bit clears. -/
def Dev.scrubbed (d : Dev) (p : PartId) : Dev :=
  let m := memZero (memZero d.mem (sramBase p) (sramBase p + 2 ^ 28)) (dramBase p) (dramBase p + 2 ^ 36)
  let d := { d with mem := m, poison := d.poison.filter (fun w => !(decide (sramBase p ≤ 16 * w) && decide (16 * w < sramBase p + 2 ^ 28))) }
  let d := d.each [R.plogRing p, R.plogMirror p, R.plogCtrl p, R.plogPos p] (fun d o => d.setReg o (regReset o))
  let d := (d.setFld (R.memPin p) 47 40 (d.fld (R.memPin p) 7 0 / 2)).setFlag (R.memPin p) 32 false
  (d.each (List.finRange 4) (fun d c => d.setReg (R.updOpen p c) 0)).setFlag R.secStatus (16 + p.val) false

/-- SCRUB_COMPLETE (R381): The scrub of a removed partition finishes and its SCRUBBING bit clears; the partition reset of the removal is part of it
and has ended. -/
def execScrubComplete (p : PartId) (s : State) : Res :=
  onDev (fun d => if bit (d.reg R.secStatus) (16 + p.val) && (d.part p).rst.isNone then d.scrubbed p else d) s

end Sys2Proof.Machine
end

