-- ==== Sys2Proof/Machine/Secure.lean ====
section
/-! DEFINITION. Images and measurements (R387 to R390), attestation (R391, R392), owner sessions (R393), debug access (R394 to R398). -/
namespace Sys2Proof.Machine

/-- A command that may change fuses and flash: its rest stays. -/
def onState (f : State → State) (s : State) : Res := .next (f s)

/-- A change of the device alone. -/
def State.onDev (s : State) (f : Dev → Dev) : State := { s with dev := f s.dev }

/-! ## Images (R387, R388) -/

/-- Bytes of an image's header, and of its part that SIGNATURE covers. -/
def hdrSize : Nat := 3336
def signedSize : Nat := 0x808

/-- Fields of a header. -/
def imgComponent (h : List Byte) : Nat := leAt h 6 2
def imgSvn (h : List Byte) : Nat := leAt h 8 4
def imgLen (h : List Byte) : Nat := leAt h 0x10 8

/-- All bytes of a range are 0. -/
def zeros (l : List Byte) (i n : Nat) : Bool := (sliceB l i n).all (· == 0)

/-- The fuse counter of a component's class (R388). -/
def Fuses.svn (f : Fuses) (c : Nat) : Nat :=
  if c = 0 then f.svnS1 else if c = 1 then f.svnMgmt else if c ≤ 17 then f.svnPart else f.svnMisc

/-- Why an image is refused: `svn` for check 4, `other` for the rest (R388, R427). -/
inductive ImgBad where
  | other | svn
deriving DecidableEq, Repr

/-- The checks of R388 on an image whose bytes, header first, are given. -/
def imageBad (f : Fuses) (l : List Byte) : Option ImgBad :=
  let h := sliceB l 0 hdrSize
  let key := sliceB h 0x100 1793
  let slot := leAt h 0xC 1
  let hash := if slot = 0 then f.keyHash0 else f.keyHash1
  if leAt h 0 4 ≠ 0x56465A56 ∨ leAt h 4 2 ≠ 1 ∨ !zeros h 0xD 3 ∨ !zeros h 0x60 160 ∨ !zeros h 0x801 7 then some .other
  else if 1 < slot ∨ Config.shake256 key ≠ hash ∨ bit f.keyRevoke slot then some .other
  else if !Config.falconVerify key (Config.shake256 (h.take signedSize)) (sliceB h signedSize 1280) then some .other
  else if imgSvn h < f.svn (imgComponent h) then some .svn
  else if l.length < hdrSize + imgLen h ∨ Config.shake256 (sliceB l hdrSize (imgLen h)) ≠ sliceB h 0x20 64 then some .other
  else none

/-! ## Flash (R423) -/

/-- A byte of flash; an erased byte reads 0xFF (log entry 9). -/
def flashDflt : Nat → Byte := fun _ => 0xFF
def Flash.byte (f : Flash) (a : Nat) : Byte := Tab.get flashDflt f.bytes a

/-- First byte of a bank (`true` for B). -/
def bankBase (b : Bool) : Nat := if b then 0x4200000 else 0x400000

/-- Image `k` of a bank, header first; `none` where the directory is invalid. -/
def Flash.image (f : Flash) (b : Bool) (k : Nat) : Option (List Byte) :=
  (Config.bankImage (fun i => f.byte (bankBase b + i)) k).map (fun e => (List.range e.2).map (fun i => f.byte (bankBase b + e.1 + i)))

/-- The measurement slot of a directory's image (R423): the partition image is measured into slots 2 to 17. -/
def slotOf (k : Nat) : Nat := match k with
  | 0 => 0
  | 1 => 1
  | 2 => 2
  | 3 => 18
  | _ => 19

/-- The directory's image of a measurement slot that FW_CMD names (R436). -/
def imageOf (slot : Nat) : Nat := if slot = 18 then 3 else if slot = 19 then 4 else slot

/-! ## Measurements (R389) -/

/-- DIGEST of an image. -/
def imgDigest (l : List Byte) : List Byte := Config.shake256 (sliceB l 0 signedSize)

/-- The entry of an image accepted into a slot. -/
def Dev.measOf (d : Dev) (replaced : Nat) (l : List Byte) : Meas := ⟨replaced, imgSvn l, d.localCount, imgLen l, imgDigest l⟩

/-- A slot is measured at boot: its entry, and the aggregate (R389). -/
def Dev.bootMeasure (d : Dev) (slot : Nat) (l : List Byte) : Dev :=
  { d with meas := Tab.put d.meas slot (d.measOf 0 l), boot := { d.boot with bootAgg := Config.shake256 (d.boot.bootAgg ++ imgDigest l) } }

/-- A replacement in service rewrites its slot's entry and raises REPLACED (R389, R433). -/
def Dev.replaceMeasure (d : Dev) (slot : Nat) (l : List Byte) : Dev :=
  let n := match Tab.find d.meas slot with
    | some m => m.replaced + 1
    | none => 0
  { d with meas := Tab.put d.meas slot (d.measOf n l) }

/-- The 96 bytes of an entry; an entry never written reads 0. -/
def measBytes (slot : Nat) (m : Option Meas) : List Byte :=
  match m with
  | none => sliceB [] 0 96
  | some m => leBytes 1 slot ++ [0] ++ leBytes 2 m.replaced ++ leBytes 4 m.svn ++ leBytes 8 m.at0.toNat ++ leBytes 8 m.len ++ leBytes 8 0
      ++ sliceB m.digest 0 64

/-! ## Identity (R386, R390, R443) -/

/-- The seed of the identity key. -/
def identitySeed (f : Fuses) : List Byte := Config.shake256 (0x10 :: f.uds)

/-- FUSE_STATE (R386). -/
def fuseState (f : Fuses) : List Byte :=
  [f.lifecycle.zeroExtend 8, BitVec.zeroExtend 8 f.debug, f.keyRevoke.zeroExtend 8, 0] ++ leBytes 1 f.svnS1 ++ leBytes 1 f.svnMgmt ++ leBytes 1 f.svnPart
    ++ leBytes 1 f.svnMisc ++ leBytes 4 f.moduleId.toNat ++ [f.cap] ++ sliceB [] 0 19

/-- IDENTITY_HASH, from ID_HASH0 to ID_HASH7. -/
def Dev.identityHash (d : Dev) : List Byte := (List.range 8).flatMap (fun n => leBytes 8 (d.reg (R.idHash n)).toNat)

/-- The seed of the alias key, from the digests that stand for slots 0 and 1. -/
def aliasSeed (f : Fuses) (d0 d1 : List Byte) : List Byte := Config.shake256 (0x11 :: (Config.cdi f.uds ++ d0 ++ d1 ++ leBytes 1 f.svnMgmt))

/-- The keys and hashes of a start: identity, then alias key and its certificate (R390, R392, R443). -/
def Dev.deriveKeys (d : Dev) (f : Fuses) (d0 d1 : List Byte) : Dev :=
  let idSecret := identitySeed f
  let idPublic := sliceB (Config.falconPublic idSecret) 0 1793
  let idHash := sliceB (Config.shake256 idPublic) 0 64
  let aliasSec := aliasSeed f d0 d1
  let aliasPub := sliceB (Config.falconPublic aliasSec) 0 1793
  let cert := sliceB (Config.falconSign idSecret (Config.shake256 (0x12 :: (idHash ++ aliasPub ++ d.boot.bootAgg)))) 0 1280
  let d := d.each (List.range 8) (fun d n => d.setReg (R.idHash n) (BitVec.ofNat 64 (leNat (sliceB idHash (8 * n) 8))))
  { d with boot := { d.boot with identityPublic := idPublic, aliasPublic := aliasPub, aliasSecret := aliasSec, aliasCert := cert } }

/-! ## Debug paths (R394, R395, R398) -/

/-- DBG_STATUS follows the open paths; a path that the fuses do not lock is open (R386, R398). -/
def Dev.dbgShow (d : Dev) (f : Fuses) : Dev :=
  (d.setFlag R.dbgStatus 63 (d.dbg.jtag || !bit f.debug 0)).setFlag R.dbgStatus 62 (d.dbg.live || !bit f.debug 1)

/-- A fresh DBG_CHALLENGE. -/
def Dev.dbgFresh (d : Dev) : Dev :=
  let a := d.free
  let b := a.2.free
  (b.2.setReg (R.dbgChal 0) a.1).setReg (R.dbgChal 1) b.1

/-- Every debug path is closed (R394). -/
def Dev.dbgShut (d : Dev) (f : Fuses) : Dev :=
  (({ d with dbg := { d.dbg with jtag := false, live := false, limit := 0 } }).setFld R.dbgStatus 47 32 0).dbgShow f

/-- Key of an owner slot. -/
def Flash.ownerKey (f : Flash) (slot : Nat) : Option (List Byte) := if slot = 0 then f.ownerKey0 else if slot = 1 then f.ownerKey1 else none

/-- SEC_BUF's bytes. -/
def Dev.secBuf (d : Dev) : List Byte := (List.range 176).flatMap (fun n => leBytes 8 (d.reg (R.secBuf n)).toNat)

/-- A signature that failed is counted (R393, R396). -/
def Dev.sigFail (d : Dev) : Dev := d.bump R.secStatus 63 48 1

/-- The result of a token's checks (R394, R395). -/
def State.tokenCheck (s : State) : Status :=
  let l := s.dev.secBuf
  let scope := BitVec.ofNat 64 (leAt l 0x50 8)
  let chal := leBytes 8 (s.dev.reg (R.dbgChal 0)).toNat ++ leBytes 8 (s.dev.reg (R.dbgChal 1)).toNat
  if sliceB l 0 64 ≠ s.dev.identityHash ∨ sliceB l 0x40 16 ≠ chal ∨ !zeros l 0x61 31 ∨ bits scope 63 32 ≠ 0 ∨ bits scope 15 2 ≠ 0 then St.badDescriptor
  else match s.flash.ownerKey (leAt l 0x60 1) with
    | none => St.badDescriptor
    | some k =>
      if !Config.falconVerify k (Config.shake256 (0x02 :: sliceB l 0 128)) (sliceB l 128 1280) then St.signatureInvalid
      else if bit scope 1 && s.dev.dbgHolder == 1 then St.resourceHeld
      else St.ok

/-- A write of 1 to OPEN (R394): the token serves once, whatever the checks find; the paths of its SCOPE open. -/
def State.dbgOpen (s : State) : State :=
  let c := s.tokenCheck
  let l := s.dev.secBuf
  let scope := BitVec.ofNat 64 (leAt l 0x50 8)
  s.onDev (fun d =>
    let d := (d.dbgFresh).setFld R.dbgStatus 55 48 c.toNat
    let d := if c = St.signatureInvalid then d.sigFail else d
    if c = St.ok then
      (({ d with dbg := { d.dbg with jtag := bit scope 0, live := bit scope 1, limit := BitVec.ofNat 64 (leAt l 0x58 8) } }).setFld R.dbgStatus 47 32
        (bits scope 31 16)).dbgShow s.fuse
    else d)

/-- A write of DBG_CTRL (R397): CLOSE, then OPEN. -/
def State.dbgWrite (s : State) (v : W64) : State :=
  let s := if bit v 62 then s.onDev (fun d => d.dbgShut s.fuse) else s
  if bit v 63 then s.dbgOpen else s

/-- A command of an agent on a register whose effect reaches beyond the device. -/
def onAgentState (a : Agent) (off : Nat) (f : State → State) (s : State) : Res :=
  onState (fun s => if s.dev.running && s.dev.agentMay a true off then f s else s) s

/-- DBG_OPEN (R394). -/
def execDbgOpen (a : Agent) (s : State) : Res := onAgentState a R.dbgCtrl State.dbgOpen s

/-- DBG_CLOSE (R394). -/
def execDbgClose (a : Agent) (s : State) : Res := onAgentState a R.dbgCtrl (fun s => s.onDev (fun d => d.dbgShut s.fuse)) s

/-- DEBUG_LIMIT_EXPIRE (R394): access closes at LIMIT. -/
def execDebugLimitExpire (s : State) : Res :=
  onState (fun s => if s.dev.dbg.jtag || s.dev.dbg.live then s.onDev (fun d => d.dbgShut s.fuse) else s) s

/-- JTAG_ACCESS (R386, R394): granted while the path is open or not locked; what the probe does lies outside this model. -/
def execJtagAccess (s : State) : Res :=
  onDev (fun d => { d with dbg := { d.dbg with lastJtag := some (bit (d.reg R.dbgStatus) 63) } }) s

/-! ## The report (R392) -/

/-- Partitions on which debug is open: those of the scope, or all where a path needs no token. -/
def State.dbgParts (s : State) : Nat :=
  if !bit s.fuse.debug 0 || !bit s.fuse.debug 1 then 0xFFFF
  else if s.dev.dbg.jtag || s.dev.dbg.live then s.dev.fld R.dbgStatus 47 32 else 0

/-- The tenant that a report shows: the request's; none while its interface is an owner interface. -/
def Dev.reportTenant (d : Dev) (r : Req) : Option TenantId :=
  match d.flow r.flow with
  | some f => (d.lifTenant f.lif).map (fun _ => r.tenant)
  | none => some r.tenant

/-- TABLE_DIGEST (R392, R446). -/
def Dev.tableDigest (d : Dev) : List Byte :=
  sliceB (Config.shake256 ((List.finRange 16).flatMap (fun t => [R.tenCfg t, R.tenLif t, R.tenLim t].flatMap (fun o => leBytes 8 (d.reg o).toNat)))) 0 64

/-- Bytes 0x0000 to 0x1707 of a report. -/
def State.reportBody (s : State) (r : Req) (nonce chal : List Byte) : List Byte :=
  let d := s.dev
  let t := d.reportTenant r
  let own := fun (o : TenantId → Nat) (hi lo : Nat) => match t with
    | some t => d.fld (o t) hi lo
    | none => 0
  let anyDbg := bit (d.reg R.dbgStatus) 63 || bit (d.reg R.dbgStatus) 62
  let mine := Nat.land s.dbgParts (own R.tenCfg 47 32) != 0
  let flags := b2n (d.ownerFlow r.flow) + 2 * b2n mine + 4 * b2n anyDbg + 8 * b2n d.plinth
  leBytes 4 0x52505A56 ++ leBytes 2 1 ++ leBytes 2 flags ++ sliceB nonce 0 64 ++ d.identityHash
    ++ (match s.flash.ownerKey0 with
      | some k => sliceB (Config.shake256 k) 0 64
      | none => sliceB [] 0 64)
    ++ fuseState s.fuse
    ++ leBytes 1 (match t with
      | some t => t.val
      | none => 0xFF)
    ++ leBytes 1 (own R.tenLif 63 56) ++ leBytes 2 (own R.tenCfg 47 32) ++ leBytes 2 (own R.tenCfg 31 20) ++ leBytes 2 (own R.tenCfg 19 7)
    ++ d.tableDigest ++ leBytes 8 d.localCount.toNat ++ allParts.flatMap (fun p => leBytes 2 (d.gen p)) ++ sliceB chal 0 32
    ++ sliceB d.boot.bootAgg 0 64 ++ sliceB [] 0 72 ++ (List.range 24).flatMap (fun k => measBytes k (Tab.find d.meas k))
    ++ sliceB d.boot.aliasPublic 0 1793 ++ sliceB [] 0 7 ++ sliceB d.boot.aliasCert 0 1280

/-- A fresh CHALLENGE: 32 random bytes. -/
def Dev.freshChallenge (d : Dev) : List Byte × Dev :=
  let a := d.free
  let b := a.2.free
  let c := b.2.free
  let e := c.2.free
  (leBytes 8 a.1.toNat ++ leBytes 8 b.1.toNat ++ leBytes 8 c.1.toNat ++ leBytes 8 e.1.toNat, e.2)

/-- A flow's CHALLENGE is set or consumed. -/
def Dev.setChallenge (d : Dev) (n : Nat) (c : Option (List Byte)) : Dev :=
  match d.flow n with
  | some f => d.setFlow n { f with challenge := c }
  | none => d

/-- A signed report is drawn up and sent; it replaces the flow's CHALLENGE (R392). -/
def State.sendReport (s : State) (r : Req) (nonce : List Byte) : State :=
  let c := s.dev.freshChallenge
  let s := { s with dev := c.2 }
  let body := s.reportBody r nonce c.1
  let sig := sliceB (Config.falconSign s.dev.boot.aliasSecret (Config.shake256 body)) 0 1280
  s.onDev (fun d => ((d.setChallenge r.flow (some c.1)).bump R.secStatus 47 32 1).replyCut r 0xD (body ++ sig))

/-! ## ATTEST (R391 to R393) -/

/-- Whether a further ATTEST fits the 16 of a second (R392). -/
def Dev.attestRoom (d : Dev) : Bool := decide ((d.boot.attestTimes.filter (fun t => decide ((d.localCount - t).toNat < 1000000000))).length < 16)

def Dev.attestNote (d : Dev) : Dev :=
  let l := d.boot.attestTimes.filter (fun t => decide ((d.localCount - t).toNat < 1000000000))
  { d with boot := { d.boot with attestTimes := l ++ [d.localCount] } }

/-- Takes an ATTEST of a stated length and form, or answers the refusal (R391, R392). -/
def State.attest (s : State) (r : Req) (ok : Bool) (f : State → State) : State :=
  if !r.mgmt || !ok then s.onDev (fun d => d.nack r 0xD St.badDescriptor 0)
  else if !s.dev.attestRoom then s.onDev (fun d => d.nack r 0xD St.queueFull 0)
  else f (s.onDev Dev.attestNote)

/-- FORM of an ATTEST with an extension. -/
def attestForm (l : List Byte) : Nat := leAt l 64 1
def attestSlot (l : List Byte) : Nat := leAt l 65 1

/-- The extension header of a form: its FORM, its reserved bytes. -/
def formOk (l : List Byte) (form len : Nat) : Bool := l.length == len && attestForm l == form && zeros l 66 6

/-- What an owner signature covers: the flow's CHALLENGE (R391). -/
def State.ownerDigest (s : State) (r : Req) : Option (List Byte) :=
  match s.dev.flow r.flow with
  | some f => f.challenge.map (fun c => Config.shake256 (0x01 :: (c ++ s.dev.identityHash)))
  | none => none

/-- Whether an owner signature verifies under a key. -/
def State.ownerSigOk (s : State) (r : Req) (key sig : List Byte) : Bool :=
  match s.ownerDigest r with
  | some g => Config.falconVerify key g sig
  | none => false

/-- A form refused with a status; a failed signature is counted, the CHALLENGE consumed. -/
def State.attestNo (s : State) (r : Req) (c : Status) : State :=
  s.onDev (fun d =>
    let d := d.setChallenge r.flow none
    (if c = St.signatureInvalid then d.sigFail else d).nack r 0xD c 0)

/-- The flow becomes an owner session, unless four are open (R393). -/
def State.ownerSession (s : State) (r : Req) (store : State → State) : State :=
  if 4 ≤ s.dev.sessions ∧ !s.dev.ownerFlow r.flow then s.attestNo r St.queueFull
  else
    let s := (store s).onDev (fun d =>
      match d.flow r.flow with
      | some f => d.setFlow r.flow { f with owner := true, challenge := none }
      | none => d)
    s.sendReport r (sliceB r.payload 0 64)

/-- A report (R391). -/
def State.attestReport (s : State) (r : Req) : State := s.attest r (r.payload.length == 64) (fun s => s.sendReport r (sliceB r.payload 0 64))

/-- Form 1 (R391, R393). -/
def State.attestOwner (s : State) (r : Req) : State :=
  s.attest r (formOk r.payload 1 1352) (fun s =>
    match s.flash.ownerKey (attestSlot r.payload) with
    | none => s.attestNo r St.badDescriptor
    | some k => if s.ownerSigOk r k (sliceB r.payload 72 1280) then s.ownerSession r id else s.attestNo r St.signatureInvalid)

/-- Stores an owner key: the flash owner record, and KEYS (R391, R396). -/
def State.storeKey (s : State) (slot : Nat) (k : List Byte) : State :=
  { s with flash := s.flash.setKey slot k, dev := s.dev.setFlag R.secStatus (3 + slot) true }

/-- The key that forms 2 and 3 carry, and the digest of what the vendor or the registered key signs. -/
def attestKey (l : List Byte) : List Byte := sliceB l 72 1793
def State.claimDigest (s : State) (tag : Byte) (l : List Byte) : List Byte :=
  Config.shake256 (tag :: (s.dev.identityHash ++ Config.shake256 (attestKey l) ++ leBytes 1 (attestSlot l)))

/-- Form 2 (R391, R393): a claim of an empty slot. -/
def State.attestClaim (s : State) (r : Req) : State :=
  let l := r.payload
  s.attest r (formOk l 2 4432 && decide (attestSlot l ≤ 1) && zeros l 1865 7) (fun s =>
    if (s.flash.ownerKey (attestSlot l)).isSome then s.attestNo r St.noPermission
    else if Config.vendorVerify s.fuse.keyHash0 s.fuse.keyHash1 s.fuse.keyRevoke (s.claimDigest 0x04 l) (sliceB l 1872 1280)
        && s.ownerSigOk r (attestKey l) (sliceB l 3152 1280) then
      s.ownerSession r (fun s => s.storeKey (attestSlot l) (attestKey l))
    else s.attestNo r St.signatureInvalid)

/-- Form 3 (R391, R393): owner key rotation under the registered key of the other slot. -/
def State.attestRotate (s : State) (r : Req) : State :=
  let l := r.payload
  s.attest r (formOk l 3 4432 && decide (attestSlot l ≤ 1) && zeros l 1865 7) (fun s =>
    match s.flash.ownerKey (1 - attestSlot l) with
    | none => s.attestNo r St.badDescriptor
    | some k =>
      if Config.falconVerify k (s.claimDigest 0x03 l) (sliceB l 1872 1280) && s.ownerSigOk r (attestKey l) (sliceB l 3152 1280) then
        s.ownerSession r (fun s => s.storeKey (attestSlot l) (attestKey l))
      else s.attestNo r St.signatureInvalid)

/-- Form 4 (R391): the identity certificate. -/
def State.attestCert (s : State) (r : Req) : State :=
  s.attest r (formOk r.payload 4 72) (fun s =>
    s.onDev (fun d => d.replyCut r 0xD (sliceB d.boot.identityPublic 0 1800 ++ sliceB s.flash.vendorCert 0 1280)))

/-- ATTEST_REPORT (R392): Returns a signed attestation report bound to a nonce. -/
def execAttestReport (r : Req) (s : State) : Res := onState (fun s => s.attestReport r) s
/-- ATTEST_OWNER_RESPONSE (R393): Verifies an owner signature over the challenge and makes the flow an owner session. -/
def execAttestOwnerResponse (r : Req) (s : State) : Res := onState (fun s => s.attestOwner r) s
/-- ATTEST_CLAIM (R391): Stores an owner key into an empty slot on a vendor-signed claim. -/
def execAttestClaim (r : Req) (s : State) : Res := onState (fun s => s.attestClaim r) s
/-- ATTEST_ROTATION (R391): Replaces an owner key on a signature of the other slot's key. -/
def execAttestRotation (r : Req) (s : State) : Res := onState (fun s => s.attestRotate r) s
/-- ATTEST_IDENTITY_CERT (R391): Returns the identity public key and vendor certificate. -/
def execAttestIdentityCert (r : Req) (s : State) : Res := onState (fun s => s.attestCert r) s

/-- An ATTEST as it arrives: its form by its length and FORM (R391). -/
def State.attestAny (s : State) (r : Req) : State :=
  if r.payload.length = 64 then s.attestReport r
  else match attestForm r.payload with
    | 1 => s.attestOwner r
    | 2 => s.attestClaim r
    | 3 => s.attestRotate r
    | 4 => s.attestCert r
    | _ => s.onDev (fun d => d.nack r 0xD St.badDescriptor 0)

end Sys2Proof.Machine
end

