-- ==== Sys2Proof/Machine/Boot.lean ====
section
/-! DEFINITION. Module reset, the start (R424 to R427) and plinth mode (R428 to R431). -/
namespace Sys2Proof.Machine

/-! ## Module reset (R9, R442, R461, R462) -/

/-- The device in module reset: the always-on domain keeps FSC, the carrier cap, TRIP_LAST and its lines (R435, R467, R469), and a VERIFY that has
passed still counts until its bank is programmed (R432; log entry 135). No data of a former tenant is left in memory (R381; DEDUCED, log entry 88). -/
def Dev.inReset (d : Dev) : Dev :=
  let b := d.boot
  let trip := bit (d.reg R.thermStatus) 3
  let n : Dev :=
    { Dev.reset with freeCount := d.freeCount,
                     boot := { Boot.reset with ph := .inReset, standby := b.standby, pwrEn := b.pwrEn, pwrGood := b.pwrGood,
                                               thermTrip := b.thermTrip, alertLow := trip, latched := b.latched, fruPtr := b.fruPtr,
                                               smbReply := b.smbReply, smbNack := b.smbNack, smbPec := b.smbPec,
                                               verifiedA := b.verifiedA, verifiedB := b.verifiedB } }
  ((n.setFld R.bootStatus 63 60 (d.fld R.bootStatus 63 60)).setFld R.pwrCap 37 28 (d.fld R.pwrCap 37 28)).setFlag R.thermStatus 3 trip

/-- The last reason log entry is changed (R427). -/
def Flash.logLast (f : Flash) (g : ReasonEntry → ReasonEntry) : Flash :=
  match f.log.reverse with
  | [] => f
  | e :: t => f.setLog (g e :: t).reverse

/-- A further entry; the log holds the last eight (R427). -/
def Flash.logAdd (f : Flash) (e : ReasonEntry) : Flash := f.setLog ((f.log ++ [e]).drop (f.log.length - 7))

/-- An entry with a reason recorded against a bank and its outcome failed. -/
def ReasonEntry.fail (e : ReasonEntry) (bankB : Bool) (reason : Byte) : ReasonEntry :=
  if bankB then { e with reasonB := reason, outcome := 1 } else { e with reasonA := reason, outcome := 1 }

/-- A start that has not reached BOOT_OK fails with a reason against the bank that runs (R426, R427). -/
def State.startFails (s : State) (reason : Byte) : State :=
  if s.dev.boot.ph = .starting then { s with flash := s.flash.logLast (fun e => e.fail (bit (s.dev.reg R.bootStatus) 52) reason) } else s

/-- A module reset is asserted; before BOOT_OK it makes the start a failed one (R426). -/
def State.moduleReset (s : State) (reason : Byte) : State := (s.startFails reason).onDev Dev.inReset

/-! ## What a start loads from fuses and flash (R315, R316, R319, R386, R396, R435, R443; log entry 13) -/

/-- Registers that the configuration record gives: ETH_PORT_CFG, ETH_MACm_CFG, the LIF registers. -/
def configReg (o : Nat) : Bool :=
  o == R.ethPortCfg || (decide (0x30100 ≤ o) && decide (o < 0x30140)) || (decide (0x32000 ≤ o) && decide (o < 0x34000))

def Flash.config (f : Flash) : Option (List (Nat × W64)) :=
  (Config.configRecord (fun i => f.byte (0x30000 + i))).map (fun l => l.filter (fun e => configReg e.1))

/-- Reasons of the last failed start. -/
def Flash.lastFailed (f : Flash) : Byte × Byte :=
  match f.log.reverse.find? (fun e => e.outcome == 1) with
  | some e => (e.reasonA, e.reasonB)
  | none => (0, 0)

/-- BOOT_STATUS follows the flash (R435). -/
def Dev.showBoot (d : Dev) (f : Flash) : Dev :=
  let d := (d.setFld R.bootStatus 59 56 f.mirror).setFlag R.bootStatus 51 f.active
  (d.setFld R.bootStatus 47 40 f.lastFailed.1.toNat).setFld R.bootStatus 39 32 f.lastFailed.2.toNat

/-- Identity, capacity, keys and debug paths, as fuses and flash give them. -/
def Dev.loadFixed (d : Dev) (f : Fuses) (fl : Flash) : Dev :=
  let d := (d.setFld R.idPart 47 40 f.cap.toNat).setFld R.idPart 31 24 f.dieStep.toNat
  let d := d.setFld R.idModule 31 0 f.moduleId.toNat
  let d := d.each (List.range 4) (fun d n => d.setReg (R.idFuse n) (BitVec.ofNat 64 (leNat (sliceB (fuseState f) (8 * n) 8))))
  let d := d.each allParts (fun d p => (d.setFld (R.memPin p) 7 0 f.cap.toNat).setFld (R.memPin p) 47 40 (f.cap.toNat / 2))
  let d := (d.setFlag R.secStatus 3 fl.ownerKey0.isSome).setFlag R.secStatus 4 fl.ownerKey1.isSome
  (d.dbgFresh.dbgShow f).showBoot fl

/-- What a register of the configuration record takes of its word: EN and IFTYPE of an ETH_MACm_CFG, whose other fields have reset values of their
own (R316); the RW fields of the others. -/
def configWord (o : Nat) (old v : W64) : W64 := if 0x30100 ≤ o ∧ o < 0x30140 then putBits old 63 62 (bits v 63 62) else writeWord (regFields o) old v

/-- The Ethernet registers of the configuration record. -/
def Dev.loadConfig (d : Dev) (fl : Flash) : Dev := d.each ((fl.config.getD []) : List (Nat × W64)) (fun d (e : Nat × W64) => d.setReg e.1 (configWord e.1 (d.reg e.1) e.2))

/-! ## The start (R425) -/

/-- Why a bank is refused (R427); none where all five images pass. -/
def bankReason (f : Fuses) (fl : Flash) (b : Bool) : Option Byte :=
  match fl.image b 0 with
  | none => some 0x04
  | some l =>
    match imageBad f l with
    | some .svn => some 0x02
    | some .other => some 0x01
    | none =>
      if [1, 2, 3, 4].any (fun k => (fl.image b k).isNone) then some 0x04
      else if [1, 2, 3, 4].any (fun k => (imageBad f ((fl.image b k).getD [])).isSome) then some 0x03
      else none

/-- The set of a bank runs: its slots are measured, the keys derived, the partitions loaded (R389, R390, R403, R427). -/
def State.runBank (s : State) (b : Bool) : State :=
  let img := fun k => (s.flash.image b k).getD []
  s.onDev (fun d =>
    let d := { d with boot := { d.boot with ph := .starting, bootAgg := sliceB [] 0 64, imageCount := 2,
                                            images := [(1, img 2), (2, img 3)] } }
    let d := (d.bootMeasure 0 (img 0)).bootMeasure 1 (img 1)
    let d := d.each (List.range 16) (fun d p => d.bootMeasure (2 + p) (img 2))
    let d := (d.bootMeasure 18 (img 3)).bootMeasure 19 (img 4)
    let d := (d.deriveKeys s.fuse (imgDigest (img 0)) (imgDigest (img 1))).setFlag R.bootStatus 52 b
    let d := d.each allParts (fun d p => (d.modPart p (fun x => { x with image := 1, microcode := 2 })).loadFirmware p)
    d.loadConfig s.flash)

/-- The MAC address of plinth mode (R429). -/
def plinthMac (id : BitVec 32) : Mac := BitVec.ofNat 48 (0x025A * 2 ^ 32 + id.toNat)

/-- Its IPv6 link-local address, by modified EUI-64 (R429). -/
def plinthIp (id : BitVec 32) : Ip := BitVec.ofNat 128 (0xFE80 * 2 ^ 112 + 0x005A * 2 ^ 48 + id.toNat / 2 ^ 24 * 2 ^ 40 + 0xFFFE * 2 ^ 24 + id.toNat % 2 ^ 24)

/-- An untagged owner interface of plinth mode on logical MAC 0. -/
def Dev.plinthLif (d : Dev) (k : Nat) (mac : Mac) (ip : Ip) : Dev :=
  let d := (d.setReg (R.lifIp0 k) (BitVec.ofNat 64 (ip.toNat / 2 ^ 64))).setReg (R.lifIp1 k) (BitVec.ofNat 64 ip.toNat)
  d.setReg (R.lifMac k) (BitVec.ofNat 64 (2 ^ 63 + 0xFFF * 2 ^ 48 + mac.toNat))

/-- The port in plinth mode (R429): logical MAC 0 with the record's port settings, or BREAKOUT 0 first; the link-local address, and the
record's address of interface 0 on a second interface. -/
def Dev.plinthPort (d : Dev) (f : Fuses) (fl : Flash) : Dev :=
  let rec0 := fun (o : Nat) => (match (fl.config : Option (List (Nat × W64))) with
    | some l => (List.find? (fun (e : Nat × W64) => e.1 == o) l).map Prod.snd
    | none => none)
  let d := d.setReg R.ethPortCfg (writeWord (regFields R.ethPortCfg) 0 ((rec0 R.ethPortCfg).getD 0))
  let ifType := bits ((rec0 (R.ethMacCfg 0)).getD 0) 62 62
  let d := (d.setFlag (R.ethMacCfg 0) 63 true).setFld (R.ethMacCfg 0) 62 62 ifType
  let d := d.plinthLif 0 (plinthMac f.moduleId) (plinthIp f.moduleId)
  match rec0 (R.lifIp0 0), rec0 (R.lifIp1 0) with
  | some a, some b => d.plinthLif 1 (plinthMac f.moduleId) (BitVec.ofNat 128 (a.toNat * 2 ^ 64 + b.toNat))
  | _, _ => d

/-- Plinth mode (R428): the partitions stay in reset, the measurement table holds the plinth program in slot 0. -/
def State.enterPlinth (s : State) (n : Nat) (reason : Byte) : State :=
  let g := Config.plinthDigest
  { s with
    flash := s.flash.logAdd ⟨n, s.flash.active, reason, 0, 3⟩,
    dev :=
      let d := { s.dev with boot := { s.dev.boot with ph := .plinth, bootAgg := Config.shake256 (sliceB [] 0 64 ++ g) },
                            meas := [(0, ⟨0, 0, s.dev.localCount, 0, g⟩)] }
      let d := (d.setFlag R.bootStatus 55 true).setFld R.bootStatus 31 24 reason.toNat
      let d := (d.deriveKeys s.fuse g []).each allParts (fun d p => d.setPrst p 3)
      d.plinthPort s.fuse s.flash }

/-- Whether the reason log asks for plinth mode: its last entry is a plinth request that EXIT has not ended (R425, R427, R431). -/
def Flash.plinthAsked (f : Flash) : Bool :=
  match f.log.reverse with
  | e :: _ => e.reasonA == 0x11 && e.outcome == 3
  | [] => false

/-- The bank that a start in progress runs: the one tried first, or the other where the first was refused. -/
def ReasonEntry.bankNow (e : ReasonEntry) : Bool := if (if e.bankFirst then e.reasonB else e.reasonA) = 0 then e.bankFirst else !e.bankFirst

/-- A start that was cut by a loss of standby is recorded as failed, against the bank that ran (R426, R427). -/
def Flash.logCut (f : Flash) : Flash :=
  match f.log.getLast? with
  | some e => if e.outcome = 2 then f.logLast (fun e => e.fail e.bankNow 0x07) else f
  | none => f

/-- The boot ROM tries the banks in order (R425). -/
def State.tryBanks (s : State) (n : Nat) (first : Bool) : State :=
  let s := { s with flash := (s.flash.setMirror n).logAdd ⟨n, first, 0, 0, 2⟩, dev := s.dev.setFld R.bootStatus 63 60 n }
  let note := fun (s : State) (b : Bool) (r : Byte) =>
    { s with flash := s.flash.logLast (fun e => if b then { e with reasonB := r } else { e with reasonA := r }) }
  let show' := fun (s : State) => s.onDev (fun d => d.showBoot s.flash)
  match bankReason s.fuse s.flash first with
  | none => show' (s.runBank first)
  | some r =>
    let s := note s first r
    match bankReason s.fuse s.flash (!first) with
    | none => show' (s.runBank (!first))
    | some r' =>
      let s := note s (!first) r'
      { s with flash := s.flash.logLast (fun e => { e with outcome := 1 }), dev := s.dev.inReset }

/-- The start of a released module (R425). -/
def State.start (s : State) : State :=
  let s := { s with flash := s.flash.logCut, dev := s.dev.loadFixed s.fuse s.flash.logCut }
  let n := Nat.max (s.dev.fld R.bootStatus 63 60) s.flash.mirror
  if s.fuse.lifecycle = 2 then s.enterPlinth n 0x10
  else if 3 ≤ n then s.enterPlinth n 0x09
  else if s.flash.plinthAsked then s.enterPlinth n 0x11
  else s.tryBanks (n + 1) (if (n + 1) % 2 = 0 then !s.flash.active else s.flash.active)

/-- MODULE_RESET_RELEASE (R461, R462, R425). -/
def execModuleResetRelease (s : State) : Res :=
  onState (fun s => if s.dev.boot.ph = .inReset && s.dev.boot.pwrGood then s.start else s) s

/-- MOD_RESET_ASSERT (R462): 4 cycles reset, fewer than 2 are ignored, 2 or 3 may or may not. -/
def execModResetAssert (lowCycles : Nat) (s : State) : Res :=
  onState (fun s =>
    if !s.dev.running || decide (lowCycles < 2) then s
    else if 4 ≤ lowCycles then s.moduleReset 0x06
    else
      let r := s.dev.free
      let s := { s with dev := r.2 }
      if bit r.1 0 then s.moduleReset 0x06 else s) s

/-- BOOT_DEADLINE_EXPIRE (R426). -/
def execBootDeadlineExpire (s : State) : Res :=
  onState (fun s => if s.dev.boot.ph = .starting then s.moduleReset 0x05 else s) s

/-- BOOT_OK (R426, R435): the start has succeeded; FSC and the mirror are 0. -/
def State.bootOk (s : State) : State :=
  if s.dev.boot.ph = .starting then
    let fl := (s.flash.setMirror 0).logLast (fun e => { e with outcome := 0 })
    { s with flash := fl,
             dev := ((({ s.dev with boot := { s.dev.boot with ph := .up } }).setFld R.bootStatus 63 60 0).setFlag R.bootStatus 54 true).showBoot fl }
  else s

/-- BOOT_OK_WRITE (R426, R435): management firmware's alone. -/
def execBootOkWrite (a : Agent) (s : State) : Res := onState (fun s => if a = .mgmtFw then s.bootOk else s) s

/-- PLINTH_BREAKOUT_TRY (R429): without a valid configuration record, the next breakout mode once 5 s have passed without a link. -/
def execPlinthBreakoutTry (s : State) : Res :=
  onState (fun s =>
    if s.dev.boot.ph = .plinth && s.flash.config.isNone && !bit (s.dev.reg (R.ethMacStatus 0)) 63 then
      let k := (s.dev.boot.plinthTry + 1) % 4
      s.onDev (fun d => ({ d with boot := { d.boot with plinthTry := k } }).setFld R.ethPortCfg 1 0 k)
    else s) s

end Sys2Proof.Machine
end

