-- ==== Sys2Proof/Machine/Firmware.lean ====
section
/-! DEFINITION. Firmware commands (R432, R436, R437), change in service (R433) and the management firmware handover (R434). -/
namespace Sys2Proof.Machine

/-- What a write with effects beyond the device answers: as `WOut`. -/
abbrev SOut := State × Option Status

/-! ## FW_STATUS (R437) -/

def Dev.fwState (d : Dev) : Nat := d.fld R.fwStatus 55 52

/-- The last command finished or was refused with a status. -/
def Dev.fwDone (d : Dev) (c : Status) : Dev := (((d.setFld R.fwStatus 63 56 c.toNat).setFld R.fwStatus 55 52 0).setFlag R.fwStatus 51 true)

def State.fwDone (s : State) (c : Status) : State := s.onDev (fun d => d.fwDone c)

/-- A command that runs once its checks find nothing, and finishes; otherwise it is refused with what they find. -/
def State.fwTry (s : State) (c : Option Status) (f : State → State) : State :=
  match c with
  | some e => s.fwDone e
  | none => (f s).fwDone St.ok

/-! ## The fields of FW_CMD (R436) -/

def fwOp (v : W64) : Nat := bits v 62 59
def fwBank (v : W64) : Bool := bit v 58
def fwComponent (v : W64) : Nat := bits v 57 53
def fwPart (v : W64) (p : PartId) : Bool := bit v (37 + p.val)
def fwLength (v : W64) : Nat := bits v 36 32
def fwOffset (v : W64) : Nat := bits v 31 16

/-- The partitions that PARTS selects. -/
def fwParts (v : W64) : List PartId := allParts.filter (fwPart v)

/-! ## PROGRAM (R432) -/

/-- Whether two ranges of flash have a byte in common. -/
def meets (lo hi a b : Nat) : Bool := decide (lo < b) && decide (a < hi)

/-- Why a PROGRAM of bytes `lo` to `hi` - 1 is refused: outside the flash, or touching the active bank or a record other than the
configuration record. -/
def Flash.programBad (f : Flash) (len lo hi : Nat) : Option Status :=
  firstOf
    [ refuseIf (len == 0 || decide (16 < len) || decide (0x8000000 < hi)) St.badDescriptor,
      refuseIf (meets lo hi (bankBase f.active) (bankBase f.active + 0x3E00000) || meets lo hi 0 0x30000) St.noPermission ]

/-- Writes bytes of flash from an offset. -/
def flashWrite (t : Tab Byte) (a : Nat) : List Byte → Tab Byte
  | [] => t
  | b :: l => flashWrite (Tab.set flashDflt t a b) (a + 1) l

/-- The first `n` bytes of the staging buffer. -/
def Dev.stageBytes (d : Dev) (n : Nat) : List Byte := (List.range (n / 8)).flatMap (fun k => leBytes 8 (Tab.get (fun _ => 0) d.stage k).toNat)

/-- A bank that was programmed has no VERIFY that has passed. -/
def Boot.unverify (b : Boot) (lo hi : Nat) : Boot :=
  { b with verifiedA := b.verifiedA && !meets lo hi (bankBase false) (bankBase false + 0x3E00000),
           verifiedB := b.verifiedB && !meets lo hi (bankBase true) (bankBase true + 0x3E00000) }

def State.fwProgram (s : State) (v : W64) : State :=
  let lo := fwOffset v * 0x1000
  let hi := lo + fwLength v * 0x1000
  s.fwTry (s.flash.programBad (fwLength v) lo hi) (fun s =>
    { s with flash := { s.flash with bytes := flashWrite s.flash.bytes lo (s.dev.stageBytes (fwLength v * 0x1000)) },
             dev := { s.dev with boot := s.dev.boot.unverify lo hi } })

/-! ## VERIFY, COMMIT, SVN (R432) -/

/-- VERIFY: the result goes to CODE; what DETAIL holds is not stated. -/
def State.fwVerify (s : State) (v : W64) : State :=
  let ok := (bankReason s.fuse s.flash (fwBank v)).isNone
  let r := s.dev.free
  let d := r.2.setFld R.fwStatus 31 0 r.1.toNat
  let b := d.boot
  let d := { d with boot := if fwBank v then { b with verifiedB := b.verifiedB || ok } else { b with verifiedA := b.verifiedA || ok } }
  { s with dev := d.fwDone (if ok then St.ok else St.signatureInvalid) }

/-- Whether a VERIFY of a bank has passed since it was last programmed. -/
def Boot.verified (b : Boot) (bankB : Bool) : Bool := if bankB then b.verifiedB else b.verifiedA

def State.fwCommit (s : State) (v : W64) : State :=
  s.fwTry (refuseIf (!s.dev.boot.verified (fwBank v)) St.badDescriptor) (fun s =>
    let fl := s.flash.setActive (fwBank v)
    { s with flash := fl, dev := s.dev.showBoot fl })

/-- The directory's images of a component's class (R388). -/
def classImages (c : Nat) : List Nat := if c ≤ 1 then [c] else if c = 2 then [2] else [3, 4]

/-- Whether an SVN exceeds that of an image of the class in either bank. -/
def Flash.svnBeyond (f : Flash) (c n : Nat) : Bool :=
  [false, true].any (fun b => (classImages c).any (fun k => match f.image b k with
    | some l => decide (imgSvn l < n)
    | none => false))

/-- A fuse counter only rises (R386). -/
def Fuses.raise (f : Fuses) (c n : Nat) : Fuses :=
  if c = 0 then { f with svnS1 := Nat.max f.svnS1 n }
  else if c = 1 then { f with svnMgmt := Nat.max f.svnMgmt n }
  else if c = 2 then { f with svnPart := Nat.max f.svnPart n }
  else { f with svnMisc := Nat.max f.svnMisc n }

def State.fwSvn (s : State) (v : W64) : State :=
  let n := fwOffset v
  s.fwTry (refuseIf (decide (64 < n) || s.flash.svnBeyond (fwComponent v) n) St.boundExceeded) (fun s =>
    { s with fuse := s.fuse.raise (fwComponent v) n })

/-! ## ACTIVATE and TABLES (R433) -/

/-- An image from a bank takes the next number in management memory. -/
def Dev.keepImage (d : Dev) (l : List Byte) : Nat × Dev :=
  let k := d.boot.imageCount + 1
  (k, { d with boot := { d.boot with imageCount := k, images := Tab.put d.boot.images k l } })

/-- Management firmware: the new image runs beside the old one, and the trial begins (R434). -/
def Dev.activateMgmt (d : Dev) (l : List Byte) : Dev :=
  (({ d with boot := { d.boot with oldMeas := Tab.find d.meas 1 } }).replaceMeasure 1 l).setFld R.fwStatus 55 52 4

/-- Partition firmware: the pending image, and the partitions that take it at their next reset. -/
def Dev.activatePart (d : Dev) (v : W64) (l : List Byte) : Dev :=
  let r := d.keepImage l
  let d := { r.2 with boot := { r.2.boot with pendImage := some r.1 } }
  let d := (d.setFlag R.fwStatus 49 true).setFld R.fwStatus 48 33 (Nat.lor (d.fld R.fwStatus 48 33) (bits v 52 37))
  (d.each (fwParts v) (fun d p => d.replaceMeasure (2 + p.val) l)).fwDone St.ok

/-- No partition waits for its units any more: the command has finished. -/
def Dev.swapDone (d : Dev) : Dev :=
  if d.fwState = 5 ∧ allParts.all (fun p => (d.part p).microPending.isNone) then (d.setFld R.fwStatus 55 52 0).setFlag R.fwStatus 51 true else d

/-- Microcode: every partition of PARTS swaps once its four units are idle. -/
def Dev.activateMicro (d : Dev) (v : W64) (l : List Byte) : Dev :=
  let r := (d.replaceMeasure 18 l).keepImage l
  let d := ((r.2.setFld R.fwStatus 63 56 0).setFld R.fwStatus 31 0 0).setFld R.fwStatus 55 52 5
  (d.each (fwParts v) (fun d p => d.modPart p (fun x => { x with microPending := some r.1 }))).swapDone

/-- ACTIVATE of a component. Stage 1 has no change in service, so slot 0 is refused. -/
def State.fwActivate (s : State) (v : W64) : State :=
  let c := fwComponent v
  if c = 0 then s.fwDone St.badDescriptor
  else match s.flash.image (fwBank v) (imageOf c) with
    | none => s.fwDone St.signatureInvalid
    | some l =>
      if (imageBad s.fuse l).isSome then s.fwDone St.signatureInvalid
      else s.onDev (fun d =>
        if c = 1 then d.activateMgmt l
        else if c = 2 then d.activatePart v l
        else if c = 18 then d.activateMicro v l
        else (d.replaceMeasure 19 l).fwDone St.ok)

/-- TABLES: the built-in tables of the pending partition image. -/
def State.fwTables (s : State) (v : W64) : State :=
  match s.dev.boot.pendImage with
  | none => s.fwDone St.badDescriptor
  | some k =>
    s.fwTry (refuseIf ((fwParts v).any (fun p => Config.codeSection (s.dev.image (s.dev.part p).image) != Config.codeSection (s.dev.image k)))
      St.badDescriptor) (fun s => s.onDev (fun d => d.each (fwParts v) (fun d p => d.modPart p (fun x => { x with sfuImage := k }))))

/-! ## PLINTH, EXIT, DIAG (R428, R431, R432) -/

/-- PLINTH: reason 0x11 is recorded and the module is reset. -/
def State.fwPlinth (s : State) : State :=
  let t := s.moduleReset 0x06
  { t with flash := t.flash.logAdd ⟨s.dev.fld R.bootStatus 63 60, s.flash.active, 0x11, 0, 3⟩ }

/-- EXIT: FSC and the mirror are 0, the outcome is recorded, and the module is reset. -/
def State.fwExit (s : State) : State :=
  if !s.dev.plinth then s.fwDone St.badDescriptor
  else if s.fuse.lifecycle = 2 then s.fwDone St.noPermission
  else
    let s := { s with flash := (s.flash.setMirror 0).logLast (fun e => { e with outcome := 0 }), dev := s.dev.setFld R.bootStatus 63 60 0 }
    s.moduleReset 0x06

/-- A channel's contents are destroyed: they read as memory that nothing has written. -/
def Dev.wipeChannel (d : Dev) (p : PartId) (c : Fin 4) : Dev :=
  let lo := dramBase p
  { d with mem := d.mem.filter (fun e => !(decide (lo ≤ e.1) && decide (e.1 < lo + d.cap p)
      && (pinMap (d.pinBase p) (d.cap p) (e.1 - lo)).1 == c.val)) }

/-- DIAG: DETAIL takes the number of errors that the test found; the channel test destroys the channel's contents. -/
def State.fwDiag (s : State) (v : W64) (errors : BitVec 32) : State :=
  let t := fwOffset v / 0x1000
  let n := fwOffset v % 64
  s.fwTry (refuseIf (!s.dev.plinth || t == 0 || decide (3 < t)) St.badDescriptor) (fun s =>
    s.onDev (fun d => (if t = 2 then d.wipeChannel (Fin.ofNat 16 (n / 4)) (Fin.ofNat 4 n) else d).setFld R.fwStatus 31 0 errors.toNat))

/-! ## FW_CMD (R432, R436, R430) -/

/-- The operation that a write with GO runs. -/
def State.fwRun (s : State) (v : W64) (errors : BitVec 32) : State :=
  match fwOp v with
  | 0 => s.fwProgram v
  | 1 => s.fwVerify v
  | 2 => s.fwActivate v
  | 3 => s.fwTables v
  | 4 => s.fwCommit v
  | 5 => s.fwSvn v
  | 6 => s.fwPlinth
  | 7 => s.fwExit
  | _ => s.fwDiag v errors

/-- Why a write of FW_CMD is refused whole: GO while a command runs, OP or COMPONENT that names none, an operation that plinth mode does
not offer. -/
def Dev.fwBad (d : Dev) (v : W64) : Option Status :=
  firstOf
    [ refuseIf (d.plinth && !([0, 1, 4, 7, 8].contains (fwOp v))) St.plinthMode,
      refuseIf (bit v 63 && d.fwState != 0) St.badDescriptor,
      refuseIf (decide (9 ≤ fwOp v) || !([0, 1, 2, 18, 19].contains (fwComponent v))) St.badDescriptor ]

/-- A command that is refused whole: CODE takes the status and DONE is set, and a command that runs goes on (R437). -/
def Dev.fwRefused (d : Dev) (c : Status) : Dev := (d.setFld R.fwStatus 63 56 c.toNat).setFlag R.fwStatus 51 true

/-- A write of FW_CMD on an owner session. -/
def State.fwWrite (s : State) (v : W64) (errors : BitVec 32) : SOut :=
  match s.dev.fwBad v with
  | some c => (if bit v 63 then s.onDev (fun d => d.fwRefused c) else s, some c)
  | none =>
    let s := s.onDev (fun d => d.writeReg R.fwCmd v)
    (if bit v 63 then s.fwRun v errors else s, none)

/-- A firmware command of an agent: FW_CMD is written only on owner sessions. -/
def fwCommand (a : Agent) (v : W64) (errors : BitVec 32) (s : State) : Res :=
  onState (fun s => if s.dev.running && decide (a = .owner) then (s.fwWrite v errors).1 else s) s

/-- The word with GO set and OP `op`. -/
def fwWord (op : Nat) (v : W64) : W64 := putBit (putBits v 62 59 op) 63 true

/-- FW_PROGRAM (R432): Erases and programs flash from the staging buffer outside the active bank. -/
def execFwProgram (a : Agent) (v : W64) (s : State) : Res := fwCommand a (fwWord 0 v) 0 s
/-- FW_VERIFY (R432): Checks a bank's directory and images without running them. -/
def execFwVerify (a : Agent) (v : W64) (s : State) : Res := fwCommand a (fwWord 1 v) 0 s
/-- FW_ACTIVATE (R433): Brings a component from a bank into service. -/
def execFwActivate (a : Agent) (v : W64) (s : State) : Res := fwCommand a (fwWord 2 v) 0 s
/-- FW_TABLES (R432): Loads the pending image's built-in special-function tables into partitions. -/
def execFwTables (a : Agent) (v : W64) (s : State) : Res := fwCommand a (fwWord 3 v) 0 s
/-- FW_COMMIT (R432): Writes a verified bank as ACTIVE in the boot record. -/
def execFwCommit (a : Agent) (v : W64) (s : State) : Res := fwCommand a (fwWord 4 v) 0 s
/-- FW_SVN (R432): Raises a fuse SVN counter within the bounds of both banks. -/
def execFwSvn (a : Agent) (v : W64) (s : State) : Res := fwCommand a (fwWord 5 v) 0 s
/-- FW_PLINTH (R432): Records reason 0x11 and resets the module into plinth mode. -/
def execFwPlinth (a : Agent) (v : W64) (s : State) : Res := fwCommand a (fwWord 6 v) 0 s
/-- FW_EXIT (R431): Clears the failed-start count and resets the module out of plinth mode. -/
def execFwExit (a : Agent) (v : W64) (s : State) : Res := fwCommand a (fwWord 7 v) 0 s
/-- FW_DIAG (R432): Runs a plinth-mode diagnostic test. -/
def execFwDiag (a : Agent) (v : W64) (errors : BitVec 32) (s : State) : Res := fwCommand a (fwWord 8 v) errors s

/-! ## The trial (R434) -/

/-- A write of HEALTHY: management firmware's; a trial has passed. -/
def Dev.healthy (d : Dev) : Dev :=
  let d := d.setFlag R.bootStatus 53 true
  if d.fwState = 4 then d.fwDone St.ok else d

/-- HEALTHY_WRITE (R434): The new management firmware reports that it passed its trial. -/
def execHealthyWrite (a : Agent) (s : State) : Res :=
  onDev (fun d => if d.running && decide (a = .mgmtFw) then d.healthy else d) s

/-- The resident old image runs again: ROLLBACK, and slot 1's entry shows it. CODE is not stated. -/
def Dev.rollback (d : Dev) : Dev :=
  if d.fwState = 3 ∨ d.fwState = 4 then
    let r := d.free
    let d := (r.2.fwDone (BitVec.ofNat 8 r.1.toNat)).setFlag R.fwStatus 50 true
    { d with meas := match d.boot.oldMeas with
               | some m => Tab.put d.meas 1 m
               | none => Tab.del d.meas 1 }
  else d

/-- HANDOVER_TRIAL_EXPIRE (R434). -/
def execHandoverTrialExpire (s : State) : Res := onDev Dev.rollback s

/-- MGMT_CORE_WATCHDOG (R400, R434): the other cores restart the core; an incident opens; a trial ends. -/
def execMgmtCoreWatchdog (_ : Fin 4) (s : State) : Res :=
  onDev (fun d => if d.running then (d.incident ⟨16, d.moduleId, 0xFF, 0, St.timeout⟩ 1 d.moduleId 0 0).rollback else d) s

/-! ## Microcode (R433) -/

/-- Whether a partition's four units are idle between instructions. -/
def Dev.unitsIdle (d : Dev) (p : PartId) : Bool := (List.finRange 4).all (fun c => ((d.part p).units.get c).q.isEmpty)

/-- MICROCODE_SWAP (R433). -/
def Dev.microSwap (d : Dev) (p : PartId) : Dev :=
  match (d.part p).microPending with
  | some k => if d.unitsIdle p then (d.modPart p (fun x => { x with microcode := k, microPending := none })).swapDone else d
  | none => d

/-- MICROCODE_SWAP (R433): A partition's update units swap microcode once all are idle. -/
def execMicrocodeSwap (p : PartId) (s : State) : Res := onDev (fun d => d.microSwap p) s

/-- MICROCODE_SWAP_TIMEOUT (R433): the partition keeps the old microcode, its bit is set in DETAIL with CODE TIMEOUT. -/
def Dev.microTimeout (d : Dev) (p : PartId) : Dev :=
  if (d.part p).microPending.isSome then
    (((d.modPart p (fun x => { x with microPending := none })).setFlag R.fwStatus p.val true).setFld R.fwStatus 63 56 St.timeout.toNat).swapDone
  else d

/-- MICROCODE_SWAP_TIMEOUT (R433): A partition not idle within 2^22 memory cycles keeps the old microcode. -/
def execMicrocodeSwapTimeout (p : PartId) (s : State) : Res := onDev (fun d => d.microTimeout p) s

end Sys2Proof.Machine
end

