-- ==== Sys2Proof/Machine/Power.lean ====
section
/-! DEFINITION. Supplies and resets of the module (R460 to R462), the power cap (R463), cooling (R464, R465), the sideband (R459), the
indicators (R466) and their registers (R467 to R470). -/
namespace Sys2Proof.Machine

/-! ## Supplies (R460, R461, R465) -/

def Dev.modBoot (d : Dev) (f : Boot → Boot) : Dev := { d with boot := f d.boot }

/-- The rails turn off: LPDDR5X contents, and everything that is not in the always-on domain, are lost (R461). -/
def Dev.railsOff (d : Dev) : Dev := { d with mem := [], poison := [], boot := { d.boot with ph := .off, pwrGood := false } }

/-- Module reset is asserted, PWR_GOOD falls and the rails turn off; nothing happens where they are off already (R460, R461). -/
def State.powerOff (s : State) : State := if s.dev.boot.pwrGood then (s.moduleReset 0x06).onDev Dev.railsOff else s

/-- STANDBY_ON (R461): the always-on domain leaves reset. -/
def execStandbyOn (s : State) : Res := onDev (fun d => d.modBoot (fun b => { b with standby := true })) s

/-- The always-on domain at its reset values (R424, R435, R467, R469). -/
def Dev.alwaysOnReset (d : Dev) : Dev :=
  let d := ((d.setFld R.bootStatus 63 60 0).setFld R.pwrCap 37 28 600).setFlag R.thermStatus 3 false
  let d := (d.setFlag R.pwrStatus 1 false).setFlag R.pwrStatus 2 false
  d.modBoot (fun b => { b with standby := false, pwrEn := false, thermTrip := false, alertLow := false, latched := false, fruPtr := 0,
                               smbReply := [], smbNack := false, smbPec := 0 })

/-- STANDBY_LOSS (R424, R426, R460): the module is off; a start that it cuts is recorded by the next one. -/
def execStandbyLoss (s : State) : Res := onDev (fun d => d.inReset.railsOff.alwaysOnReset) s

/-- PWR_EN_ASSERT (R461): the rails ramp and PWR_GOOD rises; the module is in reset. -/
def execPwrEnAssert (s : State) : Res :=
  onDev (fun d =>
    if d.boot.standby && !d.boot.pwrEn then
      d.modBoot (fun b => { b with pwrEn := true, pwrGood := true, ph := .inReset })
    else d) s

/-- PWR_EN_DEASSERT (R461, R465): power-down; the latches of an input fault and of a trip are released. -/
def execPwrEnDeassert (s : State) : Res :=
  onState (fun s => s.powerOff.onDev (fun d => d.modBoot (fun b => { b with pwrEn := false, latched := false, thermTrip := false }))) s

/-- VIN_FAULT (R460): UV or OV is held until the next module reset after the power-up (R468). -/
def execVinFault (ovp : Bool) (s : State) : Res :=
  onState (fun s =>
    if s.dev.boot.pwrGood then
      s.powerOff.onDev (fun d => (d.modBoot (fun b => { b with latched := true })).setFlag R.pwrStatus (if ovp then 2 else 1) true)
    else s) s

/-- A thermal trip (R465): THERM_TRIP_N is asserted, the rails are off, TRIP_LAST records it. -/
def State.trip (s : State) : State :=
  if s.dev.boot.pwrGood then
    s.powerOff.onDev (fun d => (d.modBoot (fun b => { b with thermTrip := true, alertLow := true })).setFlag R.thermStatus 3 true)
  else s

/-- THERMAL_TRIP (R465). -/
def execThermalTrip (_ : Sensor) (s : State) : Res := onState State.trip s

/-! ## Thermal events and ALERT_N (R464, R466, R469) -/

/-- Whether an event of THERM_STATUS is set. -/
def Dev.thermEvent (d : Dev) : Bool := d.fld R.thermStatus 3 0 != 0

/-- Sets an event where a condition holds; the thermal-and-power alert asserts ALERT_N while it holds the line. -/
def Dev.thermRaise (d : Dev) (i : Nat) (c : Bool) : Dev :=
  if !c then d
  else
    let d := d.setFlag R.thermStatus i true
    if bit (d.reg R.alertCtrl) 0 then d.modBoot (fun b => { b with alertLow := true }) else d

/-- A write of THERM_STATUS: the host clears events, and ALERT_N is released with the last. -/
def Dev.thermWrite (d : Dev) (v : W64) : Dev :=
  let d := d.writeReg R.thermStatus v
  if bit (d.reg R.alertCtrl) 0 && !d.thermEvent then d.modBoot (fun b => { b with alertLow := false }) else d

/-- THERMAL by inlet temperature in units of 0.01 °C, before die throttling, in whole watts (R464; the fraction is dropped, log entry 94). -/
def thermalTable (t : Nat) : Nat := if t ≤ 4000 then 600 else if t ≤ 5000 then (60000 - 24 * (t - 4000)) / 100 else 250

/-- THERMAL as the table and the die throttling give it. -/
def Dev.setThermal (d : Dev) : Dev := d.setFld R.pwrCap 47 38 (thermalTable d.boot.inlet - d.boot.dieCut)

/-- INLET_UPDATE (R464, R465): the average in units of 0.01 °C; at 55 °C the module trips. -/
def execInletUpdate (inlet : BitVec 16) (s : State) : Res :=
  onState (fun s =>
    if !s.dev.running then s
    else if 5500 ≤ inlet.toNat then s.trip
    else s.onDev (fun d =>
      let t := inlet.toNat
      ((((d.setFld R.thermStatus 63 56 (t / 100)).modBoot (fun b => { b with inlet := t })).thermRaise 0 (decide (4000 < t))).thermRaise 1
        (decide (5000 < t))).setThermal)) s

/-! ## The control period (R463, R464) -/

/-- Die throttling: from 95 °C THERMAL falls by 10 W per period until the sensor is below 93 °C, then it rises by 1 W per period to the value in the
table and DIE_HOT is set. What is cut never exceeds that value. -/
def Dev.dieStep (d : Dev) (t : Nat) : Dev :=
  let hot := decide (95 ≤ t) || (d.boot.hot && decide (93 ≤ t))
  let top := thermalTable d.boot.inlet
  let was := Nat.min top d.boot.dieCut
  let cut := if hot then Nat.min top (was + 10) else was - 1
  (d.thermRaise 2 (d.boot.hot && !hot)).modBoot (fun b => { b with hot := hot, dieCut := cut })

/-- The least of the three caps (R463). -/
def Dev.effectiveCap (d : Dev) : Nat := Nat.min (Nat.min (d.fld R.pwrCap 9 0) (d.fld R.pwrCap 37 28)) (d.fld R.pwrCap 47 38)

/-- DUTY is set from 1 to 64; which value meets the cap is not stated. -/
def Dev.setDuty (d : Dev) : Dev :=
  let r := d.free
  let duty := 1 + r.1.toNat % 64
  let d := r.2.setFld R.pwrStatus 31 25 duty
  if duty < 64 then d.setFlag R.pwrStatus 0 true else d

/-- One control period: power, caps, CAP_UNMET where DUTY 1 did not meet the cap, DUTY. -/
def Dev.powerPeriod (d : Dev) (pin vin : BitVec 16) (dieMax dramMax : BitVec 8) : Dev :=
  let d := (d.setFld R.pwrStatus 63 48 pin.toNat).setFld R.pwrStatus 47 32 vin.toNat
  let d := (d.setFld R.thermStatus 55 48 dieMax.toNat).setFld R.thermStatus 47 40 dramMax.toNat
  let d := (d.dieStep dieMax.toNat).setThermal
  let cap := d.effectiveCap
  let d := d.setFld R.pwrCap 57 48 cap
  let d := if d.fld R.pwrStatus 31 25 = 1 ∧ 10 * cap < pin.toNat then d.setFlag R.pwrStatus 3 true else d
  d.setDuty

/-- POWER_CONTROL_PERIOD (R463 to R465): a die or LPDDR5X sensor at 105 °C trips the module. -/
def execPowerControlPeriod (pin vin : BitVec 16) (dieMax dramMax : BitVec 8) (s : State) : Res :=
  onState (fun s =>
    if !s.dev.running then s
    else if 105 ≤ dieMax.toNat ∨ 105 ≤ dramMax.toNat then s.trip
    else s.onDev (fun d => d.powerPeriod pin vin dieMax dramMax)) s

/-! ## SMBus (R459) -/

/-- The packet error code of a transaction's bytes: the CRC-8 of SMBus, x^8 + x^2 + x + 1 (PRESUMED: the standard's, log entry 136). -/
def smbCrc (l : List Byte) : Byte :=
  l.foldl (fun c b => (List.range 8).foldl (fun (c : Byte) _ => if c.msb then (c <<< 1) ^^^ 0x07 else c <<< 1) (c ^^^ b)) 0

/-- The module's address byte: bit 0 for a read. -/
def smbAddr (read : Bool) : Byte := BitVec.ofNat 8 (2 * (0x58 + Config.smbStrap.toNat) + b2n read)

/-- The module answers a transaction while standby is present: data, and the PEC it sends when it is asked for one; a NACK carries nothing. `head`
holds the bytes of the transaction before the data. -/
def Dev.smbAnswer (d : Dev) (head : List Byte) (l : Option (List Byte)) : Dev :=
  if d.boot.standby then d.modBoot (fun b => { b with smbReply := l.getD [], smbNack := l.isNone, smbPec := (l.map (fun l => smbCrc (head ++ l))).getD 0 })
  else d

/-- A read of a command code. -/
def Dev.smbRead (d : Dev) (code : Byte) (l : List Byte) : Dev := d.smbAnswer [smbAddr false, code, smbAddr true] (some l)

/-- Whether a word write's PEC is right, where it carries one. -/
def smbPecOk (code : Byte) (v : SmbWord) : Bool :=
  match v.pec with
  | some c => c == smbCrc ([smbAddr false, code] ++ leBytes 2 v.word.toNat)
  | none => true

/-- A word write: refused with its PEC wrong, else what it does. -/
def Dev.smbWrite (d : Dev) (code : Byte) (v : SmbWord) (ok : Bool) (f : Dev → Dev) : Dev :=
  if !d.boot.standby then d
  else if smbPecOk code v && ok then (f d).smbAnswer [] (some []) else d.smbAnswer [] none

/-- A telemetry value. While the rails are off nothing says whether VIN is on, with which it would be 0, or what is measured: it is free (log entry
136). -/
def Dev.smbTelemetry (d : Dev) (code : Byte) (n v : Nat) : Dev :=
  if !d.boot.standby ∨ d.boot.pwrGood then d.smbRead code (leBytes n v)
  else
    let r := d.free
    r.2.smbRead code (leBytes n r.1.toNat)

/-- STATUS. -/
def Dev.smbStatusByte (d : Dev) : Nat :=
  b2n d.boot.pwrGood + 2 * b2n (bit (d.reg R.bootStatus) 54) + 4 * b2n d.plinth + 8 * b2n d.thermEvent + 16 * b2n (bit (d.reg R.pwrStatus) 3)

/-- SMB_STATUS (R459): SMBus read of the status byte. -/
def execSmbStatus (s : State) : Res := onDev (fun d => d.smbRead 0x00 (leBytes 1 d.smbStatusByte)) s
/-- SMB_READ_VIN (R459): SMBus read of the input voltage. -/
def execSmbReadVin (s : State) : Res := onDev (fun d => d.smbTelemetry 0x01 2 (d.fld R.pwrStatus 47 32)) s
/-- SMB_READ_PIN (R459): SMBus read of the input power. -/
def execSmbReadPin (s : State) : Res := onDev (fun d => d.smbTelemetry 0x02 2 (d.fld R.pwrStatus 63 48)) s
/-- SMB_READ_INLET (R459): SMBus read of the inlet temperature. -/
def execSmbReadInlet (s : State) : Res := onDev (fun d => d.smbTelemetry 0x03 1 (d.fld R.thermStatus 63 56)) s
/-- SMB_READ_DIE (R459): SMBus read of the hottest die temperature. -/
def execSmbReadDie (s : State) : Res := onDev (fun d => d.smbTelemetry 0x04 1 (d.fld R.thermStatus 55 48)) s

/-- A cap that the module takes (R459, R467). -/
def capOk (v : Nat) : Bool := decide (250 ≤ v) && decide (v ≤ 600)

/-- SMB_CAP: the carrier cap is read or written; a value outside 250 to 600 is NACKed and changes nothing, and so is one with a wrong PEC. -/
def execSmbCap (write : Option SmbWord) (s : State) : Res :=
  onDev (fun d =>
    match write with
    | none => d.smbRead 0x05 (leBytes 2 (d.fld R.pwrCap 37 28))
    | some v => d.smbWrite 0x05 v (capOk v.word.toNat) (fun d => d.setFld R.pwrCap 37 28 v.word.toNat)) s

/-- SMB_FRU_PTR: the offset into the 2 KiB FRU area. -/
def execSmbFruPtr (ptr : SmbWord) (s : State) : Res :=
  onDev (fun d => d.smbWrite 0x10 ptr true (fun d => d.modBoot (fun b => { b with fruPtr := ptr.word.toNat % 2048 }))) s

/-- Bytes of the FRU area from an offset. -/
def fruBytes (fru : List Byte) (o : Nat) : List Byte := (List.range 32).map (fun i => fru.getD ((o + i) % 2048) 0)

/-- SMB_FRU_READ: 32 bytes from the pointer, which advances by 32. -/
def execSmbFruRead (s : State) : Res :=
  onDev (fun d =>
    if d.boot.standby then
      (d.smbAnswer [smbAddr false, 0x11, smbAddr true, 32] (some (fruBytes s.fru d.boot.fruPtr))).modBoot (fun b => { b with fruPtr := (b.fruPtr + 32) % 2048 })
    else d) s

/-- SMB_ALERT_RESPONSE: the module answers with its address while ALERT_N is asserted under R464. -/
def execSmbAlertResponse (s : State) : Res :=
  onDev (fun d => if d.boot.alertLow && bit (d.reg R.alertCtrl) 0 then d.smbAnswer [0x19] (some (leBytes 1 (2 * (0x58 + Config.smbStrap.toNat)))) else d) s

/-! ## Registers (R466, R467, R470) -/

/-- A write of PWR_CAP: OWNER. -/
def Dev.pwrCapWrite (d : Dev) (v : W64) : WOut :=
  .when d (refuseIf (!capOk (bits v 9 0)) St.boundExceeded) (fun d => d.writeReg R.pwrCap v)

/-- A write of IND_CTRL: each LED has one holder. -/
def Dev.indWrite (d : Dev) (v : W64) : WOut :=
  .when d (refuseIf ((bit v 0 && bit v 1) || (bit v 2 && bit v 3)) St.resourceHeld) (fun d => d.writeReg R.indCtrl v)

/-- A write of ALERT_CTRL: ALERT_N has one holder; a new holder signals what it finds. -/
def Dev.alertWrite (d : Dev) (v : W64) : WOut :=
  .when d (refuseIf (bit v 0 && bit v 1) St.resourceHeld) (fun d =>
    let kept := d.fld R.alertCtrl 1 0 == bits v 1 0
    let d := d.writeReg R.alertCtrl v
    if kept then d else d.modBoot (fun b => { b with alertLow := bit v 0 && d.thermEvent }))

/-- PWR_CAP_WRITE (R467): Sets the owner power cap within 250 to 600 W. -/
def execPwrCapWrite (a : Agent) (v : W64) (s : State) : Res := onAgent a R.pwrCap (fun d => d.pwrCapWrite v) s
/-- IND_CTRL_WRITE (R466): Assigns LED features under the single-holder rule. -/
def execIndCtrlWrite (a : Agent) (v : W64) (s : State) : Res := onAgent a R.indCtrl (fun d => d.indWrite v) s
/-- ALERT_CTRL_WRITE (R466): Assigns ALERT_N features under the single-holder rule. -/
def execAlertCtrlWrite (a : Agent) (v : W64) (s : State) : Res := onAgent a R.alertCtrl (fun d => d.alertWrite v) s

/-! ## Indicators (R466) -/

/-- What an LED shows: off, on, a 1 Hz blink, a 4 Hz blink, on with a blink off per 1,000 frames. -/
inductive Led where
  | off | on | blink1 | blink4 | activity
deriving DecidableEq, Repr

def Dev.led0 (d : Dev) : Led := if d.plinth then .blink1 else if d.boot.pwrGood then .on else .off

def Dev.led1 (d : Dev) : Led :=
  match ledHolder (d.reg R.indCtrl) 0 with
  | 1 => if d.inc.any (fun e => e.2.isOpen) || allParts.any d.fenced then .on else .off
  | 2 => .blink4
  | _ => .off

def Dev.led2 (d : Dev) : Led :=
  if d.plinth || ledHolder (d.reg R.indCtrl) 2 == 2 then (if d.fwState ≠ 0 then .blink1 else .off)
  else if ledHolder (d.reg R.indCtrl) 2 == 1 && (List.finRange 8).any (fun m => bit (d.reg (R.ethMacStatus m)) 63) then .activity else .off

end Sys2Proof.Machine
end

