-- ==== Sys2Proof/Machine/Ether.lean ====
section
/-! DEFINITION. The Ethernet port: links (R296, R299), flow control (R305, R306), low-power idle (R307), the answers of the management
cores (R304), transmit scheduling (R308), MACsec (R310, R311), fault injection (R312, R313) and the port's registers (R315 to R319,
R438, R448). Reception is Machine/Receive.lean. -/
namespace Sys2Proof.Machine

/-! ## Links (R296, R299) -/

def Dev.macEn (d : Dev) (m : Fin 8) : Bool := bit (d.reg (R.ethMacCfg m)) 63
def Dev.linkIsUp (d : Dev) (m : Fin 8) : Bool := d.macExists m && bit (d.reg (R.ethMacStatus m)) 63
def Dev.linkTest (d : Dev) (m : Fin 8) : Nat := d.fld (R.ethMacCfg m) 59 58
def Dev.fcMode (d : Dev) (m : Fin 8) : Nat := d.fld (R.ethMacCfg m) 61 60

/-- Whether a MAC returns its own frames to itself (R312, action 4). -/
def Dev.loops (d : Dev) (m : Fin 8) : Bool := d.fld (R.ethInj m) 63 62 != 0 && d.fld (R.ethInj m) 61 59 == 4

/-- Whether frames of the link partner are received: the MAC is up and does not loop (R302, R312). -/
def Dev.hears (d : Dev) (m : Fin 8) : Bool := d.linkIsUp m && !d.loops m

/-- Bits per Ethernet cycle (R297). -/
def Dev.macBits (d : Dev) : Nat := 1280 / d.macCount

/-- The logical MAC that holds a lane (R296). -/
def Dev.laneMac (d : Dev) (l : Fin 8) : Fin 8 := Fin.ofNat 8 (l.val / (8 / d.macCount))

/-- Whether a lane of a MAC re-adapts, or did not adapt when it last did (R438; log entry 102). -/
def Dev.laneDown (d : Dev) (m : Fin 8) : Bool :=
  (List.finRange 8).any (fun l => d.laneMac l == m && (d.boot.serdesQ.contains l || d.boot.laneBad.contains l))

/-- A MAC may be up: it exists, is enabled, is on the wire and its lanes are adapted. -/
def Dev.mayLink (d : Dev) (m : Fin 8) : Bool := d.running && d.macExists m && d.macEn m && d.linkTest m == 0 && !d.laneDown m

/-- Frames presented to a MAC that is down are discarded and counted, one that fault injection delays or holds among them (R299). -/
def Dev.txDiscard (d : Dev) (m : Fin 8) : Dev :=
  let x := d.mac m
  let slot := match x.side with
    | some (_, _, rx) => !rx
    | none => false
  let n := d.txq.countP (fun t => t.frame.mac == m) + x.delayed.length + b2n slot
  if n = 0 then d
  else (({ d with txq := d.txq.filter (fun t => t.frame.mac != m) }).modMac m (fun x =>
    { x with delayed := [], side := if slot then none else x.side })).ethCount m 26 n

/-- The link goes down: LINK_UP is cleared, LINK_CHG set, what waits discarded (R299). -/
def Dev.goDown (d : Dev) (m : Fin 8) : Dev :=
  if bit (d.reg (R.ethMacStatus m)) 63 then
    let o := R.ethMacStatus m
    ((((d.setFlag o 63 false).setFlag o 7 true).setFlag o 62 false).modMac m (fun x => { x with onWire := none })).txDiscard m
  else d

/-- The flows of a MAC have seen it up (R329). -/
def Dev.flowsSeeLink (d : Dev) (m : Fin 8) : Dev :=
  { d with flows := d.flows.map (fun e => if d.lifMacN e.2.lif = m then (e.1, { e.2 with linkSeen := true }) else e) }

/-- LINK_UP (R299): frames presented before it are discarded. -/
def execLinkUp (m : Fin 8) (s : State) : Res :=
  onDev (fun d =>
    if d.mayLink m && !d.linkIsUp m then
      (((d.txDiscard m).setFlag (R.ethMacStatus m) 63 true).setFlag (R.ethMacStatus m) 7 true).flowsSeeLink m
    else d) s

/-- LINK_DOWN (R299). -/
def execLinkDown (m : Fin 8) (s : State) : Res := onDev (fun d => d.goDown m) s

/-- PRBS_ERROR (R317). -/
def execPrbsError (m : Fin 8) (_ : Fin 8) (s : State) : Res :=
  onDev (fun d => if d.linkTest m = 1 ∨ d.linkTest m = 2 then d.setFlag (R.ethMacStatus m) 0 true else d) s

/-! ## PAUSE and PFC (R305, R306) -/

/-- Cycles of `q` quanta. -/
def Dev.quanta (d : Dev) (q : Nat) : Nat := ceilDiv (q * 512) d.macBits

/-- A PAUSE frame: counted, and obeyed in FC_MODE 1. -/
def Dev.pauseTake (d : Dev) (m : Fin 8) (q : Nat) : Dev :=
  let d := d.ethCount m 10 1
  if d.fcMode m = 1 then d.modMac m (fun x => { x with hold := d.quanta q, paused := true }) else d

/-- A PFC frame: counted, and obeyed in FC_MODE 2 for the classes of PFC_MASK that it enables. -/
def Dev.pfcTake (d : Dev) (m : Fin 8) (enable : BitVec 8) (qs : List (BitVec 16)) : Dev :=
  let d := d.ethCount m 11 1
  if d.fcMode m = 2 then
    d.each (List.range 8) (fun d c =>
      if bit (d.reg (R.ethMacCfg m)) (41 + c) && bit enable c then
        d.modMac m (fun x => { x with pfcHold := Tab.set (fun _ => 0) x.pfcHold c (d.quanta (qs.getD c 0).toNat) })
      else d)
  else d

/-- PAUSE_RECEIVE (R305): A PAUSE frame loads or clears the MAC transmit hold timer. -/
def execPauseReceive (m : Fin 8) (quanta : BitVec 16) (s : State) : Res :=
  onDev (fun d => if d.hears m then d.pauseTake m quanta.toNat else d) s

/-- PFC_RECEIVE (R306): A PFC frame loads the hold timers of its classes. -/
def execPfcReceive (m : Fin 8) (enable : BitVec 8) (quanta : List (BitVec 16)) (s : State) : Res :=
  onDev (fun d => if d.hears m then d.pfcTake m enable quanta else d) s

/-- PAUSE_TIMER_EXPIRE (R305): the rest of the hold passes. -/
def execPauseTimerExpire (m : Fin 8) (s : State) : Res := onDev (fun d => d.holdPass m (d.mac m).hold) s

/-- PFC_TIMER_EXPIRE (R306). -/
def execPfcTimerExpire (m : Fin 8) (cls : Fin 8) (s : State) : Res :=
  onDev (fun d => d.modMac m (fun x => { x with pfcHold := Tab.del x.pfcHold cls.val })) s

/-- A frame of the module's own MAC control or management traffic. -/
def Dev.mgmtFrame (m : Fin 8) (dst src : Mac) (tag : Option (BitVec 12 × BitVec 3)) (et mc : BitVec 16) (ip : Option IpHdr) (len : Nat) (l : List Byte) :
    Frame :=
  { mac := m, fecBad := false, fecCorr := 0, fecUncorr := 0, buffered := 0, length := Nat.max 64 len,
    fcsOk := true, dst := dst, src := src, tag := tag, sec := none, etherType := et,
    macCtl := mc, pauseTimes := [], ip := ip, udp := none, payload := l }

def pfcMac : Mac := 0x0180C2000001
def lldpMac : Mac := 0x0180C200000E

/-- Address that MAC control and LLDP frames of a logical MAC carry as source: its first enabled interface's. -/
def Dev.macSource (d : Dev) (m : Fin 8) : Mac :=
  match (List.range 128).find? (fun k => d.lifOn k && d.lifMacN k == m) with
  | some k => d.lifAddr k
  | none => 0

/-- Sends a PFC frame for a class. -/
def Dev.pfcOut (d : Dev) (m : Fin 8) (c q : Nat) : Dev :=
  let l := beBytes 2 (2 ^ c) ++ (List.range 8).flatMap (fun k => beBytes 2 (if k = c then q else 0))
  let f := Dev.mgmtFrame m pfcMac (d.macSource m) none 0x8808 0x0101 none 64 l
  { d with txq := d.txq ++ [⟨0, 0, true, none, { f with pauseTimes := (List.range 8).map (fun k => BitVec.ofNat 16 (if k = c then q else 0)) }⟩] }

/-- Bytes of a MAC's receive buffer: 4 MiB over the logical MACs (R306). -/
def Dev.rxBuffer (d : Dev) : Nat := 2 ^ 22 / d.macCount

/-- The share of a MAC's receive buffer that frames of a class have (R306): 128 KiB are reserved for each class in LAT_MASK and for management
frames, and the other classes share the rest. -/
def Dev.rxShare (d : Dev) (m : Fin 8) (mgmt : Bool) (c : Nat) : Nat :=
  let lat := fun c => bit (d.reg (R.ethMacCfg m)) (49 + c % 8)
  if mgmt || lat c then 2 ^ 17 else d.rxBuffer - 2 ^ 17 * (1 + (List.range 8).countP lat)

/-- Whether PFC of a class is sent at all. -/
def Dev.pfcOn (d : Dev) (m : Fin 8) (c : Nat) : Bool := d.linkIsUp m && d.fcMode m == 2 && bit (d.reg (R.ethMacCfg m)) (41 + c)

/-- PFC_SEND (R306): the class's share of the receive buffer passes 75 %, or, once that has been signalled, falls below 50 %. -/
def execPfcSend (m : Fin 8) (cls : Fin 8) (s : State) : Res :=
  onDev (fun d =>
    if !d.pfcOn m cls.val then d
    else if (d.mac m).pfcSent.contains cls.val then (d.modMac m (fun x => { x with pfcSent := x.pfcSent.erase cls.val })).pfcOut m cls.val 0
    else (d.modMac m (fun x => { x with pfcSent := x.pfcSent ++ [cls.val] })).pfcOut m cls.val 0xFFFF) s

/-- PFC_REPEAT (R306). -/
def execPfcRepeat (m : Fin 8) (cls : Fin 8) (s : State) : Res :=
  onDev (fun d => if d.pfcOn m cls.val && (d.mac m).pfcSent.contains cls.val then d.pfcOut m cls.val 0xFFFF else d) s

/-! ## Low-power idle and LLDP (R307) -/

/-- TW_RESOLVED, in units of 0.1 µs; 0 until the partner has advertised. -/
def Dev.twResolve (d : Dev) (m : Fin 8) : Dev :=
  d.setFld (R.ethMacStatus m) 51 36 (match (d.mac m).partnerTw with
    | some t => 10 * Nat.max (d.fld (R.ethMacCfg m) 15 8) t
    | none => 0)

/-- Whether a MAC has a frame ready: one that waits for its pick, that an injected delay held, or that reordering lets go (R307, R312). -/
def Dev.txReady (d : Dev) (m : Fin 8) : Bool :=
  d.txq.any (fun t => t.frame.mac == m) || !(d.mac m).delayed.isEmpty || (match (d.mac m).side with
    | some (_, 0, false) => true
    | _ => false)

/-- LPI_ENTER (R307). -/
def execLpiEnter (m : Fin 8) (s : State) : Res :=
  onDev (fun d =>
    if d.linkIsUp m && bit (d.reg (R.ethMacCfg m)) 57 && !d.txReady m && (d.mac m).partnerTw.isSome && !bit (d.reg (R.ethMacStatus m)) 62 then
      (d.setFlag (R.ethMacStatus m) 62 true).ethCount m 33 1
    else d) s

/-- LPI_WAKE (R307): the wake time has passed for a frame that is ready. -/
def execLpiWake (m : Fin 8) (s : State) : Res :=
  onDev (fun d => if d.txReady m || !bit (d.reg (R.ethMacCfg m)) 57 then d.setFlag (R.ethMacStatus m) 62 false else d) s

/-- PARTNER_LOW_POWER_IDLE (R307). -/
def execPartnerLowPowerIdle (m : Fin 8) (enter : Bool) (s : State) : Res :=
  onDev (fun d => if d.linkIsUp m then d.setFlag (R.ethMacStatus m) 61 enter else d) s

/-- An LLDP TLV. -/
def tlv (t : Nat) (l : List Byte) : List Byte := beBytes 2 (t * 512 + l.length) ++ l

/-- The LLDPDU of a logical MAC. -/
def Dev.lldpdu (d : Dev) (m : Fin 8) : List Byte :=
  let tw := d.fld (R.ethMacCfg m) 15 8
  let p := match (d.mac m).partnerTw with
    | some t => t
    | none => 0
  tlv 1 (7 :: beBytes 4 d.moduleId) ++ tlv 2 (7 :: beBytes 1 m.val) ++ tlv 3 (beBytes 2 120)
    ++ (if bit (d.reg (R.ethMacCfg m)) 57 then
        tlv 127 (beBytes 3 0x00120F ++ [5] ++ beBytes 2 tw ++ beBytes 2 tw ++ beBytes 2 tw ++ beBytes 2 0 ++ beBytes 2 p) else [])
    ++ beBytes 2 0

/-- LLDP_SEND (R307). -/
def execLldpSend (m : Fin 8) (s : State) : Res :=
  onDev (fun d =>
    if d.running && d.macExists m && d.macEn m then
      let l := d.lldpdu m
      { d with txq := d.txq ++ [⟨0, 0, true, none, Dev.mgmtFrame m lldpMac (d.macSource m) none 0x88CC 0 none (18 + l.length) l⟩] }
    else d) s

/-! ## The management cores (R304) -/

/-- Takes a frame for the management cores: at most 1,000 in a second of a logical MAC. -/
def Dev.mgmtTake (d : Dev) (m : Fin 8) (f : Dev → Dev) : Dev :=
  let now := d.localCount.toNat / 1000000000
  let n := if (d.mac m).mgmtSecond = now then (d.mac m).mgmtCount else 0
  if 1000 ≤ n then d.ethCount m 34 1
  else f ((d.modMac m (fun x => { x with mgmtSecond := now, mgmtCount := n + 1 })).ethCount m 24 1)

/-- Octets before the payload of a frame of interface `k`, with the FCS. -/
def Dev.lifHead (d : Dev) (k : Nat) : Nat := 18 + (if d.lifVid k = 0xFFF then 0 else 4) + (if d.lifMsec k then 32 else 0)

/-- The tag of a management frame. -/
def Dev.mgmtTag (d : Dev) (k : Nat) : Option (BitVec 12 × BitVec 3) := if d.lifVid k = 0xFFF then none else some (BitVec.ofNat 12 (d.lifVid k), 0)

/-- A management frame of an interface becomes ready. -/
def Dev.mgmtOut (d : Dev) (k : Nat) (dst : Mac) (et : BitVec 16) (ip : Option IpHdr) (iphl : Nat) (l : List Byte) : Dev :=
  let f := Dev.mgmtFrame (d.lifMacN k) dst (d.lifAddr k) (d.mgmtTag k) et 0 ip (d.lifHead k + iphl + l.length) l
  { d with txq := d.txq ++ [⟨k, 0, true, none, f⟩] }

/-- The Internet checksum over bytes. -/
def inetSum : List Byte → Nat
  | a :: b :: t => a.toNat * 256 + b.toNat + inetSum t
  | [a] => a.toNat * 256
  | [] => 0

def inetCheck (l : List Byte) : Nat :=
  let n := inetSum l
  0xFFFF - (if n = 0 then 0 else (n - 1) % 0xFFFF + 1)

/-- The IPv4 address of an interface's IPv4-mapped address. -/
def v4 (a : Ip) : Nat := a.toNat % 2 ^ 32

/-- A header's bits that no rule states: type of service, identification and don't-fragment bit of IPv4 (`[7:0]`, `[23:8]`, `[24]`), traffic class
and flow label of IPv6 (`[27:0]`). -/
def IpHdr.bitsOf (i : IpHdr) (lo n : Nat) : Nat := (i.rest.getD 0).toNat / 2 ^ lo % 2 ^ n

/-- The bytes of an IP header before `n` bytes, with a checksum field (R302, R303). -/
def IpHdr.bytes (i : IpHdr) (n sum : Nat) : List Byte :=
  if i.v6 then beBytes 4 (6 * 2 ^ 28 + IpHdr.bitsOf i 0 28) ++ beBytes 2 n ++ [i.proto] ++ beBytes 1 i.ttl ++ beBytes 16 i.src.toNat ++ beBytes 16 i.dst.toNat
  else [0x45] ++ beBytes 1 (IpHdr.bitsOf i 0 8) ++ beBytes 2 (20 + n) ++ beBytes 2 (IpHdr.bitsOf i 8 16) ++ beBytes 2 (IpHdr.bitsOf i 24 1 * 2 ^ 14)
    ++ beBytes 1 i.ttl ++ [i.proto] ++ beBytes 2 sum ++ beBytes 4 (v4 i.src) ++ beBytes 4 (v4 i.dst)

/-- The IPv4 header checksum (R303). -/
def IpHdr.check (i : IpHdr) (n : Nat) : Nat := if i.v6 then 0 else inetCheck (IpHdr.bytes i n 0)

/-- The bytes of a UDP header before a payload, with a checksum field. -/
def UdpHdr.bytes (u : UdpHdr) (n sum : Nat) : List Byte :=
  beBytes 2 u.sport.toNat ++ beBytes 2 u.dport.toNat ++ beBytes 2 (8 + n) ++ beBytes 2 sum

/-- The UDP checksum over the pseudo-header, header and payload: a computed 0 is sent as 0xFFFF (R303). -/
def udpCheck (i : IpHdr) (u : UdpHdr) (l : List Byte) : Nat :=
  let n := 8 + l.length
  let pseudo := if i.v6 then beBytes 16 i.src.toNat ++ beBytes 16 i.dst.toNat ++ beBytes 4 n ++ beBytes 4 17
    else beBytes 4 (v4 i.src) ++ beBytes 4 (v4 i.dst) ++ beBytes 2 17 ++ beBytes 2 n
  let c := inetCheck (pseudo ++ UdpHdr.bytes u l.length 0 ++ l)
  if c = 0 then 0xFFFF else c

/-- Bytes of a frame behind its IP header. -/
def Frame.ipLen (f : Frame) : Nat := (if f.udp.isSome then 8 else 0) + f.payload.length

/-- A frame with its checksums inserted (R303); `rest` is what its IP header holds where no rule states it. A relayed frame keeps what lies behind
its IP header (R337). -/
def Frame.summed (f : Frame) (rest : BitVec 32) : Frame :=
  match f.ip with
  | none => f
  | some i =>
    let own := i.rest.isNone
    let i := { i with rest := some (i.rest.getD rest) }
    { f with
      ip := some { i with sum := BitVec.ofNat 16 (IpHdr.check i (Frame.ipLen f)) },
      udp := if own then f.udp.map (fun u => { u with sum := BitVec.ofNat 16 (udpCheck i u f.payload) }) else f.udp }

/-- The answer to an ARP request for interface `k`'s address. -/
def Dev.arpAnswer (d : Dev) (k : Nat) (mac : Mac) (ip : Ip) : Dev :=
  if isV4 (d.lifIp k) then
    d.mgmtOut k mac 0x0806 none 0 (beBytes 2 1 ++ beBytes 2 0x0800 ++ [6, 4] ++ beBytes 2 2 ++ beBytes 6 (d.lifAddr k).toNat ++ beBytes 4 (v4 (d.lifIp k))
      ++ beBytes 6 mac.toNat ++ beBytes 4 (v4 ip))
  else d

/-- An ICMPv6 message with its checksum. -/
def icmp6 (src dst : Ip) (head body : List Byte) : List Byte :=
  let pseudo := beBytes 16 src.toNat ++ beBytes 16 dst.toNat ++ beBytes 4 (head.length + 2 + body.length) ++ beBytes 4 58
  head ++ beBytes 2 (inetCheck (pseudo ++ head ++ body)) ++ body

/-- The answer to a Neighbor Solicitation for interface `k`'s address. -/
def Dev.nsAnswer (d : Dev) (k : Nat) (mac : Mac) (ip : Ip) : Dev :=
  if isV4 (d.lifIp k) then d
  else d.mgmtOut k mac 0x86DD (some ⟨true, true, d.lifIp k, ip, 255, 58, none, 0⟩) 40
    (icmp6 (d.lifIp k) ip [136, 0] (beBytes 4 0x60000000 ++ beBytes 16 (d.lifIp k).toNat ++ [2, 1] ++ beBytes 6 (d.lifAddr k).toNat))

/-- The answer to an ICMP or ICMPv6 echo request; `data` is what follows the checksum. -/
def Dev.echoAnswer (d : Dev) (k : Nat) (mac : Mac) (ip : Ip) (data : List Byte) : Dev :=
  let ttl := d.fld R.tpCfg 23 16
  if isV4 (d.lifIp k) then
    d.mgmtOut k mac 0x0800 (some ⟨false, true, d.lifIp k, ip, ttl, 1, none, 0⟩) 20 ([0, 0] ++ beBytes 2 (inetCheck ([0, 0] ++ data)) ++ data)
  else d.mgmtOut k mac 0x86DD (some ⟨true, true, d.lifIp k, ip, ttl, 58, none, 0⟩) 40 (icmp6 (d.lifIp k) ip [129, 0] data)

/-- A frame of the management cores that reaches interface `k`. -/
def Dev.lifMgmt (d : Dev) (k : Nat) (f : Dev → Dev) : Dev := if d.lifOn k && d.hears (d.lifMacN k) then d.mgmtTake (d.lifMacN k) f else d

/-- ARP_REQUEST (R304): Management cores answer an ARP request for an interface address. -/
def execArpRequest (k : Fin 128) (senderMac : Mac) (senderIp : Ip) (s : State) : Res :=
  onDev (fun d => d.lifMgmt k.val (fun d => d.arpAnswer k.val senderMac senderIp)) s

/-- NEIGHBOR_SOLICITATION (R304): Management cores answer an IPv6 Neighbor Solicitation. -/
def execNeighborSolicitation (k : Fin 128) (senderMac : Mac) (senderIp : Ip) (s : State) : Res :=
  onDev (fun d => d.lifMgmt k.val (fun d => d.nsAnswer k.val senderMac senderIp)) s

/-- ECHO_REQUEST (R304): Management cores answer an ICMP or ICMPv6 echo request. -/
def execEchoRequest (k : Fin 128) (senderMac : Mac) (senderIp : Ip) (data : List Byte) (s : State) : Res :=
  onDev (fun d => d.lifMgmt k.val (fun d => d.echoAnswer k.val senderMac senderIp data)) s

/-- The partner's last advertised receive wake time, in µs. -/
def Dev.lldpTake (d : Dev) (m : Fin 8) (tw : Nat) : Dev := (d.modMac m (fun x => { x with partnerTw := some tw })).twResolve m

/-- LLDP_RECEIVE (R307). -/
def execLldpReceive (m : Fin 8) (partnerRxTw : Nat) (s : State) : Res :=
  onDev (fun d => if d.hears m then d.mgmtTake m (fun d => d.lldpTake m partnerRxTw) else d) s

/-! ## MACsec (R310, R311, R448) -/

/-- Key of an association slot: interface, direction (1 receive), channel, AN. -/
def assocKey (k rx sc an : Nat) : Nat := ((k * 2 + rx) * 4 + sc) * 4 + an

/-- The bytes of MSEC_SA0 to MSEC_SA15. -/
def Dev.msecRecord (d : Dev) : List Byte := (List.range 16).flatMap (fun j => leBytes 8 (d.reg (R.msecSa j)).toNat)

/-- Whether a record is refused: a reserved field, its interface or its channel. -/
def msecBad (l : List Byte) : Bool :=
  let b := leAt l 1 1
  decide (127 < leAt l 0 1) || decide (16 ≤ b) || !zeros l 3 5 || !zeros l 0x4C 52 || decide ((if b % 2 = 1 then 3 else 0) < leAt l 2 1)

/-- Installs a record (R310): a transmit record with ACTIVE makes the channel's other associations inactive. -/
def Dev.msecInstall (d : Dev) (l : List Byte) : Dev :=
  let k := leAt l 0 1
  let b := leAt l 1 1
  let active := b / 8 % 2 == 1
  let a : Assoc :=
    { active := active, sci := BitVec.ofNat 64 (leAt l 8 8), pn := leAt l 0x10 8, window := leAt l 0x18 4, ssci := BitVec.ofNat 32 (leAt l 0x1C 4),
      key := sliceB l 0x20 32, salt := sliceB l 0x40 12, seen := [], low := false }
  let t := if b % 2 = 0 ∧ active then d.assoc.map (fun e => if e.1 / 4 = assocKey k 0 0 0 / 4 then (e.1, { e.2 with active := false }) else e) else d.assoc
  { d with assoc := Tab.put t (assocKey k (b % 2) (leAt l 2 1) (b / 2 % 4)) a }

/-- A write of MSEC_COMMIT (R448). -/
def Dev.msecWrite (d : Dev) (v : W64) : WOut :=
  if !bit v 0 then .ok d
  else
    let l := d.msecRecord
    .when d (refuseIf (msecBad l) St.badDescriptor) (fun d => (d.msecInstall l).each (List.range 16) (fun d j => d.setReg (R.msecSa j) 0))

/-- MSEC_COMMIT (R310, R448). -/
def execMsecCommit (a : Agent) (s : State) : Res := onAgent a R.msecCommit (fun d => d.msecWrite 1) s

/-- The interface that a frame leaves: the MAC, address and VID name one. MAC control and LLDP frames are the MAC's own (R306, R307). -/
def Dev.lifOf (d : Dev) (f : Frame) : Option Nat :=
  if f.etherType = 0x8808 ∨ f.etherType = 0x88CC then none
  else (List.range 128).find? (fun k => d.lifOn k && d.lifMacN k == f.mac && d.lifAddr k == f.src && d.vidOk k f.tag)

/-- The active transmit association of an interface. -/
def Dev.txAssoc (d : Dev) (k : Nat) : Option (Nat × Assoc) :=
  (List.range 4).findSome? (fun an => match Tab.find d.assoc (assocKey k 0 0 an) with
    | some a => if a.active then some (an, a) else none
    | none => none)

/-- The content that MACsec protects: the tag, EtherType, headers and payload (R310: confidentiality offset 0, the tag inside). -/
def Frame.content (f : Frame) : List Byte :=
  (match f.tag with
    | some (v, c) => beBytes 2 0x8100 ++ beBytes 2 (c.toNat * 2 ^ 13 + v.toNat)
    | none => [])
  ++ beBytes 2 f.etherType.toNat
  ++ (match f.ip with
    | some i => IpHdr.bytes i (Frame.ipLen f) i.sum.toNat
    | none => [])
  ++ (match f.udp with
    | some u => UdpHdr.bytes u f.payload.length u.sum.toNat
    | none => [])
  ++ f.payload

/-- The initialisation vector of a packet: SCI and PN, or SSCI and PN with the salt under XPN (PRESUMED: the standard's, log entry 128). -/
def Assoc.iv (a : Assoc) (xpn : Bool) (pn : Nat) : List Byte :=
  if xpn then (beBytes 4 a.ssci.toNat ++ beBytes 8 pn).zipWith (fun x y => x ^^^ y) a.salt else beBytes 8 a.sci.toNat ++ beBytes 4 pn

/-- The 16 bytes of a SecTAG (R310; PRESUMED: the standard's, log entry 128): EtherType; the TCI, with the SCI explicit and the data encrypted, and
AN; the short length, of data shorter than 48 bytes; the low 32 bits of the PN; the SCI. -/
def Assoc.secTag (a : Assoc) (an pn len : Nat) : List Byte :=
  beBytes 2 0x88E5 ++ beBytes 1 (0x2C + an) ++ beBytes 1 (if len < 48 then len else 0) ++ beBytes 4 (pn % 2 ^ 32) ++ beBytes 8 a.sci.toNat

/-- The protected bytes of a frame's content under an association: authenticated with the addresses and the SecTAG (R310). -/
def Assoc.seal (a : Assoc) (xpn : Bool) (an : Nat) (pn : Nat) (f : Frame) : List Byte :=
  let c := Frame.content f
  Config.gcmSeal a.key (a.iv xpn pn) (beBytes 6 f.dst.toNat ++ beBytes 6 f.src.toNat ++ a.secTag an pn c.length) c

/-- Whether an interface's associations are of the XPN suite. -/
def Dev.lifXpn (d : Dev) (k : Nat) : Bool := bit (d.reg (R.lifCfg k)) 8

/-- What MACsec makes of a frame that leaves (R311): none where it is dropped. -/
def Dev.msecTx (d : Dev) (f : Frame) : Option Frame × Dev :=
  match d.lifOf f with
  | none => (some f, d)
  | some k =>
    if !d.lifMsec k then (some f, d)
    else match d.txAssoc k with
      | none => (none, d.ethCount f.mac 27 1)
      | some (an, a) =>
        let xpn := d.lifXpn k
        let top := if xpn then 2 ^ 64 else 2 ^ 32
        if top ≤ a.pn then (none, d.ethCount f.mac 27 1)
        else
          let low := if xpn then 0xC000000000000000 else 0xC0000000
          let d := { d with assoc := Tab.put d.assoc (assocKey k 0 0 an) { a with pn := a.pn + 1, low := a.low || decide (low ≤ a.pn) } }
          let d := if low ≤ a.pn ∧ !a.low then d.setFlag (R.ethMacStatus f.mac) 6 true else d
          (some { f with sec := some ⟨a.sci, Fin.ofNat 4 an, a.pn, a.seal xpn an a.pn f⟩ }, d)

/-! ## Fault injection (R312) -/

/-- Whether a MAC's unit acts in a direction (1 transmit, 2 receive) on frames of a class. -/
def Dev.injOn (d : Dev) (m : Fin 8) (dir cls : Nat) : Bool :=
  d.fld (R.ethInj m) 63 62 == dir && decide (d.fld (R.ethInj m) 61 59 ≤ 3) && bit (d.reg (R.ethInj m)) (49 + cls % 8)

/-- Whether the unit selects a frame. -/
def Dev.injSelect (d : Dev) (m : Fin 8) (dir cls : Nat) : Bool × Dev :=
  let rate := d.fld (R.ethInj m) 48 33
  if !d.injOn m dir cls ∨ rate = 0 then (false, d)
  else if bit (d.reg (R.ethInj m)) 57 then
    let n := (d.mac m).period + 1
    (decide (rate ≤ n), d.modMac m (fun x => { x with period := if rate ≤ n then 0 else n }))
  else
    let r := d.injDraw
    (decide (r.1.toNat % 2 ^ 16 < rate), r.2.modMac m (fun x => { x with lfsr := r.1 }))

/-- Inverts the lowest bit of a number. -/
def flip0 (n : Nat) : Nat := if n % 2 = 0 then n + 1 else n - 1

/-- The VID and PCP of a tag one of whose two octets is corrupted. -/
def flipTag (t : BitVec 12 × BitVec 3) (i : Nat) : BitVec 12 × BitVec 3 :=
  if i = 0 then (t.1 ^^^ 0x100, t.2) else (t.1 ^^^ 1, t.2)

/-- An address one of whose octets (from the last, 0) is corrupted. -/
def flipIp (a : Ip) (k : Nat) : Ip := a ^^^ BitVec.ofNat 128 (2 ^ (8 * k))

/-- An IP header whose octet `j` has its lowest bit inverted; where the octet holds a version, length or fragment field, that is no longer
right. -/
def IpHdr.flip (i : IpHdr) (j : Nat) : IpHdr :=
  let other := fun (k : Nat) => { i with rest := i.rest.map (· ^^^ BitVec.ofNat 32 (2 ^ k)) }
  if i.v6 then
    (if j < 4 then other (24 - 8 * j)
     else if j < 6 then { i with ok := false }
     else if j = 6 then { i with proto := i.proto ^^^ 1 }
     else if j = 7 then { i with ttl := flip0 i.ttl }
     else if j < 24 then { i with src := flipIp i.src (23 - j) }
     else { i with dst := flipIp i.dst (39 - j) })
  else if j = 1 then other 0
  else if j = 4 ∨ j = 5 then other (16 - 8 * (j - 4))
  else if j < 8 then { i with ok := false }
  else if j = 8 then { i with ttl := flip0 i.ttl }
  else if j = 9 then { i with proto := i.proto ^^^ 1 }
  else if j < 12 then { i with sum := i.sum ^^^ (if j = 10 then 0x100 else 1) }
  else if j < 16 then { i with src := flipIp i.src (15 - j) }
  else { i with dst := flipIp i.dst (19 - j) }

/-- A UDP header whose octet `j` has its lowest bit inverted. -/
def UdpHdr.flip (u : UdpHdr) (j : Nat) : UdpHdr :=
  let one : BitVec 16 := if j % 2 = 0 then 0x100 else 1
  if j < 2 then { u with sport := u.sport ^^^ one }
  else if j < 4 then { u with dport := u.dport ^^^ one }
  else if j < 6 then { u with ok := false }
  else { u with sum := u.sum ^^^ one }

/-- The octets of a MAC control frame behind its opcode: a PAUSE's quanta, a PFC's enable vector and eight quanta. -/
def Frame.ctlBytes (f : Frame) : List Byte :=
  if f.macCtl = 1 then beBytes 2 (f.pauseTimes.headD 0).toNat ++ f.payload.drop 2
  else if f.macCtl = 0x101 then
    beBytes 2 (beNat (sliceB f.payload 0 2)) ++ (List.range 8).flatMap (fun k => beBytes 2 (f.pauseTimes.getD k 0).toNat) ++ f.payload.drop 18
  else f.payload

/-- A MAC control frame with an opcode and the octets behind it. -/
def Frame.setCtl (f : Frame) (op : BitVec 16) (l : List Byte) : Frame :=
  let q := fun (o : Nat) => BitVec.ofNat 16 (beNat (sliceB l o 2))
  { f with macCtl := op, payload := l, pauseTimes := if op = 1 then [q 0] else if op = 0x101 then (List.range 8).map (fun k => q (2 + 2 * k)) else [] }

/-- A frame whose octet `o` from the destination address on (14 or more) has its lowest bit inverted; an octet of the padding is in no field.
A protected frame keeps no protected bytes: its ICV fails either way (R312). -/
def Frame.flip (f : Frame) (o : Nat) : Frame :=
  let h := if f.tag.isSome then 18 else 14
  let hl := match f.ip with
    | some i => if i.v6 then 40 else 20
    | none => 0
  let ul := if f.udp.isSome then 8 else 0
  if f.sec.isSome then { f with sec := f.sec.map (fun s => { s with protectedBytes := [] }) }
  else if o < h then
    (if f.tag.isSome ∧ o < 16 then { f with tag := f.tag.map (fun t => flipTag t (o - 14)) }
     else { f with etherType := f.etherType ^^^ (if o + 2 = h then 0x100 else 1) })
  else if f.etherType = 0x8808 then
    (if o - h < 2 then Frame.setCtl f (f.macCtl ^^^ (if o = h then 0x100 else 1)) (Frame.ctlBytes f)
     else Frame.setCtl f f.macCtl (flipByte (Frame.ctlBytes f) (o - h - 2)))
  else if o - h < hl then { f with ip := f.ip.map (fun i => IpHdr.flip i (o - h)) }
  else if o - h - hl < ul then { f with udp := f.udp.map (fun u => UdpHdr.flip u (o - h - hl)) }
  else { f with payload := flipByte f.payload (o - h - hl - ul) }

/-- The corrupt action. -/
def Dev.injCorrupt (d : Dev) (m : Fin 8) (f : Frame) : Frame :=
  let g := Frame.flip f (14 + d.fld (R.ethInj m) 28 14 % Nat.max 1 (f.length - 18))
  if bit (d.reg (R.ethInj m)) 58 then g else { g with fcsOk := false }

/-- One more frame of the MAC has passed a frame of its direction in the side slot. -/
def Dev.sidePass (d : Dev) (m : Fin 8) (rx : Bool) : Dev :=
  d.modMac m (fun x => { x with side := x.side.map (fun s => if s.2.2 = rx then (s.1, s.2.1 - 1, s.2.2) else s) })

/-! ## Transmission (R308) -/

/-- A frame starts on the wire. -/
def Dev.wire (d : Dev) (m : Fin 8) (f : Frame) : Dev :=
  let d := ((d.ethCount m 2 1).ethCount m 3 f.length).modMac m (fun x => { x with onWire := some f })
  if f.etherType = 0x8808 then d.ethCount m 25 1 else d

/-- A picked frame gets its checksums and passes MACsec and the injection unit (R303, R311, R312). -/
def Dev.launchFrame (d : Dev) (m : Fin 8) (t : TxFrame) : Dev :=
  let w := d.free
  match (if t.frame.ip.isNone then d else w.2).msecTx (Frame.summed t.frame (BitVec.ofNat 32 w.1.toNat)) with
  | (none, d) => d
  | (some f, d) =>
    let r := d.injSelect m 1 t.cls
    let d := r.2
    if !r.1 then (d.wire m f).sidePass m false
    else match d.fld (R.ethInj m) 61 59 with
      | 0 => d.ethCount m 28 1
      | 1 => ((d.ethCount m 29 1).wire m (d.injCorrupt m f)).sidePass m false
      | 2 =>
        if (d.mac m).side.isSome then (d.wire m f).sidePass m false
        else (d.ethCount m 30 1).modMac m (fun x => { x with side := some ({ t with frame := f }, d.fld (R.ethInj m) 32 29, false) })
      | _ => (d.ethCount m 31 1).modMac m (fun x => { x with delayed := x.delayed ++ [{ t with frame := f }], hold := d.fld (R.ethInj m) 28 14, paused := false })

/-- A class held by PFC. -/
def Dev.clsHeld (d : Dev) (m : Fin 8) (c : Nat) : Bool := Tab.get (fun _ => 0) (d.mac m).pfcHold c != 0

/-- Whether a frame belongs to tier 1. -/
def Dev.tier1 (d : Dev) (m : Fin 8) (t : TxFrame) : Bool := t.mgmt || (bit (d.reg (R.ethMacCfg m)) (49 + t.cls % 8) && !d.clsHeld m t.cls)

/-- Whether a frame belongs to tier 2 and may start. -/
def Dev.tier2 (d : Dev) (m : Fin 8) (t : TxFrame) : Bool := !t.mgmt && !bit (d.reg (R.ethMacCfg m)) (49 + t.cls % 8) && !d.clsHeld m t.cls

/-- The frame of an interface that goes first in tier 2: the earliest of its highest ready class. -/
def Dev.drrHead (d : Dev) (m : Fin 8) (k : Nat) : Option TxFrame :=
  let l := d.txq.filter (fun t => t.frame.mac == m && t.lif == k && d.tier2 m t)
  l.find? (fun t => l.all (fun u => decide (u.cls ≤ t.cls)))

/-- The interface after `k` in the round that has a tier 2 frame ready, `k` itself where it is the only one. -/
def Dev.drrAfter (d : Dev) (m : Fin 8) (k : Nat) : Nat :=
  (((List.range 128).map (fun i => (k + 1 + i) % 128)).find? (fun j => (d.drrHead m j).isSome)).getD k

/-- Deficit of an interface at a MAC. -/
def Dev.deficitOf (d : Dev) (m : Fin 8) (k : Nat) : Nat := Tab.get (fun _ => 0) d.deficit (m.val * 128 + k)
def Dev.setDeficit (d : Dev) (m : Fin 8) (k n : Nat) : Dev := { d with deficit := Tab.set (fun _ => 0) d.deficit (m.val * 128 + k) n }

/-- Deficit round robin: an interface gets its quantum when its turn comes and keeps the turn while its deficit covers its next frame. -/
def Dev.drrPick (d : Dev) (m : Fin 8) : Nat → Option (TxFrame × Dev)
  | 0 => none
  | n + 1 =>
    let k := (d.mac m).drrNext
    match d.drrHead m k with
    | none =>
      let d := d.setDeficit m k 0
      let k' := d.drrAfter m k
      if (d.drrHead m k').isNone then none else (d.modMac m (fun x => { x with drrNext := k', drrFed := false })).drrPick m n
    | some t =>
      let d := if (d.mac m).drrFed then d else
        (d.setDeficit m k (d.deficitOf m k + Nat.max 1 (d.fld (R.lifCfg k) 60 53) * 1024)).modMac m (fun x => { x with drrFed := true })
      if t.frame.length ≤ d.deficitOf m k then some (t, d.setDeficit m k (d.deficitOf m k - t.frame.length))
      else (d.modMac m (fun x => { x with drrNext := d.drrAfter m k, drrFed := false })).drrPick m n

/-- The next frame of a MAC, taken from those that are ready. -/
def Dev.txNext (d : Dev) (m : Fin 8) : Option (TxFrame × Dev) :=
  match d.txq.find? (fun t => t.frame.mac == m && d.tier1 m t) with
  | some t => some (t, { d with txq := d.txq.erase t })
  | none => (d.drrPick m 2000).map (fun r => (r.1, { r.2 with txq := r.2.txq.erase r.1 }))

/-- Whether PFC holds a frame's class: it does not start (R306). -/
def Dev.frameHeld (d : Dev) (m : Fin 8) (t : TxFrame) : Bool := !t.mgmt && d.clsHeld m t.cls

/-- The frame that reordering lets go and that may start. -/
def Dev.sideDue (d : Dev) (m : Fin 8) : Option TxFrame :=
  match (d.mac m).side with
  | some (t, 0, false) => if d.frameHeld m t then none else some t
  | _ => none

/-- A pick (R308): the frame before has left the wire. A frame that an injected delay held goes first, then one that reordering held; a class that
PFC holds is passed over. -/
def Dev.txPick (d : Dev) (m : Fin 8) : Dev :=
  if !d.linkIsUp m then d.txDiscard m
  else if (d.mac m).hold ≠ 0 ∨ bit (d.reg (R.ethMacStatus m)) 62 then d
  else
    let d := d.modMac m (fun x => { x with onWire := none })
    match (d.mac m).delayed.find? (fun t => !d.frameHeld m t), d.sideDue m with
    | some t, _ => ((d.modMac m (fun x => { x with delayed := x.delayed.erase t })).wire m t.frame).sidePass m false
    | none, some t => (d.modMac m (fun x => { x with side := none })).wire m t.frame
    | none, none =>
      match d.txNext m with
      | none => d
      | some (t, d) => d.launchFrame m t

/-! ## Registers (R315 to R319, R438) -/

/-- HOLDER names the feature that holds a resource, with the refusal (R313). -/
def Dev.macHeld (d : Dev) (m : Fin 8) (h : Nat) : WOut := .no (d.setFld (R.ethMacStatus m) 35 32 h) St.resourceHeld

/-- A write of ETH_PORT_CFG (R315). -/
def Dev.portWrite (d : Dev) (v : W64) : WOut :=
  let o := R.ethPortCfg
  let on := (List.finRange 8).any (fun m => d.macExists m && d.macEn m)
  let pol := (List.finRange 8).any (fun l => d.macEn (d.laneMac l) && (bit v (16 + l.val) != bit (d.reg o) (16 + l.val) || bit v (8 + l.val) != bit (d.reg o) (8 + l.val)))
  .when d (refuseIf ((on && bits v 1 0 != d.fld o 1 0) || pol) St.badDescriptor) (fun d => d.writeReg o v)

/-- ETH_PORT_CFG_WRITE (R315): Sets breakout and lane polarity while the affected MACs are down. -/
def execEthPortCfgWrite (a : Agent) (v : W64) (s : State) : Res := onAgent a R.ethPortCfg (fun d => d.portWrite v) s

/-- A write of ETH_MACm_CFG (R296, R313, R316): a class that leaves PFC forgets that it has stopped its senders (R306). -/
def Dev.macWrite (d : Dev) (m : Fin 8) (v : W64) : WOut :=
  let o := R.ethMacCfg m
  if !d.macExists m ∨ bits v 61 60 = 3 ∨ bits v 59 58 = 3 ∨ bits v 40 27 < 1518 ∨ 9216 < bits v 40 27 then .no d St.badDescriptor
  else if bits v 61 60 = 1 ∧ d.holdHolder m = 2 then d.macHeld m 2
  else if bits v 59 58 = 2 ∧ d.loopHolder m = 2 then d.macHeld m 4
  else
    let d := ((d.writeReg o v).twResolve m).modMac m (fun x =>
      { x with pfcSent := x.pfcSent.filter (fun c => bits v 61 60 == 2 && bit v (41 + c)) })
    .ok (if bit v 63 && bits v 59 58 == 0 then d else d.goDown m)

/-- ETH_MAC_CFG_WRITE (R316): Configures a logical MAC, bringing it up or down and claiming shared resources. -/
def execEthMacCfgWrite (a : Agent) (m : Fin 8) (v : W64) (s : State) : Res := onAgent a (R.ethMacCfg m) (fun d => d.macWrite m v) s

/-- A write of ETH_INJm (R313, R318): the LFSR is loaded when the unit is enabled. -/
def Dev.injWrite (d : Dev) (m : Fin 8) (v : W64) : WOut :=
  let o := R.ethInj m
  let dir := bits v 63 62
  let act := bits v 61 59
  if !d.macExists m ∨ dir = 3 ∨ (dir = 2 ∧ (act = 3 ∨ act = 4)) ∨ 4 < act then .no d St.badDescriptor
  else if dir ≠ 0 ∧ act = 3 ∧ d.holdHolder m = 1 then d.macHeld m 1
  else if dir ≠ 0 ∧ act = 4 ∧ d.loopHolder m = 1 then d.macHeld m 3
  else
    let was := d.fld o 63 62
    let d := (d.writeReg o v).modMac m (fun x => { x with onWire := if act = 4 then none else x.onWire })
    .ok (if was = 0 ∧ dir ≠ 0 then d.modMac m (fun x => { x with lfsr := BitVec.ofNat 32 (d.fld R.ethInjSeed 31 0), period := 0 }) else d)

/-- ETH_INJ_WRITE (R318): Configures a MAC fault-injection unit under resource and value checks. -/
def execEthInjWrite (a : Agent) (m : Fin 8) (v : W64) (s : State) : Res := onAgent a (R.ethInj m) (fun d => d.injWrite m v) s

/-- A write of LIFk_MAC (R301, R319). -/
def Dev.lifMacWrite (d : Dev) (k : Nat) (v : W64) : WOut :=
  let twin := (List.range 128).any (fun j => j != k && d.lifOn j && d.lifMacN j == d.lifMacN k && d.lifAddr j == BitVec.ofNat 48 (bits v 47 0)
    && d.lifVid j == bits v 59 48)
  .when d (refuseIf (bits v 59 48 == 0 || bit v 40 || (bit v 63 && twin)) St.badDescriptor) (fun d => d.writeReg (R.lifMac k) v)

/-- A write of LIFk_CFG (R300, R319): while EN is 1 it changes WEIGHT, TCMAP and MSEC_STRICT only. -/
def Dev.lifCfgWrite (d : Dev) (k : Nat) (v : W64) : WOut :=
  let o := R.lifCfg k
  if d.lifOn k then .ok (((d.setFld o 60 53 (bits v 60 53)).setFld o 38 27 (bits v 38 27)).setFlag o 9 (bit v 9))
  else .when d (refuseIf (decide (d.fld (R.ethMacCfg (Fin.ofNat 8 (bits v 63 61))) 40 27 < bits v 52 39)) St.badDescriptor) (fun d => d.writeReg o v)

/-- LIF_CFG_WRITE: a write of LIFk_MAC or LIFk_CFG. -/
def execLifCfgWrite (a : Agent) (k : Fin 128) (macReg : Bool) (v : W64) (s : State) : Res :=
  onAgent a (if macReg then R.lifMac k.val else R.lifCfg k.val) (fun d => if macReg then d.lifMacWrite k.val v else d.lifCfgWrite k.val v) s

/-- BUSY follows the lanes that re-adapt or wait. -/
def Dev.serdesBusy (d : Dev) : Dev := d.each (List.finRange 8) (fun d l => d.setFlag R.serdesCtrl (48 + l.val) (d.boot.serdesQ.contains l))

/-- A write of SERDES_CTRL (R438, R433): each lane of REQ is re-adapted in turn, and the MAC that holds it is down meanwhile. -/
def Dev.serdesWrite (d : Dev) (v : W64) : Dev :=
  let req := (List.finRange 8).filter (fun l => bit v (56 + l.val))
  let d := d.writeReg R.serdesCtrl v
  let q := req.foldl (fun q l => if q.contains l then q else q ++ [l]) d.boot.serdesQ
  ((d.modBoot (fun b => { b with serdesQ := q })).serdesBusy).each req (fun d l => d.goDown (d.laneMac l))

/-- SERDES_REQ (R438). -/
def execSerdesReq (a : Agent) (v : W64) (s : State) : Res := onAgent a R.serdesCtrl (fun d => .ok (d.serdesWrite v)) s

/-- SERDES_ADAPT_DONE (R438): the duration of one that finished is in LAST; a lane that did not adapt sets FAILED, and its MAC stays down until it has
adapted, whatever software writes to FAILED. -/
def execSerdesAdaptDone (lane : Fin 8) (ok : Bool) (micros : Nat) (s : State) : Res :=
  onDev (fun d =>
    if d.boot.serdesQ.contains lane then
      let d := (d.modBoot (fun b =>
        { b with serdesQ := b.serdesQ.erase lane, laneBad := (if ok then [] else [lane]) ++ b.laneBad.filter (· != lane) })).serdesBusy
      let d := d.setFld R.serdesCtrl 15 0 (Nat.min 0xFFFF micros)
      if ok then d else d.setFlag R.serdesCtrl (40 + lane.val) true
    else d) s

/-- A write of ETH_INJ_SEED (R318). -/
def Dev.seedWrite (d : Dev) (v : W64) : WOut := .when d (refuseIf (bits v 31 0 == 0) St.badDescriptor) (fun d => d.writeReg R.ethInjSeed v)

end Sys2Proof.Machine
end

