-- ==== Sys2Proof/Machine/Transport.lean ====
section
/-! DEFINITION. Flows of the Paldal transport (R323 to R331): acknowledgement, retransmission, loss, congestion, NACKs, replies and
closing; memory windows (R333 to R335); and the transport's registers (R341, R342, R344). -/
namespace Sys2Proof.Machine

/-! ## What ends a request (R323, R329, R332) -/

/-- The group entry of a flow's peer, of the peer's module where the flow is to its management island. -/
def Dev.peerRank (d : Dev) (f : Flow) : Option Rank :=
  let rs := (d.coll.groups.map (·.2)).flatMap (fun g => if g.tenant = f.tenant then g.ranks else [])
  rs.find? (fun r => r.ip == f.peerIp && (f.peerMgmt || r.part.val == f.peerPart.toNat))

/-- A flow's peer is reported as a suspect (R412): a member's module, or a partition of it. -/
def Dev.suspectPeer (d : Dev) (f : Flow) (code : Status) (whole : Bool) : Dev :=
  match d.peerRank f with
  | some r => d.report ⟨f.tenant, r.module, if whole then 0xFF else r.part.val, code, if whole then 0 else f.peerGen.toNat⟩ 0
  | none => d

/-- A peer that finds a partition fenced or reset reports it, with the generation it last saw (R412). -/
def Dev.suspectReset (d : Dev) (f : Flow) (code : Status) : Dev :=
  if (code = St.partitionReset ∨ code = St.generationStale) ∧ !f.peerMgmt then d.suspectPeer f St.partitionReset false else d

/-- What waited on a request ends with a status. -/
def Dev.reqFailed (d : Dev) (f : Flow) (code : Status) (lost : Bool) (r : TxRec) : Dev :=
  match r.what with
  | .collSeg n => d.collLost n code f
  | .plog p s => if lost || code != St.noPermission then d.logOwe p true else d.plogRefused p s
  | .mput p q id => d.moveNack p q id code
  | .mget p q id _ _ => d.moveNack p q id code
  | .complete p q => if lost then d.completeLost p q else d.completeAcked p q
  | .maq p => d.maqStop p code
  | .reply => d
  | .report => d
  | .incident _ => d
  | .closing => d
  | .ended => d

/-- A flow ends: its context is freed, and every operation that waits on it ends with the status. -/
def Dev.flowEnd (d : Dev) (n : Nat) (code : Status) : Dev :=
  match d.flow n with
  | none => d
  | some f => ((d.dropFlow n).plogResume.each (f.unacked ++ f.awaiting ++ f.waitQ) (fun d r => d.reqFailed f code true r))

/-- A flow is lost (R329): LINK_LOST where its logical MAC was down throughout the last timer period, else MEMBER_LOST; one incident and
report for the peer's module. -/
def Dev.flowLost (d : Dev) (n : Nat) : Dev :=
  match d.flow n with
  | none => d
  | some f =>
    let code := if !f.linkSeen && !d.linkIsUp (d.lifMacN f.lif) then St.linkLost else St.memberLost
    let d := (((d.flowEnd n code).collFlowLost f code).queuesLost f).tpCount 14
    let d := match d.peerRank f with
      | some r => d.incident ⟨if f.ownerIf then 16 else f.tenant.val, r.module.toNat, 0xFF, 0, code⟩ 1 d.moduleId 0 (d.armEpoch f.tenant).toNat
      | none => d
    d.suspectPeer f code true

/-! ## Requests answered (R322, R323) -/

/-- The request of a flow that a REQ_SEQ names, if it is outstanding. -/
def Flow.request (f : Flow) (seq : BitVec 32) : Option TxRec :=
  (f.unacked ++ f.awaiting).find? (fun r => r.seq == seq && r.what != .reply && r.what != .ended)

/-- A request waits for nothing more: its sequence still waits for its acknowledgement where it has none. -/
def Flow.settled (f : Flow) (seq : BitVec 32) : Flow :=
  { f with unacked := f.unacked.map (fun r => if r.seq = seq then { r with what := .reply } else r), awaiting := f.awaiting.filter (fun r => r.seq != seq) }

/-- A request's reply is still incomplete. -/
def Flow.reqPut (f : Flow) (seq : BitVec 32) (w : TxWhat) : Flow :=
  let g := fun (r : TxRec) => if r.seq = seq then { r with what := w } else r
  { f with unacked := f.unacked.map g, awaiting := f.awaiting.map g }

/-- A reply that names no outstanding request: counted, in its partition too where the request had timed out (check 10 of R332, R406). -/
def Dev.replyStale (d : Dev) (f : Flow) (seq : BitVec 32) : Dev :=
  let d := d.tpCount 6
  match f.ep with
  | .part p => if (f.unacked ++ f.awaiting).any (fun r => r.seq == seq && r.what == .ended) then d.bump (R.prstStatus p) 15 0 1 else d
  | .mgmt => d

/-- A NACK ends its request with the status (R322). -/
def Dev.nackTake (d : Dev) (n : Nat) (seq : BitVec 32) (code : Status) : Dev :=
  match d.flow n with
  | none => d
  | some f =>
    match f.request seq with
    | none => d.replyStale f seq
    | some r => ((d.setFlow n (f.settled seq)).reqFailed f code false r).suspectReset f code

/-- Data of a WIN_READ reply: the read completes when its last byte has arrived. -/
def Dev.readTake (d : Dev) (n : Nat) (seq : BitVec 32) (off : Nat) (data : List Byte) : Dev :=
  match d.flow n with
  | none => d
  | some f =>
    match f.request seq with
    | none => d.replyStale f seq
    | some r =>
      match r.what with
      | .mget p q id a len =>
        let f := if len ≤ data.length then f.settled seq else f.reqPut seq (.mget p q id a (len - data.length))
        (d.setFlow n f).mgetData p q id off data
      | _ => d

/-- NACK (R322): the refusal of a request of this module. -/
def execNack (m : NackMsg) (s : State) : Res := onDev (fun d => d.nackTake m.flow m.reqSeq m.status) s

/-! ## Acknowledgement (R326 to R328, R331) -/

/-- A request is acknowledged and waits for its reply. -/
def Dev.awaitReply (d : Dev) (n : Nat) (r : TxRec) : Dev :=
  match d.flow n with
  | some f => d.setFlow n { f with awaiting := f.awaiting ++ [r] }
  | none => d

/-- A request is acknowledged: executed, where its reply is its acknowledgement; a read waits on for its data. -/
def Dev.reqAcked (d : Dev) (n : Nat) (r : TxRec) : Dev :=
  match r.what with
  | .collSeg c => d.collAcked c (r.frame.payload.drop 32)
  | .plog p s => d.plogAcked p s
  | .mput p q id => d.moveGot p q id 1
  | .mget _ _ _ _ _ => d.awaitReply n r
  | .ended => d.awaitReply n r
  | .complete p q => d.completeAcked p q
  | .maq p => d.maqAcked p
  | .closing => d.closeQuiet n
  | .reply => d
  | .report => d
  | .incident _ => d

/-- The congestion window after an acknowledgement that advances (R331). -/
def Dev.ccAck (d : Dev) (f : Flow) (rtt acked : Nat) : Flow :=
  let base := match f.baseRtt with
    | some b => Nat.min b rtt
    | none => rtt
  let target := d.fld R.tpCc 63 48 * 125
  let top := d.lifMax f.lif
  let f := { f with baseRtt := some base }
  if rtt ≤ base + target then { f with cwnd := f.cwnd + top * acked / Nat.max 1 f.cwnd }
    else if (match f.decreaseAt with
      | some t => decide (rtt ≤ d.ethCycle - t)
      | none => true) then
      let cut := f.cwnd * d.fld R.tpCc 47 40 * (rtt - base - target) / (256 * rtt)
      { f with cwnd := Nat.max (Nat.max (f.cwnd - cut) (f.cwnd / 2)) top, decreaseAt := some d.ethCycle }
    else f

/-- A cumulative acknowledgement (R328): the timer restarts where it advances; `sample` is an echoed sequence and its delay. -/
def Dev.ackCum (d : Dev) (n : Nat) (cum : BitVec 32) (sample : Option (BitVec 32 × Nat)) : Dev :=
  match d.flow n with
  | none => d
  | some f =>
    let done := f.unacked.filter (fun r => seqLt r.seq cum)
    if done.isEmpty then d
    else
      let bytes := (done.map (fun r => r.frame.length)).sum
      let f' := { f with unacked := f.unacked.filter (fun r => !seqLt r.seq cum), expiries := 0, linkSeen := d.linkIsUp (d.lifMacN f.lif) }
      let f' : Flow := match sample with
        | some (e, rtt) => (match f.unacked.find? (fun r => r.seq == e) with
          | some r => if r.retx then f' else d.ccAck f' rtt bytes
          | none => f')
        | none => f'
      let f' := { f' with cwnd := Nat.min f'.cwnd (d.fld R.tpCc 19 0 * 1024) }
      (d.setFlow n f').each done (fun d r => d.reqAcked n r)

/-- A sequence is sent again (R328, R330). -/
def Dev.resend (d : Dev) (n : Nat) (fast : Bool) : Dev :=
  match d.flow n with
  | none => d
  | some f =>
    match f.unacked with
    | [] => d
    | r :: t =>
      let r' := d.finish n f r true
      let r' := if fast then { r' with fast := true } else r'
      ((d.setFlow n { f with unacked := r' :: t }).txPush n r'.lif r'.cls r'.frame).tpCount 10

/-- Sequences beyond the oldest unacknowledged one that SACK blocks report. -/
def sackCount (oldest : BitVec 32) (l : List (BitVec 32 × BitVec 32)) : Nat :=
  (l.map (fun b => if seqLt oldest b.1 then (b.2 - b.1).toNat else 0)).sum

/-- FAST_RETRANSMIT (R328). -/
def Dev.fastResend (d : Dev) (n : Nat) (sacks : List (BitVec 32 × BitVec 32)) : Dev :=
  match d.flow n with
  | none => d
  | some f =>
    match f.unacked with
    | [] => d
    | r :: _ =>
      let k := d.fld R.tpCfg 27 24
      if k ≠ 0 ∧ !r.fast ∧ k ≤ sackCount r.seq sacks then (d.resend n true).tpCount 11 else d

/-- An ACK that refuses a flow (R332): what waits on it ends; a CLOSE takes it as its acknowledgement (R324). -/
def Dev.rstTake (d : Dev) (n : Nat) (code : Status) : Dev :=
  match d.flow n with
  | none => d
  | some f =>
    if f.unacked.any (fun r => r.what == .closing) then d.closeQuiet n
    else (d.flowEnd n code).suspectReset f code

/-- An ACK of a flow (R324, R326 to R328). -/
def Dev.ackTake (d : Dev) (m : AckMsg) : Dev :=
  if m.rst then d.rstTake m.flow m.status
  else match d.flow m.flow with
    | none => d
    | some f =>
      let f := if m.isOpen && !f.established then { f with established := true, peerFlow := m.peerFlow, peerGen := m.peerGen } else f
      let f := if seqLt f.txLimit m.limit then { f with txLimit := m.limit } else f
      let d := d.setFlow m.flow f
      let d := if m.ackv then d.ackCum m.flow m.cumAck (some (m.echo, m.rtt)) else d
      let d := d.fastResend m.flow m.sacks
      let d := (d.each m.credits (fun d c => d.collCredit f m.armEp c)).pump m.flow
      if m.isOpen then d.advertise none else d

/-- ACK (R326, R328, R331). -/
def execAck (m : AckMsg) (s : State) : Res := onDev (fun d => d.ackTake m) s

/-! ## Timers (R327, R328, R329, R331, R324) -/

/-- RETRANSMIT_TIMEOUT (R328, R329, R331). -/
def Dev.rto (d : Dev) (n : Nat) : Dev :=
  match d.flow n with
  | none => d
  | some f =>
    if f.unacked.isEmpty then d
    else
      let d := d.tpCount 12
      if d.fld R.tpCfg 47 44 ≤ f.expiries + 1 then d.flowLost n
      else
        let f := { f with expiries := f.expiries + 1, pathOff := f.pathOff + 1, cwnd := d.lifMax f.lif, linkSeen := d.linkIsUp (d.lifMacN f.lif),
                          unacked := f.unacked.map (fun r => { r with fast := false }) }
        (d.setFlow n f).resend n false

/-- RETRANSMIT_TIMEOUT (R328): The flow's retransmit timer expires; the oldest sequence is resent on another path. -/
def execRetransmitTimeout (flow : Nat) (s : State) : Res := onDev (fun d => d.rto flow) s

/-- Sends the ACK that a flow owes, with the windows it grants. -/
def Dev.ackNow (d : Dev) (n : Nat) : Dev :=
  match d.flow n with
  | none => d
  | some f => d.ackWindows n f f.rxEcho f.announce

/-- ACK_DELAY_EXPIRE (R327). -/
def execAckDelayExpire (flow : Nat) (s : State) : Res :=
  onDev (fun d => match d.flow flow with
    | some f => if f.ackDue = 0 then d else d.ackNow flow
    | none => d) s

/-- FLOW_IDLE_CLOSE (R324): a flow that carries nothing is closed with CLOSE. -/
def execFlowIdleClose (flow : Nat) (s : State) : Res :=
  onDev (fun d =>
    match d.flow flow with
    | none => d
    | some f =>
      if !f.unacked.isEmpty || !f.waitQ.isEmpty || f.awaiting.any (fun r => r.what != .ended) then d
      else if f.established then d.send flow 0x0F flClose 0 [] .closing
      else (d.dropFlow flow).plogResume) s

/-- CC_BASE_RESTART (R331). -/
def execCcBaseRestart (flow : Nat) (s : State) : Res :=
  onDev (fun d => match d.flow flow with
    | some f => d.setFlow flow { f with baseRtt := none }
    | none => d) s

/-- CLOSE (R324): the receiver sends the ACK that covers it and frees its context. -/
def Dev.closeTake (d : Dev) (r : Req) : Dev :=
  match d.flow r.flow with
  | some f => ((d.setFlow r.flow { f with rxNext := r.seq + 1, rxEcho := r.seq }).ackNow r.flow).closeQuiet r.flow
  | none => d

/-- CLOSE (R324): A sequenced CLOSE is acknowledged and the receiver frees the flow context. -/
def execClose (r : Req) (s : State) : Res := onDev (fun d => d.closeTake r) s

/-! ## Windows (R333, R334) -/

/-- Whether a source address is a rank of an installed group of a tenant. -/
def Dev.isMember (d : Dev) (t : TenantId) (ip : Ip) : Bool := d.coll.groups.any (fun e => e.2.tenant == t && e.2.ranks.any (fun r => r.ip == ip))

/-- Whether an extent reaches a pinned sub-range under LOCK (R149). -/
def Dev.lockedExtent (d : Dev) (lo hi : Nat) : Bool :=
  match d.spans lo hi 80 with
  | some l => l.any d.spanLocked
  | none => false

/-- Whether an extent reaches the first 64 KiB of a partition's scalar local memory, which only its firmware writes (R110). -/
def firmwareSlm (lo hi : Nat) : Bool := allParts.any (fun p => decide (lo < slmBase p + 0x10000) && decide (slmBase p < hi))

/-- What refuses a window access of `n` bytes at an offset; `bad` is a length that is refused (R334). -/
def Dev.winCheck (d : Dev) (r : Req) (wr bad : Bool) (off n key : Nat) : Option Status :=
  let w := r.qw.toNat
  let c := d.reg (R.winCtrl r.tenant w)
  let a := d.fld (R.winBase r.tenant w) 47 12 * 4096 + off
  firstOf
    [ refuseIf (decide (64 ≤ w) || !bit c 63) St.noPermission,
      refuseIf (!bit c (if wr then 61 else 62)) St.noPermission,
      refuseIf (bits c 31 0 != 0 && bits c 31 0 != key && !d.isMember r.tenant r.src) St.noPermission,
      refuseIf (bad || decide (bits c 55 32 * 4096 < off + n)) St.badDescriptor,
      refuseIf (wr && firmwareSlm a (a + n)) St.noPermission,
      refuseIf (d.lockedExtent a (a + n)) St.noPermission ]

/-- First byte of a window. -/
def Dev.winAt (d : Dev) (r : Req) : Nat := d.fld (R.winBase r.tenant r.qw.toNat) 47 12 * 4096

/-- An uncorrectable error met by a window read: marked, and recorded in the ring of the partition whose memory it is (R163, R410). That UNIT is
the port's number is a DESIGN CHOICE (log entry 127). -/
def Dev.windowEcc (d : Dev) (a : Nat) : Dev :=
  match d.region a with
  | some r => (d.eccMark a).record r.part 3 St.eccUncorrected 0 a 0
  | none => d

/-- A window access that needs a channel which takes no request waits at it (R165; log entry 73). -/
def Dev.winWait (d : Dev) (wr : Bool) (r : Req) : Dev := { d with winQ := d.winQ ++ [(wr, r)] }

/-- WIN_READ (R334): the data leave in offset order in as many frames as they need. -/
def Dev.winRead (d : Dev) (r : Req) : Dev :=
  let off := leAt r.payload 0 8
  let n := leAt r.payload 8 4
  match d.winCheck r false (r.payload.length != 16 || n == 0 || decide (2 ^ 24 < n)) off n (leAt r.payload 12 4) with
  | some c => d.nack r 5 c 0
  | none =>
    let a := d.winAt r + off
    if d.chanBusy a (a + n) then d.winWait false r
    else if d.bad a n then (d.windowEcc (d.badWord a n)).nack r 5 St.eccUncorrected 0
    else match d.flow r.flow with
      | none => d
      | some f => d.each (cuts 0 n (d.roomFor f.lif f.peerIp 16)) (fun d c => d.reply r 5 (leBytes 8 (off + c.1) ++ d.rd (a + c.1) c.2))

/-- WIN_READ (R334): Reads bytes from a memory window, replying in as many frames as needed. -/
def execWinRead (r : Req) (s : State) : Res := onDev (fun d => d.takeReq r 5 (fun d => d.winRead r)) s

/-- Why a write of the mirror ring is refused (R265, R334). -/
def Dev.mirrorCheck (d : Dev) (r : Req) (off : Nat) (data : List Byte) : Option Status :=
  let from' := match d.groupOf r.tenant (d.fld (R.plogCtrl r.part) 62 51) with
    | some g => (List.range g.n).any (fun k => (g.rank k).ip == r.src && g.buddy k == some g.own)
    | none => false
  firstOf
    [ refuseIf (r.mgmt || !from' || (d.plogRing r.part true).1 == 0 || off % 64 != 0) St.noPermission,
      refuseIf (data.length % 64 != 0 || data.isEmpty) St.badDescriptor ]

/-- Whether a slot of the mirror ring that a write takes needs a channel which takes no request (R165). -/
def Dev.mirrorBusy (d : Dev) (p : PartId) (data : List Byte) : Bool :=
  (List.range (data.length / 64)).any (fun k => match d.plogAt p true (leAt data (64 * k + 0x38) 4) with
    | some a => d.chanBusy a (a + 64)
    | none => false)

/-- A record whose CRC is wrong is dropped unacknowledged (R265). -/
def Dev.mirrorDrops (d : Dev) (r : Req) : Bool :=
  let data := r.payload.drop 16
  r.qw == 0x3FFF && (d.mirrorCheck r (leAt r.payload 0 8) data).isNone && (d.plogTake r.part data (data.length / 64)).isNone

/-- WIN_WRITE (R334, R265). -/
def Dev.winWrite (d : Dev) (r : Req) : Dev :=
  let off := leAt r.payload 0 8
  let data := r.payload.drop 16
  if r.qw = 0x3FFF then
    match d.mirrorCheck r off data with
    | some c => d.nack r 6 c 0
    | none => if d.mirrorBusy r.part data then d.winWait true r else (d.plogTake r.part data (data.length / 64)).getD d
  else match d.winCheck r true (decide (r.payload.length < 16)) off data.length (leAt r.payload 8 4) with
    | some c => d.nack r 6 c 0
    | none => if !data.isEmpty && d.chanBusy (d.winAt r + off) (d.winAt r + off + data.length) then d.winWait true r else d.wr (d.winAt r + off) data

/-- WIN_WRITE (R334): Writes bytes into a memory window or the mirror ring. -/
def execWinWrite (r : Req) (s : State) : Res := onDev (fun d => d.takeReq r 6 (fun d => d.winWrite r)) s

/-! ## A channel takes requests again (R165, R166) -/

/-- The window accesses that waited act; one whose channel is still shut waits on. -/
def Dev.winReady (d : Dev) : Dev :=
  ({ d with winQ := [] } : Dev).each d.winQ (fun d e => if e.1 then d.takeReq e.2 6 (fun d => d.winWrite e.2) else d.takeReq e.2 5 (fun d => d.winRead e.2))

/-- Collectives that waited before they began do so, and the engine goes on. -/
def Dev.collReady (d : Dev) : Dev :=
  (d.each (d.coll.ops.filter (fun x => x.phase == .waitDest || x.phase == .waitSource)) (fun d x => match d.collGroup x with
    | some g => d.collGo g x
    | none => d)).collKick

/-- What waited for a channel of a partition goes on (R165): its update units and arrays, the move engines that reach it, collectives and window
accesses. A vector engine's next segment, a core's next access and a word held at its port go on with their own commands. -/
def Dev.channelReady (d : Dev) (p : PartId) : Dev :=
  let d := ((d.unitsGo p).arrayRun p 0).arrayRun p 1
  (d.each allParts (fun d t => d.each (List.range 4) (fun d n => d.moveRun t n))).collReady.winReady

/-- RETRAIN_DONE (R165, R166, R404): LAST takes the duration in units of 1,024 memory cycles, BUSY is cleared for the channel,
and what waited for it goes on. -/
def execRetrainDone (p : PartId) (c : Fin 4) (cycles : Nat) (s : State) : Res :=
  onDev (fun d =>
    if (d.part p).trainQ.head? = some c then
      ((d.setFld (R.memTrain p) 15 0 (Nat.min 0xFFFF (cycles / 1024))).trained p c).channelReady p
    else d) s

/-- RETRAIN_ABANDON (R165): A retraining exceeds 2^23 memory cycles, sets FAILED and leads to a partition reset; trained from power-up within one, the
channel takes requests again (R404). -/
def execRetrainAbandon (p : PartId) (c : Fin 4) (s : State) : Res :=
  onDev (fun d =>
    if (d.part p).trainQ.head? = some c then
      let t := d.retrainAbandon p c
      if d.prstState p = 4 then t.channelReady p else t
    else d) s

/-! ## Registers (R341, R342, R344) -/

/-- A write of TP_CFG (R341). -/
def Dev.tpCfgWrite (d : Dev) (v : W64) : WOut :=
  .when d (refuseIf (decide (bits v 63 48 < 80) || bits v 47 44 == 0 || bits v 23 16 == 0) St.badDescriptor) (fun d => d.writeReg R.tpCfg v)

/-- A write of TP_CC (R342). -/
def Dev.tpCcWrite (d : Dev) (v : W64) : WOut :=
  .when d (refuseIf (decide (bits v 39 20 < 9) || decide (bits v 19 0 < bits v 39 20)) St.badDescriptor) (fun d => d.writeReg R.tpCc v)

/-- A write of TP_INJn (R340, R344): the LFSR is loaded when the injector is enabled. -/
def Dev.tpInjSet (d : Dev) (n : Fin 4) (v : W64) : WOut :=
  .when d (refuseIf (bits v 63 62 == 3 || bits v 61 60 == 3) St.badDescriptor) (fun d =>
    let was := d.fld (R.tpInj n) 63 62
    let d := d.writeReg (R.tpInj n) v
    if was = 0 ∧ bits v 63 62 ≠ 0 then
      { d with inj := d.inj.set n { d.inj[n] with lfsr := BitVec.ofNat 32 (d.fld R.ethInjSeed 31 0), period := 0 } }
    else d)

/-- TP_INJ_WRITE (R344). -/
def execTpInjWrite (a : Agent) (n : Fin 4) (v : W64) (s : State) : Res := onAgent a (R.tpInj n) (fun d => d.tpInjSet n v) s

end Sys2Proof.Machine
end

