-- ==== Sys2Proof/Machine/Ctl.lean ====
section
/-! DEFINITION. Control space as a whole: what a write or a read of any register does for an agent (R6 to R8, R439 to R442), and the
Paldal operations that carry them (R336). -/
namespace Sys2Proof.Machine

/-! ## Writes -/

/-- A write of a register of partition block `p` at offset `l` within it. -/
def Dev.partPut (d : Dev) (a : Agent) (p : PartId) (l : Nat) (v : W64) : WOut :=
  let sq : Seq := if l < 0x20 then .f else if l < 0x40 then .b else .u
  if l < 0x60 then
    match l % 0x20 with
    | 0x0 => .ok (d.seqCtrlWrite p sq v)
    | 0x8 => .ok (d.seqPcWrite p sq v)
    | 0x10 => .ok (if bit v 0 then d.seqFaultClear p sq else d)
    | _ => .ok d
  else if 0xA0 ≤ l ∧ l < 0xC0 then .ok (d.updStatusWrite p (Fin.ofNat 4 ((l - 0xA0) / 8)) v)
  else if 0xC0 ≤ l ∧ l < 0xE0 then .ok (d.updOpenWrite p (Fin.ofNat 4 ((l - 0xC0) / 8)) v)
  else if l < 0x1000 then
    match l with
    | 0x88 => d.memPinWrite p v
    | 0x98 => .ok (d.memTrainWrite p v)
    | 0xE0 => d.tableWrite p (R.updWatch p) v
    | 0xE8 => .ok (d.armWrite p v)
    | 0xF8 => d.tableWrite p (R.collNoise p) v
    | 0x100 => d.mbWrite p (isTenant a) v
    | 0x118 => d.plogRingWrite p false v
    | 0x120 => d.plogRingWrite p true v
    | 0x128 => .ok (d.plogCtrlWrite p v)
    | 0x130 => .ok (d.plogHeadWrite p v)
    | 0x148 => d.restoreWrite p v
    | 0x150 => d.maqWrite p v
    | 0x158 => .ok (d.queueCfgWrite p (bits v 62 61) v)
    | 0x160 => .ok (d.queueStatusWrite p v)
    | 0x170 => d.qretireWrite p v
    | 0x178 => .ok (d.prstWrite (isFirmware p a) p v)
    | 0x188 => d.wdogWrite p v
    | _ => .ok (d.writeReg (R.part p l) v)
  else if l < 0x2000 then .ok (d.setCtr p ((l - 0x1000) / 8) (BitVec.ofNat 32 (bits v 31 0)))
  else if l < 0x2800 then
    let e : Fin 64 := Fin.ofNat 64 ((l - 0x2000) / 32)
    match l % 32 with
    | 0 => d.wsbWrite p e false v
    | 8 => d.wsbWrite p e true v
    | 24 => .ok (d.wsbAdjust p e v)
    | _ => .ok d
  else if 0x4000 ≤ l ∧ l < 0x6000 then d.ciWrite p ((l - 0x4000) / 8) v
  else .ok (d.writeReg (R.part p l) v)

/-- A write of WIN_BASEt_w (R333): a window that is enabled keeps to the tenant's memory. -/
def Dev.winBaseWrite (d : Dev) (t : TenantId) (w : Nat) (v : W64) : WOut :=
  let a := bits v 47 12 * 4096
  .when d (refuseIf (bit (d.reg (R.winCtrl t w)) 63 && !d.tenantHolds t a (a + d.fld (R.winCtrl t w) 55 32 * 4096)) St.badDescriptor)
    (fun d => d.writeReg (R.winBase t w) v)

/-- A write of INC_DESTt (R422). -/
def Dev.incDestWrite (d : Dev) (t : TenantId) (v : W64) : WOut :=
  .when d (refuseIf (bit v 63 && (d.tenantLif t (bits v 62 60)).isNone) St.noPermission) (fun d => d.writeReg (R.incDest t) v)

/-- A write of the Ethernet block. -/
def Dev.ethPut (d : Dev) (o : Nat) (v : W64) : WOut :=
  if o = R.ethPortCfg then d.portWrite v
  else if o = R.ethInjSeed then d.seedWrite v
  else if o = R.msecCommit then d.msecWrite v
  else if o = R.serdesCtrl then .ok (d.serdesWrite v)
  else if d.macAbsent o && !(regFields o).isEmpty then .no d St.badDescriptor
  else if 0x30100 ≤ o ∧ o < 0x30140 then d.macWrite (Fin.ofNat 8 ((o - 0x30100) / 8)) v
  else if 0x30180 ≤ o ∧ o < 0x301C0 then d.injWrite (Fin.ofNat 8 ((o - 0x30180) / 8)) v
  else if 0x31000 ≤ o ∧ o < 0x31080 then .ok (d.setReg o v)
  else if 0x32000 ≤ o ∧ o < 0x34000 then
    match o % 64 with
    | 0x18 => d.lifMacWrite ((o - 0x32000) / 64) v
    | 0x20 => d.lifCfgWrite ((o - 0x32000) / 64) v
    | _ => .ok (d.writeReg o v)
  else .ok (d.writeReg o v)

/-- A write of the transport block. -/
def Dev.tpPut (d : Dev) (o : Nat) (v : W64) : WOut :=
  if o = R.tpCfg then d.tpCfgWrite v
  else if o = R.tpCc then d.tpCcWrite v
  else if 0x40200 ≤ o ∧ o < 0x40220 then d.tpInjSet (Fin.ofNat 4 ((o - 0x40200) / 8)) v
  else if 0x40400 ≤ o ∧ o < 0x40A00 ∧ (o - 0x40400) % 24 = 16 then d.rlyWrite ((o - 0x40400) / 24) v
  else if 0x44000 ≤ o ∧ o < 0x48000 then
    let t : TenantId := Fin.ofNat 16 ((o - 0x44000) / 0x400)
    let w := (o - 0x44000) % 0x400 / 16
    if o % 16 = 8 then d.winCtrlWrite t w v else d.winBaseWrite t w v
  else .ok (d.writeReg o v)

/-- A write of the mailbox, journal, armature, faults and power blocks. -/
def Dev.tailPut (d : Dev) (o : Nat) (v : W64) : WOut :=
  if 0x50000 ≤ o ∧ o < 0x50A00 then d.mboxPut ((o - 0x50000) / 8) v
  else if o = R.jrnExport then d.jrnExportWrite v
  else if o = R.rubCfg then d.rubCfgWrite v
  else if 0x80100 ≤ o ∧ o < 0x80180 then d.rubExpWrite (Fin.ofNat 16 ((o - 0x80100) / 8)) v
  else if 0x80180 ≤ o ∧ o < 0x80200 then d.incDestWrite (Fin.ofNat 16 ((o - 0x80180) / 8)) v
  else if o = R.pwrCap then d.pwrCapWrite v
  else if o = R.thermStatus then .ok (d.thermWrite v)
  else if o = R.indCtrl then d.indWrite v
  else if o = R.alertCtrl then d.alertWrite v
  else .ok (d.writeReg o v)

/-- A write of the tenant table block. -/
def Dev.tenPut (d : Dev) (o : Nat) (v : W64) : WOut :=
  if o < 0x20180 then
    let t : TenantId := Fin.ofNat 16 ((o - 0x20000) / 24)
    match (o - 0x20000) % 24 with
    | 0 => d.tenWrite t .cfg v
    | 8 => d.tenWrite t .lif v
    | _ => d.tenWrite t .lim v
  else .ok d

/-- A staging register's place in the 64 KiB buffer (R444). -/
def Dev.stageIx (d : Dev) (o : Nat) : Nat := b2n (bit (d.reg R.fwStageSel) 0) * 4096 + (o - 0x18000) / 8

/-- A write of the boot and security block: BOOT_OK and HEALTHY are management firmware's; FW_CMD, FW_STAGE and SEC_BUF are written only
on owner sessions (R393, R432, R435, R436, R445). -/
def State.bootPut (s : State) (a : Agent) (o : Nat) (v : W64) : SOut :=
  let own := decide (a = .owner)
  if o = R.dbgCtrl then (s.dbgWrite v, none)
  else if o = R.bootStatus then
    if a = .mgmtFw then
      let s := if bit v 54 then s.bootOk else s
      (if bit v 53 then s.onDev Dev.healthy else s, none)
    else (s, none)
  else if o = R.fwCmd then
    if own then
      let r := s.dev.free
      ({ s with dev := r.2 } : State).fwWrite v (BitVec.ofNat 32 r.1.toNat)
    else (s, none)
  else if o = R.fwStageSel then (if own then s.onDev (fun d => d.writeReg o v) else s, none)
  else if 0x10800 ≤ o ∧ o < 0x10D80 then (if own then s.onDev (fun d => d.setReg o v) else s, none)
  else if 0x18000 ≤ o then (if own then s.onDev (fun d => { d with stage := Tab.set (fun _ => 0) d.stage (d.stageIx o) v }) else s, none)
  else (s.onDev (fun d => d.writeReg o v), none)

/-- A write of any register that an agent reaches. -/
def State.ctlPut (s : State) (a : Agent) (o : Nat) (v : W64) : SOut :=
  let dev := fun (w : WOut) => ({ s with dev := w.1 }, w.2)
  if 0x100000 ≤ o then dev (s.dev.partPut a (Fin.ofNat 16 (o / 0x10000)) (o % 0x10000) v)
  else if o < 0x10000 then (s, none)
  else if o < 0x20000 then s.bootPut a o v
  else if o < 0x30000 then dev (s.dev.tenPut o v)
  else if o < 0x40000 then dev (s.dev.ethPut o v)
  else if o < 0x50000 then dev (s.dev.tpPut o v)
  else dev (s.dev.tailPut o v)

/-- Whether an offset is a window register (R449). -/
def winOff (o : Nat) : Bool := decide (0x44000 ≤ o) && decide (o < 0x48000)

/-- What refuses an access before its register does: its alignment (R6), an offset of no block (R439), plinth mode (R430), an agent that
does not reach it (R440, R333). -/
def Dev.ctlCheck (d : Dev) (a : Agent) (w : Bool) (o : Nat) : Option Status :=
  firstOf
    [ refuseIf (o % 8 != 0) St.badDescriptor,
      refuseIf (decide (0x200000 ≤ o) || (decide (0xA0000 ≤ o) && decide (o < 0x100000))) St.noPermission,
      refuseIf (d.plinth && decide (a = .owner) && !plinthOffers w o) St.plinthMode,
      refuseIf (!d.agentMay a w o && !(winOff o && d.winMay a (Fin.ofNat 16 ((o - 0x44000) / 0x400)))) St.noPermission ]

/-- A register write of an agent (R6 to R8, R439, R440). -/
def State.regPut (s : State) (a : Agent) (o : Nat) (v : W64) : SOut :=
  match s.dev.ctlCheck a true o with
  | some c => (s, some c)
  | none => s.ctlPut a o v

/-- REG_WRITE_GENERIC (R7). -/
def execRegWriteGeneric (a : Agent) (off : BitVec 21) (v : W64) (s : State) : Res :=
  onState (fun s => if s.dev.running then (s.regPut a off.toNat v).1 else s) s

/-! ## Reads -/

/-- What a read leaves behind: RC fields and full mailboxes are cleared (R7, R360). -/
def Dev.readClear (d : Dev) (o : Nat) : Dev :=
  if 0x50000 ≤ o ∧ o < 0x50A00 then d.mboxTake ((o - 0x50000) / 8) else d.setReg o (clearRc (regFields o) (d.reg o))

/-- A register read of an agent: its word, or the status that refuses it. -/
def Dev.regGet (d : Dev) (a : Agent) (o : Nat) : (W64 × Dev) ⊕ Status :=
  match d.ctlCheck a false o with
  | some c => .inr c
  | none => .inl (d.peek o, d.readClear o)

/-- RC_READ (R7): the word read is in `readData`. -/
def execRcRead (a : Agent) (off : BitVec 21) (s : State) : Res :=
  onDev (fun d =>
    if d.running then
      match d.regGet a off.toNat with
      | .inl (w, d) => { d with readData := w }
      | .inr _ => d
    else d) s

/-! ## REG_READ and REG_WRITE (R336, R439) -/

/-- The registers of an operation that starts at `off`: an offset outside the first one's block lies in no block for it. -/
def opOffset (off k : Nat) : Nat := if (off + 8 * k) / 0x10000 = off / 0x10000 then off + 8 * k else 0xA0000

/-- Reads registers in payload order. -/
def Dev.regReads (d : Dev) (off k : Nat) : Nat → (List Byte × Dev) ⊕ (Status × Nat × Dev)
  | 0 => .inl ([], d)
  | n + 1 =>
    match d.regGet .owner (opOffset off k) with
    | .inr c => .inr (c, k, d)
    | .inl (w, d) =>
      match d.regReads off (k + 1) n with
      | .inl (l, d) => .inl (leBytes 8 w.toNat ++ l, d)
      | .inr e => .inr e

/-- Header of a register operation: an offset, a count of 1 to 64, reserved bytes. -/
def regHeadOk (l : List Byte) (values : Bool) : Bool :=
  let n := leAt l 8 2
  decide (1 ≤ n) && decide (n ≤ 64) && zeros l 10 6 && l.length == 16 + (if values then 8 * n else 0)

/-- Whether a reply of `n` registers fits a frame of the request's flow (R300, R320). -/
def Dev.regFits (d : Dev) (r : Req) (n : Nat) : Bool :=
  match d.flow r.flow with
  | some f => decide (8 * n ≤ d.roomFor f.lif f.peerIp 8)
  | none => true

/-- REG_READ (R336). A reply that no frame of the interface holds is refused before any register is read (log entry 133). -/
def Dev.regRead (d : Dev) (r : Req) : Dev :=
  if !d.ownerFlow r.flow then d.nack r 7 St.noPermission 0
  else if !regHeadOk r.payload false || !d.regFits r (leAt r.payload 8 2) then d.nack r 7 St.badDescriptor 0
  else match d.regReads (leAt r.payload 0 8) 0 (leAt r.payload 8 2) with
    | .inl (l, d) => d.reply r 7 l
    | .inr (c, k, d) => d.nack r 7 c k

/-- REG_READ (R336): Reads control-space registers on an owner session. -/
def execRegRead (r : Req) (s : State) : Res := onDev (fun d => d.regRead r) s

/-- Writes registers in payload order; the first that is refused stops the operation. -/
def State.regWrites (s : State) (off k : Nat) : List W64 → State × Option (Status × Nat)
  | [] => (s, none)
  | v :: t =>
    match s.regPut .owner (opOffset off k) v with
    | (s, some c) => (s, some (c, k))
    | (s, none) => s.regWrites off (k + 1) t

/-- REG_WRITE (R336). -/
def State.regWrite (s : State) (r : Req) : State :=
  if !s.dev.ownerFlow r.flow then s.onDev (fun d => d.nack r 8 St.noPermission 0)
  else if !regHeadOk r.payload true then s.onDev (fun d => d.nack r 8 St.badDescriptor 0)
  else
    let vs := (List.range (leAt r.payload 8 2)).map (fun k => BitVec.ofNat 64 (leAt r.payload (16 + 8 * k) 8))
    match s.regWrites (leAt r.payload 0 8) 0 vs with
    | (s, none) => s
    | (s, some (c, k)) => s.onDev (fun d => d.nack r 8 c k)

/-- REG_WRITE (R336): Writes control-space registers one at a time on an owner session. -/
def execRegWrite (r : Req) (s : State) : Res := onState (fun s => s.regWrite r) s

end Sys2Proof.Machine
end

