-- ==== Sys2Proof/Machine/Receive.lean ====
section
/-! DEFINITION. Reception: the checks of R302 and R311 at a logical MAC, relaying (R337), the checks of R332 and the execution of what a
flow carries (R327). -/
namespace Sys2Proof.Machine

/-! ## Management frames (R304, R307) -/

/-- The type, value and rest of the LLDP TLVs in a list. -/
def lldpTlvs (l : List Byte) : Nat → List (Nat × List Byte)
  | 0 => []
  | n + 1 =>
    let w := beNat (sliceB l 0 2)
    if l.length < 2 ∨ w / 512 = 0 then [] else (w / 512, sliceB l 2 (w % 512)) :: lldpTlvs (l.drop (2 + w % 512)) n

/-- The receive wake time that an LLDPDU's EEE TLV advertises. -/
def lldpWake (l : List Byte) : Option Nat :=
  ((lldpTlvs l l.length).find? (fun t => t.1 == 127 && beNat (sliceB t.2 0 4) == 0x00120F05)).map (fun t => beNat (sliceB t.2 6 2))

/-- The IPv4-mapped form of an address. -/
def mapV4 (n : Nat) : Ip := BitVec.ofNat 128 (0xFFFF * 2 ^ 32 + n)

/-- An ARP frame at interface `k`. -/
def Dev.arpTake (d : Dev) (k : Nat) (l : List Byte) : Dev :=
  if beNat (sliceB l 6 2) = 1 ∧ mapV4 (beNat (sliceB l 24 4)) = d.lifIp k then
    d.arpAnswer k (BitVec.ofNat 48 (beNat (sliceB l 8 6))) (mapV4 (beNat (sliceB l 14 4)))
  else d

/-- An ICMP or ICMPv6 message at interface `k`. -/
def Dev.icmpTake (d : Dev) (k : Nat) (src : Mac) (i : IpHdr) (l : List Byte) : Dev :=
  let t := beNat (sliceB l 0 1)
  if i.v6 ∧ t = 135 then (if beNat (sliceB l 8 16) = (d.lifIp k).toNat then d.nsAnswer k src i.src else d)
  else if t = (if i.v6 then 128 else 8) then d.echoAnswer k src i.src (l.drop 4)
  else d

/-! ## Interfaces (R302, R311) -/

/-- The solicited-node group of an IPv6 address, and its MAC address. -/
def solNode (a : Ip) : Ip := BitVec.ofNat 128 (0xFF02 * 2 ^ 112 + 0x1FF * 2 ^ 24 + a.toNat % 2 ^ 24)
def solMac (a : Ip) : Mac := BitVec.ofNat 48 (0x3333FF * 2 ^ 24 + a.toNat % 2 ^ 24)

/-- Interfaces that a destination address reaches (check 7). -/
def Dev.lifsFor (d : Dev) (f : Frame) : List Nat :=
  (List.range 128).filter (fun k => d.lifOn k && d.lifMacN k == f.mac
    && (d.lifAddr k == f.dst || (f.dst == 0xFFFFFFFFFFFF && f.etherType == 0x0806) || (!isV4 (d.lifIp k) && f.dst == solMac (d.lifIp k))))

/-- The class of a frame: its PCP, or 0 without a tag (R301). -/
def Frame.cls (f : Frame) : Nat :=
  match f.tag with
  | some (_, c) => c.toNat
  | none => 0

/-- The address that an ARP request or a Neighbor Solicitation asks for, or the IP destination. -/
def Frame.target (f : Frame) : Ip :=
  match f.ip with
  | some i => if i.dst.toNat / 2 ^ 24 = 0xFF02 * 2 ^ 88 + 0x1FF then BitVec.ofNat 128 (beNat (sliceB f.payload 8 16)) else i.dst
  | none => mapV4 (beNat (sliceB f.payload 24 4))

/-- The interface of several that a frame is for: its VID first, then the address it asks for. -/
def Dev.lifPick (d : Dev) (f : Frame) (l : List Nat) : Option Nat :=
  let v := l.filter (fun k => d.vidOk k f.tag)
  match v.find? (fun k => d.lifIp k == Frame.target f) with
  | some k => some k
  | none => (v ++ l).head?

/-- Where MACsec or a check leaves a frame: dropped in a counter, or on with its interface. -/
abbrev RxAt := Nat ⊕ Nat

/-- The receive slot that an SCI names among interfaces: interface and channel. -/
def Dev.rxChannel (d : Dev) (l : List Nat) (sci : BitVec 64) : Option (Nat × Nat) :=
  (l.filter d.lifMsec).findSome? (fun k => ((List.range 4).find? (fun sc => (List.range 4).any (fun an =>
    match Tab.find d.assoc (assocKey k 1 sc an) with
    | some a => a.sci == sci
    | none => false))).map (fun sc => (k, sc)))

/-- Check 8 (R311), for a frame whose destination reaches the interfaces `l`: its ICV holds where its content sealed under the association is what
it carries. Where no interface has MACsec, the frame shows no VID and an EtherType that no interface takes (checks 9 and 10). -/
def Dev.msecRx (d : Dev) (f : Frame) (l : List Nat) : RxAt × Dev :=
  match f.sec with
  | none =>
    match d.lifPick f l with
    | none => (.inl 12, d)
    | some k => if d.lifMsec k && bit (d.reg (R.lifCfg k)) 9 then (.inl 13, d) else (.inr k, d)
  | some t =>
    if !l.any d.lifMsec then (.inl (if l.any (fun k => d.vidOk k none) then 18 else 12), d)
    else match d.rxChannel l t.sci with
      | none => (.inl 14, d)
      | some (k, sc) =>
        let key := assocKey k 1 sc t.an.val
        match Tab.find d.assoc key with
        | none => (.inl 15, d)
        | some a =>
          if !a.active then (.inl 15, d)
          else if t.protectedBytes.isEmpty || t.protectedBytes != a.seal (d.lifXpn k) t.an.val t.pn f then (.inl 16, d)
          else if t.pn + a.window < a.pn || a.seen.contains t.pn then (.inl 17, d)
          else
            let pn := Nat.max a.pn (t.pn + 1)
            (.inr k, { d with assoc := Tab.put d.assoc key { a with pn := pn, seen := (t.pn :: a.seen).filter (fun x => decide (pn ≤ x + a.window)) } })

/-! ## Relaying (R337, R339) -/

/-- The enabled relay entry for a destination that serves a tenant. -/
def Dev.rlyFor (d : Dev) (dst : Ip) (t : Option TenantId) : Option Nat :=
  (List.range 64).find? (fun k => bit (d.reg (R.rlyCfg k)) 63 && some (Fin.ofNat 16 (d.fld (R.rlyCfg k) 62 59)) == t
    && (d.reg (R.rlyIp0 k)).toNat * 2 ^ 64 + (d.reg (R.rlyIp1 k)).toNat == dst.toNat)

/-- A frame that fails check 12 at interface `k`; with its outgoing link lost it is dropped (R339), and one that would leave longer than its
interface's MAX_FRAME is not relayed (R300; DESIGN CHOICE, log entry 108). -/
def Dev.relay (d : Dev) (k : Nat) (f : Frame) (i : IpHdr) : Dev :=
  match d.rlyFor i.dst (d.lifTenant k) with
  | none => d.ethCount f.mac 12 1
  | some e =>
    let o := d.fld (R.rlyCfg e) 58 52
    if i.ttl ≤ 1 then d.tpCount 18
    else
      let len := d.lifHead o + (if i.v6 then 40 else 20) + Frame.ipLen f
      if !d.lifOn o || !d.linkIsUp (d.lifMacN o) || decide (d.lifMax o < len) then d.ethCount f.mac 12 1
      else
      let g : Frame :=
        { f with mac := d.lifMacN o, fecCorr := 0, fecUncorr := 0, buffered := 0, length := Nat.max 64 len, dst := BitVec.ofNat 48 (d.fld (R.rlyCfg e) 47 0),
                 src := d.lifAddr o, tag := if d.lifVid o = 0xFFF then none else some (BitVec.ofNat 12 (d.lifVid o), BitVec.ofNat 3 (Frame.cls f)),
                 sec := none, ip := some { i with ttl := i.ttl - 1 } }
      ({ d with txq := d.txq ++ [⟨k, Frame.cls f, false, none, g⟩] } : Dev).tpCount 17

/-! ## The checks of R302 from the third on -/

/-- Check 16: the frame does not fit what its class has of the receive buffer (R306). -/
def Dev.noBuf (d : Dev) (f : Frame) (mgmt : Bool) : Bool := decide (d.rxShare f.mac mgmt (Frame.cls f) < f.buffered + f.length)

/-- A management frame: ARP, LLDP, ICMP or ICMPv6, if it finds space. -/
def Dev.rxMgmt (d : Dev) (f : Frame) (g : Dev → Dev) : Dev := if d.noBuf f true then d.ethCount f.mac 23 1 else d.mgmtTake f.mac g

/-- An LLDP frame. -/
def Dev.rxLldp (d : Dev) (f : Frame) : Dev :=
  d.rxMgmt f (fun d => match lldpWake f.payload with
    | some t => d.lldpTake f.mac t
    | none => d)

/-- Whether an IP header passes check 11: its form, its IPv4 checksum, its EtherType and its IPv6 Next Header. -/
def ipOk (f : Frame) (i : IpHdr) : Bool :=
  i.ok && (i.v6 || i.sum.toNat == IpHdr.check i (Frame.ipLen f)) && (i.v6 == (f.etherType == 0x86DD)) && (!i.v6 || i.proto == 17 || i.proto == 58)

/-- Whether a UDP header passes check 14: over IPv4 a checksum of 0 means that none was sent. -/
def udpOk (f : Frame) (i : IpHdr) (u : UdpHdr) : Bool :=
  u.ok && (if u.sum = 0 then !i.v6 else u.sum.toNat == udpCheck i u f.payload)

/-- An IP frame at interface `k` (checks 11 to 18): the interface that takes it, if the transport does. -/
def Dev.rxIp (d : Dev) (k : Nat) (f : Frame) : Dev × Option Nat :=
  let m := f.mac
  match f.ip with
  | none => (d.ethCount m 19 1, none)
  | some i =>
    if !ipOk f i then (d.ethCount m 19 1, none)
    else if i.dst ≠ d.lifIp k ∧ !(i.v6 && i.dst == solNode (d.lifIp k)) then (d.relay k f i, none)
    else if i.proto ≠ 17 ∧ i.proto ≠ (if i.v6 then 58 else 1) then (d.ethCount m 20 1, none)
    else if i.proto ≠ 17 then (d.rxMgmt f (fun d => d.icmpTake k f.src i f.payload), none)
    else match f.udp with
      | none => (d.ethCount m 21 1, none)
      | some u =>
        if !udpOk f i u then (d.ethCount m 21 1, none)
        else if u.dport ≠ d.lifPort k then (d.ethCount m 22 1, none)
        else if d.noBuf f false then (d.ethCount m 23 1, none)
        else ((d.ethCount m 0 1).ethCount m 1 f.length, some k)

/-- A frame for the interfaces that its destination reaches (checks 8 to 18). -/
def Dev.rxLif (d : Dev) (f : Frame) (l : List Nat) : Dev × Option Nat :=
  match d.msecRx f l with
  | (.inl c, d) => (d.ethCount f.mac c 1, none)
  | (.inr k, d) =>
    if !d.vidOk k f.tag then (d.ethCount f.mac 12 1, none)
    else if f.etherType = 0x0806 then (d.rxMgmt f (fun d => d.arpTake k f.payload), none)
    else if f.etherType = 0x88CC then (d.rxLldp f, none)
    else if f.etherType = 0x0800 ∨ f.etherType = 0x86DD then d.rxIp k f
    else (d.ethCount f.mac 18 1, none)

/-- A frame to the nearest bridge, which is no interface's (checks 10 to 17). -/
def Dev.rxBridge (d : Dev) (f : Frame) : Dev :=
  let m := f.mac
  if f.sec.isSome then d.ethCount m 18 1
  else if f.etherType = 0x88CC then d.rxLldp f
  else if f.etherType = 0x0806 then d.rxMgmt f id
  else if f.etherType = 0x0800 ∨ f.etherType = 0x86DD then
    d.ethCount m (match f.ip with
      | some i => if ipOk f i then 12 else 19
      | none => 19) 1
  else d.ethCount m 18 1

/-- Checks 3 to 18. -/
def Dev.rxChecks (d : Dev) (f : Frame) : Dev × Option Nat :=
  let m := f.mac
  if f.length < 64 then (d.ethCount m 7 1, none)
  else if d.fld (R.ethMacCfg m) 40 27 < f.length then (d.ethCount m 8 1, none)
  else if !f.fcsOk then (d.ethCount m 9 1, none)
  else if f.sec.isNone ∧ f.etherType = 0x8808 ∧ f.macCtl = 1 then (d.pauseTake m (f.pauseTimes.headD 0).toNat, none)
  else if f.sec.isNone ∧ f.etherType = 0x8808 ∧ f.macCtl = 0x101 then
    (d.pfcTake m (BitVec.ofNat 8 (beNat (sliceB f.payload 0 2))) f.pauseTimes, none)
  else if f.dst = lldpMac then (d.rxBridge f, none)
  else match d.lifsFor f with
    | [] => (d.ethCount m 12 1, none)
    | l => d.rxLif f l

/-! ## Transport (R332) -/

/-- The ACK with RST that refuses a frame, whose sequence it echoes (R326); the UDP port it goes to is not stated. -/
def Dev.sendRst (d : Dev) (k : Nat) (f : Frame) (h : PHdr) (code : Status) : Dev :=
  match f.ip, f.udp with
  | some i, some u =>
    let op := hasFl h.fl flOpen
    let r := d.free
    let gen := if hasFl h.fl flMgmt then 0 else d.gen (Fin.ofNat 16 h.part)
    let data := ackPayload 0 (BitVec.ofNat 32 h.seq) 0 gen code [] []
    let a := ackHdr h.tenant h.srcPart (if hasFl h.fl flMgmt then 0 else h.part) 0 0 h.flow (flRst + (if op then flOpen else 0)) data.length
      (d.armEpoch (Fin.ofNat 16 h.tenant)) (d.layEpoch (Fin.ofNat 16 h.tenant))
    let sp := BitVec.ofNat 16 (49152 + (h.flow * d.paths + h.seq % d.paths) % 16384)
    let cls := Frame.cls f
    let d := r.2
    let fr := d.udpFrame k cls f.src i.src sp (if op then u.sport else BitVec.ofNat 16 r.1.toNat) (paldalBytes a data)
    (if d.lifMax k < fr.length then d else { d with txq := d.txq ++ [⟨k, cls, false, none, fr⟩] }).tpCount 16
  | _, _ => d

/-- Opcodes executed in sequence order (R322). -/
def opOrdered (op : Nat) : Bool := [1, 2, 3, 4, 7, 8, 0xB, 0xD, 0xF].contains op

/-- Targets of operations (R322): 0 a partition, 1 the management island, 2 either, 3 neither. -/
def opTarget (op : Nat) : Nat :=
  if op = 3 ∨ op = 4 ∨ op = 0xF then 2
  else if op = 7 ∨ op = 8 ∨ op = 0xB ∨ op = 0xD ∨ op = 0xE then 1
  else if op = 0xC then 3
  else 0

/-- Checks 11 to 13 of R332, with R382 and R430; `own` says that an owner interface received the request. -/
def Dev.reqCheck (d : Dev) (own : Bool) (op : Nat) (epchk : Bool) (r : Req) : Option Status :=
  firstOf
    [ refuseIf (d.plinth && !(r.mgmt && (op == 7 || op == 8 || op == 0xD))) St.plinthMode,
      refuseIf (own && !r.mgmt) St.noPermission,
      refuseIf (!r.mgmt && d.fenced r.part) St.partitionReset,
      refuseIf (!r.mgmt && !d.holds r.tenant r.part) St.noPermission,
      refuseIf ((op == 7 || op == 8) && !d.ownerFlow r.flow) St.noPermission,
      refuseIf (epchk && (r.armEp != d.armEpoch r.tenant || r.layEp != d.layEpoch r.tenant)) St.epochStale,
      refuseIf (opTarget op == 3 || (opTarget op == 0 && r.mgmt) || (opTarget op == 1 && !r.mgmt)) St.badDescriptor ]

/-- Executes an operation (check 14 and 15 of R332). -/
def State.opRun (s : State) (op : Nat) (r : Req) : State :=
  match op with
  | 1 => s.onDev (fun d => d.enqueue r)
  | 2 => s.onDev (fun d => d.doorbell r)
  | 3 => s.onDev (fun d => d.mboxWriteOp r)
  | 4 => s.onDev (fun d => d.mboxReadOp r)
  | 5 => s.onDev (fun d => d.winRead r)
  | 6 => s.onDev (fun d => d.winWrite r)
  | 7 => s.onDev (fun d => d.regRead r)
  | 8 => s.regWrite r
  | 9 => s.onDev (fun d => d.segArrive r false true)
  | 0xA => s.onDev (fun d => d.segArrive r true true)
  | 0xB => s.onDev (fun d => d.journalRead r)
  | 0xD => s.attestAny r
  | 0xE => s.onDev (fun d => d.faultReport r)
  | 0xF => s.onDev (fun d => d.closeTake r)
  | _ => s

/-- A request that runs, or is refused by checks 11 to 13. -/
def State.reqDo (s : State) (own : Bool) (op : Nat) (epchk : Bool) (r : Req) : State :=
  match s.dev.reqCheck own op epchk r with
  | some c => s.onDev (fun d => d.refuseReq r op c)
  | none => s.opRun op r

/-- A RESP frame (R322, R323). -/
def Dev.respDo (d : Dev) (n op : Nat) (l : List Byte) : Dev :=
  let seq := BitVec.ofNat 32 (leAt l 0 4)
  match d.flow n with
  | none => d
  | some f =>
    if (f.request seq).isNone then d.replyStale f seq
    else if op = 0x11 then d.nackTake n seq (BitVec.ofNat 8 (leAt l 4 1))
    else if op = 5 then d.readTake n seq (leAt l 8 8) (l.drop 16)
    else d

/-- Inserts a sequence in order. -/
def seqIns (a : BitVec 32) : List (BitVec 32) → List (BitVec 32)
  | [] => [a]
  | b :: t => if seqLt a b then a :: b :: t else b :: seqIns a t

/-- Sequences that follow what has been received in order become so too; operations held for them run (R327). -/
def State.rxAdvance (s : State) (n : Nat) : Nat → State
  | 0 => s
  | k + 1 =>
    match s.dev.flow n with
    | none => s
    | some f =>
      if !f.rxAbove.contains f.rxNext then s
      else
        let run := f.rxHeld.find? (fun e => e.2.2.seq == f.rxNext)
        let f' := { f with rxNext := f.rxNext + 1, rxAbove := f.rxAbove.erase f.rxNext, rxHeld := f.rxHeld.filter (fun e => e.2.2.seq != f.rxNext) }
        let s := s.onDev (fun d => d.setFlow n f')
        (match run with
          | some e => s.reqDo false e.1.toNat e.2.1 e.2.2
          | none => s).rxAdvance n k

/-- The ACK after a sequence, where R327 asks for one at once. -/
def Dev.ackAfter (d : Dev) (n : Nat) (urgent : Bool) : Dev :=
  match d.flow n with
  | none => d
  | some f =>
    let f := { f with ackDue := f.ackDue + 1 }
    let d := d.setFlow n f
    if urgent || decide (Nat.max 1 (d.fld R.tpCfg 43 40) ≤ f.ackDue) || d.fld R.tpCfg 39 32 == 0 then d.ackNow n else d

/-- A request that is dropped unacknowledged, so that its sender sends it again: a mirror record whose CRC is wrong (R265), a segment without a slot
(R227). -/
def Dev.notTaken (d : Dev) (op : Nat) (r : Req) : Bool :=
  (op == 6 && d.mirrorDrops r) || (op == 9 && d.segNoSlot r false) || (op == 0xA && d.segNoSlot r true)

/-- A sequenced frame on flow `n` (checks 9 to 15); `own` says that an owner interface received it. A request that checks 11 to 13 refuse is
answered at once, an ordered one that waits for earlier sequences passes them again when it runs. -/
def State.seqTake (s : State) (own : Bool) (n : Nat) (h : PHdr) (r : Req) : State :=
  match s.dev.flow n with
  | none => s
  | some f =>
    let seq := r.seq
    let resp := hasFl h.fl flResp
    let epchk := hasFl h.fl 4
    if !seqLt seq f.rxLimit then s.onDev (fun d => d.tpCount 7)
    else if seqLt seq f.rxNext || f.rxAbove.contains seq then
      s.onDev (fun d => ((d.setFlow n { f with rxEcho := seq }).tpCount 8).ackNow n)
    else if !resp ∧ (s.dev.reqCheck own h.op epchk r).isNone ∧ s.dev.notTaken h.op r then s
    else
      let inOrder := seq == f.rxNext
      let hold := !inOrder && !resp && (opOrdered h.op || hasFl h.fl flFence) && (s.dev.reqCheck own h.op epchk r).isNone
      if hold && decide (64 ≤ f.rxHeld.length) then s.onDev (fun d => d.tpCount 9)
      else
        let f' := if inOrder then { f with rxNext := seq + 1 } else { f with rxAbove := seqIns seq f.rxAbove }
        let f' := if hold then { f' with rxHeld := f'.rxHeld ++ [(BitVec.ofNat 6 h.op, epchk, r)] } else f'
        let s := s.onDev (fun d => d.setFlow n { f' with rxEcho := seq })
        let s := if hold then s else if resp then s.onDev (fun d => d.respDo n h.op r.payload) else s.reqDo own h.op epchk r
        (s.rxAdvance n f.rxAbove.length).onDev (fun d => d.ackAfter n (!inOrder || !f.rxAbove.isEmpty))

/-- What an acknowledgement's payload says (R326). -/
def ackOf (d : Dev) (n : Nat) (h : PHdr) (l : List Byte) : AckMsg :=
  let ns := Nat.min 8 (leAt l 0xD 1)
  let nc := Nat.min 16 (leAt l 0xE 1)
  let echo := BitVec.ofNat 32 (leAt l 4 4)
  let sent := match d.flow n with
    | some f => (f.unacked.find? (fun (r : TxRec) => r.seq == echo)).map TxRec.sentAt
    | none => none
  { flow := n, ackv := hasFl h.fl flAckv, cumAck := BitVec.ofNat 32 h.ack, rst := hasFl h.fl flRst, isOpen := hasFl h.fl flOpen,
    limit := BitVec.ofNat 32 (leAt l 0 4), echo := echo, peerFlow := BitVec.ofNat 16 (leAt l 8 2), peerGen := BitVec.ofNat 12 (leAt l 0xA 2),
    status := BitVec.ofNat 8 (leAt l 0xC 1),
    sacks := (List.range ns).map (fun k => (BitVec.ofNat 32 (leAt l (16 + 8 * k) 4), BitVec.ofNat 32 (leAt l (20 + 8 * k) 4))),
    credits := (List.range nc).map (fun k =>
      let w := leAt l (16 + 8 * ns + 8 * k) 8
      (BitVec.ofNat 12 (w / 2 ^ 52), BitVec.ofNat 16 (w / 2 ^ 32), BitVec.ofNat 32 w)),
    armEp := BitVec.ofNat 32 h.arm,
    rtt := d.ethCycle - sent.getD d.ethCycle }

/-- The endpoint that a header names. -/
def PHdr.target (h : PHdr) : EndPt := if hasFl h.fl flMgmt then .mgmt else .part (Fin.ofNat 16 h.part)

/-- Whether a frame that interface `k` received may act on a flow: the tenant's of the interface (R383); on an owner interface a request is answered
by check 12, and everything else reaches the management island alone (R382). -/
def Dev.flowFits (d : Dev) (k : Nat) (h : PHdr) (f : Flow) : Bool :=
  match d.lifTenant k with
  | some t => f.tenant == t
  | none => (h.op != 0x10 && !hasFl h.fl flResp) || f.ep == .mgmt

/-- The flow that a frame without OPEN names, or the one that an ACK with RST ends (R332, checks 6 and below). -/
def Dev.flowNamed (d : Dev) (k : Nat) (h : PHdr) (src : Ip) : Option (Nat × Flow) :=
  if h.op = 0x10 ∧ hasFl h.fl flRst ∧ !hasFl h.fl flOpen then
    d.flows.find? (fun (e : Nat × Flow) => e.2.peerIp == src && e.2.established && e.2.peerFlow.toNat == h.flow && d.flowFits k h e.2)
  else match d.flow h.flow with
    | some f => if f.peerIp != src || !d.flowFits k h f || (h.op == 0x10 && hasFl h.fl flRst && f.established) then none else some (h.flow, f)
    | none => none

/-- The flow that an OPEN request opened before (R324, log entry 104). -/
def Dev.flowOpened (d : Dev) (k : Nat) (h : PHdr) (t : TenantId) (src : Ip) (sport : BitVec 16) : Option (Nat × Flow) :=
  d.flows.find? (fun (e : Nat × Flow) => e.2.accepted && e.2.tenant == t && e.2.ownerIf == (d.lifTenant k).isNone && e.2.peerIp == src && e.2.peerPort == sport
    && e.2.peerFlow.toNat == h.flow && e.2.ep == h.target && e.2.firstSeq == BitVec.ofNat 32 h.seq)

/-- Check 7. A frame on a flow which the peer opened carries the target partition's generation; on one that this module opened it carries the
PEER_GEN that both directions of the flow carry (R324, R405; log entry 132). -/
def Dev.genBad (d : Dev) (f : Flow) (h : PHdr) : Bool :=
  !(h.op == 0x10 && hasFl h.fl flRst) && !hasFl h.fl flMgmt
    && (if f.accepted then h.gen != d.gen (Fin.ofNat 16 h.part) else f.established && h.gen != f.peerGen.toNat)

/-- A frame that checks 6 or 7 turn away. -/
def Dev.turnAway (d : Dev) (k cnt : Nat) (f : Frame) (h : PHdr) : Dev :=
  let d := d.tpCount cnt
  if hasFl h.fl flResp ∧ h.op ≠ 0x10 then
    (if hasFl h.fl flMgmt then d else d.bump (R.prstStatus (Fin.ofNat 16 h.part)) 15 0 1)
  else if h.op = 0x10 then d
  else d.sendRst k f h St.generationStale

/-- The request that a frame carries. -/
def reqOf (n : Nat) (t : TenantId) (src : Ip) (h : PHdr) (l : List Byte) : Req :=
  { flow := n, tenant := t, part := Fin.ofNat 16 h.part, srcPart := BitVec.ofNat 4 h.srcPart, mgmt := hasFl h.fl flMgmt, src := src,
    seq := BitVec.ofNat 32 h.seq, qw := BitVec.ofNat 14 h.qw, armEp := BitVec.ofNat 32 h.arm, layEp := BitVec.ofNat 32 h.lay, payload := l }

/-- An OPEN request (R324): the flow that it opened before, or a new context. -/
def State.openTake (s : State) (k : Nat) (t : TenantId) (f : Frame) (src : Ip) (sport : BitVec 16) (h : PHdr) (l : List Byte) : State :=
  let d := s.dev
  let own := (d.lifTenant k).isNone
  match d.flowOpened k h t src sport with
  | some e => s.seqTake own e.1 h (reqOf e.1 t src h l)
  | none =>
    match (if d.overQuota t k then none else d.freeFlow) with
    | none => s.onDev (fun d => (d.tpCount 22).sendRst k f h St.queueFull)
    | some n =>
      let gen := match h.target with
        | .part p => d.gen p
        | .mgmt => 0
      let fl := { d.newFlow t h.target k (Frame.cls f) src sport f.src (BitVec.ofNat 4 h.srcPart) false (BitVec.ofNat 32 h.seq) with
        peerFlow := BitVec.ofNat 16 h.flow, peerGen := BitVec.ofNat 12 gen, established := true, accepted := true, announce := true }
      (s.onDev (fun d => (d.putFlow n fl).tpCount 13)).seqTake own n h (reqOf n t src h l)

/-- The window an acknowledgement in a sequenced frame opens. -/
def Dev.ackvTake (d : Dev) (n : Nat) (h : PHdr) : Dev :=
  if hasFl h.fl flAckv then (d.ackCum n (BitVec.ofNat 32 h.ack) none).pump n else d

/-- A frame on a flow that it names (checks 7 to 15). -/
def State.flowTake (s : State) (k n : Nat) (t : TenantId) (f : Frame) (src : Ip) (h : PHdr) (l : List Byte) (fl : Flow) : State :=
  if s.dev.genBad fl h then s.onDev (fun d => d.turnAway k 5 f h)
  else
    let s := if hasFl h.fl flOpen then s else s.onDev (fun d => d.setFlow n { fl with announce := false })
    if h.op = 0x10 then s.onDev (fun d => d.ackTake (ackOf d n h l))
    else
      let own := (s.dev.lifTenant k).isNone
      if hasFl h.fl flResp then (s.seqTake own n h (reqOf n t src h l)).onDev (fun d => d.ackvTake n h)
      else (s.onDev (fun d => d.ackvTake n h)).seqTake own n h (reqOf n t src h l)

/-- Checks 2 to 15 of R332, for a frame that interface `k` took. -/
def State.tpChecks (s : State) (k : Nat) (f : Frame) : State :=
  match f.ip, f.udp with
  | some i, some u =>
    let h := decHdr f.payload
    let l := f.payload.drop 32
    if h.crc ≠ paldalCrc h (l.take h.len) then s.onDev (fun d => d.tpCount 1)
    else if h.op = 0 ∨ 0x11 < h.op ∨ f.payload.length ≠ h.len + 32 ∨ 9082 < h.len ∨ h.rsv ≠ 0 ∨ h.rsv3 ≠ 0 ∨ h.fl % 2 = 1 then s.onDev (fun d => d.tpCount 2)
    else
      let t : TenantId := Fin.ofNat 16 h.tenant
      if (match s.dev.lifTenant k with
          | some x => x != t
          | none => false) then s.onDev (fun d => d.tpCount 3)
      else if hasFl h.fl flOpen ∧ h.op ≠ 0x10 ∧ !hasFl h.fl flResp then s.openTake k t f i.src u.sport h l
      else match s.dev.flowNamed k h i.src with
        | none => s.onDev (fun d => d.turnAway k 4 f h)
        | some (n, fl) => s.flowTake k n t f i.src h l fl
  | _, _ => s

/-- Frames in order. -/
def State.eachFrame (s : State) (l : List TxFrame) : State := l.foldl (fun s t => s.tpChecks t.lif t.frame) s

/-- The flow number at this module that a frame concerns, for the receive injectors (R340). -/
def Dev.injFlow (d : Dev) (k : Nat) (h : PHdr) (src : Ip) (sport : BitVec 16) : Option Nat :=
  ((if hasFl h.fl flOpen ∧ h.op ≠ 0x10 then d.flowOpened k h (Fin.ofNat 16 h.tenant) src sport else d.flowNamed k h src)).map (·.1)

/-- A frame that interface `k` hands to the transport (check 1, then the receive injectors). -/
def State.tpRx (s : State) (k : Nat) (f : Frame) : State :=
  let h := decHdr f.payload
  if h.ver ≠ 1 then s.onDev (fun d => d.tpCount 0)
  else
    match (match f.ip, f.udp with
      | some i, some u => s.dev.injFlow k h i.src u.sport
      | _, _ => none) with
    | none => s.tpChecks k f
    | some n =>
      let r := s.dev.injFrame n 2 ⟨k, Frame.cls f, false, some n, f⟩
      ({ s with dev := r.2 } : State).eachFrame r.1

/-! ## The MAC (R302) -/

/-- Checks 3 and on, then the transport. -/
def State.rxFrame (s : State) (f : Frame) : State :=
  let r := s.dev.rxChecks f
  match r.2 with
  | some k => ({ s with dev := r.1 } : State).tpRx k f
  | none => { s with dev := r.1 }

/-- One more received frame has passed the frame held for reordering; it follows when DEPTH have. -/
def State.rxPass (s : State) (m : Fin 8) : State :=
  let s := s.onDev (fun d => d.sidePass m true)
  match (s.dev.mac m).side with
  | some (g, 0, true) => (s.onDev (fun d => d.modMac m (fun x => { x with side := none }))).rxFrame g.frame
  | _ => s

/-- A frame that passes the receive injection of its MAC (check 2, R312). -/
def State.rxInject (s : State) (f : Frame) : State :=
  let m := f.mac
  let r := s.dev.injSelect m 2 (Frame.cls f)
  let s : State := { s with dev := r.2 }
  if !r.1 then (s.rxFrame f).rxPass m
  else match s.dev.fld (R.ethInj m) 61 59 with
    | 0 => s.onDev (fun d => d.ethCount m 28 1)
    | 1 => ((s.onDev (fun d => d.ethCount m 29 1)).rxFrame (s.dev.injCorrupt m f)).rxPass m
    | _ =>
      if (s.dev.mac m).side.isSome then (s.rxFrame f).rxPass m
      else s.onDev (fun d => (d.ethCount m 30 1).modMac m (fun x => { x with side := some (⟨0, Frame.cls f, false, none, f⟩, d.fld (R.ethInj m) 32 29, true) }))

/-- A frame whose last byte arrives (R302): only while the MAC hears its partner. The codewords before it are counted (R299, R314). -/
def State.arrive (s : State) (f : Frame) : State :=
  let m := f.mac
  if !s.dev.hears m then s
  else
    let s := s.onDev (fun d => (d.ethCount m 4 f.fecCorr).ethCount m 5 f.fecUncorr)
    if f.fecBad then s.onDev (fun d => d.ethCount m 6 1) else s.rxInject f

/-- ETH_RX_FRAME (R302, R332). -/
def execEthRxFrame (fr : Frame) (s : State) : Res := onState (fun s => s.arrive fr) s

/-- ETH_TX_PICK (R308): in loop, the frame that starts returns to the MAC's own receive path (R312). -/
def State.pick (s : State) (m : Fin 8) : State :=
  let s := s.onDev (fun d => d.txPick m)
  match (if s.dev.loops m then (s.dev.mac m).onWire else none) with
  | some f => (s.onDev (fun d => d.modMac m (fun x => { x with onWire := none }))).rxInject f
  | none => s

/-- ETH_TX_PICK (R308): The idle MAC picks the next frame by tier and deficit round robin. -/
def execEthTxPick (m : Fin 8) (s : State) : Res := onState (fun s => s.pick m) s

/-- INJ_REORDER_RELEASE (R312): the time limit of a frame held for reordering. -/
def execInjReorderRelease (m : Fin 8) (s : State) : Res :=
  onState (fun s =>
    match (s.dev.mac m).side with
    | some (f, _, true) => (s.onDev (fun d => d.modMac m (fun x => { x with side := none }))).rxFrame f.frame
    | some (f, _, false) => s.onDev (fun d => d.modMac m (fun x => { x with side := some (f, 0, false) }))
    | none => s) s

/-- TP_INJ_REORDER_RELEASE (R340). -/
def execTpInjReorderRelease (n : Fin 4) (s : State) : Res :=
  onState (fun s =>
    let st := s.dev.inj[n]
    let s := s.onDev (fun d => { d with inj := d.inj.set n { st with side := none } })
    match st.side with
    | some (t, _, true) => s.tpChecks t.lif t.frame
    | some (t, _, false) => s.onDev (fun d => { d with txq := d.txq ++ [t] })
    | none => s) s

end Sys2Proof.Machine
end

