-- ==== Sys2Proof/Machine/Scalar.lean ====
section
/-! DEFINITION. The scalar cores (R109 to R116) and the scalar class they execute themselves (R124). -/
namespace Sys2Proof.Machine

/-! ## Words, registers, outcomes -/

/-- A word of layout K whose fields are 0 but for those its opcode uses, and without a second word (R121, R122). -/
def kBare (w : KWord) (rd rs1 rs2 func imm : Bool) : Bool :=
  !w.x && (rd || w.rd == 0) && (rs1 || w.rs1 == 0) && (rs2 || w.rs2 == 0) && (func || w.func == 0) && (imm || w.imm == 0)

/-- An integer register: x0 reads as 0 (R124). -/
def Core.getX (c : Core) (r : BitVec 5) : W64 := if r = 0 then 0 else Tab.get (fun _ => 0) c.x r.toNat

/-- Writes an integer register: a write of x0 is ignored (R124). -/
def Core.putX (c : Core) (r : BitVec 5) (v : W64) : Core := if r = 0 then c else { c with x := Tab.set (fun _ => 0) c.x r.toNat v }

def Core.getF (c : Core) (r : BitVec 5) : F32 := Tab.get (fun _ => 0) c.f r.toNat
def Core.putF (c : Core) (r : BitVec 5) (v : F32) : Core := { c with f := Tab.set (fun _ => 0) c.f r.toNat v }

/-- The agent that a core's access is (R440). -/
def coreAgent (p : PartId) (c : Core) : Agent := if firmwarePc p c.pc then .partFw p else .tenantCode p

/-- What a scalar instruction does: it stops its core with a status and an address, waits in place, or goes on. -/
inductive SOp where
  | stop (c : Status) (addr : Nat)
  | stay (s : State)
  | go (s : State)

/-- A released core that does not wait takes the instruction at its program counter, of two words where `two` says so (R109, R113). -/
def State.scalar (s : State) (p : PartId) (c : Fin 6) (two wordOk : Bool) (body : Core → SOp) : State :=
  let d := s.dev
  let x := d.core p c
  if !bit (d.reg (R.scalarStatus p)) (34 + c.val) || x.wait.isSome then s
  else match d.fetchBad p x.pc (if two then 2 else 1) with
    | some code => s.onDev (fun d => d.coreFault p c code x.pc)
    | none =>
      if !wordOk then s.onDev (fun d => d.coreFault p c St.badDescriptor 0)
      else match body x with
        | .stop code a => s.onDev (fun d => d.coreFault p c code a)
        | .stay s' => s'
        | .go s' => s'

/-- The core goes on with new contents. -/
def State.coreGo (s : State) (p : PartId) (c : Fin 6) (x : Core) : SOp := .go (s.onDev (fun d => d.setCore p c x))

/-! ## Arithmetic (R124) -/

/-- IALU's operations in the order R124 lists them, on signed words but for sltu; a shift by 64 or more gives the value `free`, which is not
stated. -/
def ialu (f : BitVec 8) (a b free : W64) : Option W64 :=
  let sh := fun (v : W64) => if b.toNat < 64 then v else free
  match f.toNat with
  | 0 => some (a + b)
  | 1 => some (a - b)
  | 2 => some (a &&& b)
  | 3 => some (a ||| b)
  | 4 => some (a ^^^ b)
  | 5 => some (sh (a <<< b.toNat))
  | 6 => some (sh (a >>> b.toNat))
  | 7 => some (sh (a.sshiftRight b.toNat))
  | 8 => some (a * b)
  | 9 => some (BitVec.ofInt 64 (a.toInt * b.toInt / 2 ^ 64))
  | 10 => some (if a.toInt ≤ b.toInt then a else b)
  | 11 => some (if b.toInt ≤ a.toInt then a else b)
  | 12 => some (BitVec.ofNat 64 (b2n (decide (a.toInt < b.toInt))))
  | 13 => some (BitVec.ofNat 64 (b2n (decide (a.toNat < b.toNat))))
  | _ => none

/-- An integer operation of a core: a free value is drawn where a shift's amount is 64 or more. -/
def State.ialuGo (s : State) (p : PartId) (c : Fin 6) (x : Core) (w : KWord) (b : W64) : SOp :=
  let open' := decide (5 ≤ w.func.toNat) && decide (w.func.toNat ≤ 7) && decide (64 ≤ b.toNat)
  let r := if open' then s.dev.free else (0, s.dev)
  match ialu w.func (x.getX w.rs1) b r.1 with
  | none => .stop St.badDescriptor 0
  | some v => ({ s with dev := r.2 } : State).coreGo p c ((x.putX w.rd v).step 1)

/-- IALU (R124). -/
def execIalu (p : PartId) (core : Fin 6) (w : KWord) (s : State) : Res :=
  onState (fun s => s.scalar p core w.x (kBare w true true true true false) (fun x => s.ialuGo p core x w (x.getX w.rs2))) s

/-- IALUI (R124). -/
def execIalui (p : PartId) (core : Fin 6) (w : KWord) (s : State) : Res :=
  onState (fun s => s.scalar p core w.x (kBare w true true false true true) (fun x => s.ialuGo p core x w (w.imm.signExtend 64))) s

/-- FP32 operations in the order R124 lists them: add to max. -/
def falu (f : Nat) (a b d : F32) : F32 :=
  match f with
  | 0 => f32Add a b
  | 1 => f32Sub a b
  | 2 => f32Mul a b
  | 3 => f32Fma a b d
  | 4 => f32Div a b
  | 5 => f32Sqrt a
  | 6 => f32Min a b
  | _ => f32Max a b

/-- An FP32 value as a signed 64-bit integer, to nearest even; `none` for NaN, infinities and values outside the range, whose result is not
stated. -/
def f32ToInt (a : F32) : Option W64 :=
  match ofF32 a with
  | .fin n m e =>
    let k := roundAt .rne m e 0
    let i : Int := if n then -(k : Int) else k
    if -(2 ^ 63 : Int) ≤ i ∧ i < 2 ^ 63 then some (BitVec.ofInt 64 i) else none
  | _ => none

/-- FALU (R124): codes 0 to 7 are the arithmetic of `falu`, 8 compares, 9 converts f to x, 10 converts x to f. -/
def execFalu (p : PartId) (core : Fin 6) (w : KWord) (s : State) : Res :=
  onState (fun s => s.scalar p core w.x (kBare w true true true true false) (fun x =>
    let a := x.getF w.rs1
    let b := x.getF w.rs2
    let f := w.func.toNat
    if f < 8 then s.coreGo p core ((x.putF w.rd (falu f a b (x.getF w.rd))).step 1)
    else if f = 8 then s.coreGo p core ((x.putX w.rd (Config.faluCompare a b)).step 1)
    else if f = 9 then
      (match f32ToInt a with
        | some v => s.coreGo p core ((x.putX w.rd v).step 1)
        | none =>
          let r := s.dev.free
          ({ s with dev := r.2 } : State).coreGo p core ((x.putX w.rd r.1).step 1))
    else if f = 10 then s.coreGo p core ((x.putF w.rd (f32OfInt (x.getX w.rs1).toInt)).step 1)
    else .stop St.badDescriptor 0)) s

/-- LI (R124). -/
def execLi (p : PartId) (core : Fin 6) (w : KWord) (s : State) : Res :=
  onState (fun s => s.scalar p core w.x (w.x && w.rs1 == 0 && w.rs2 == 0 && w.func == 0 && w.imm == 0) (fun x =>
    s.coreGo p core ((x.putX w.rd w.w1).step 2))) s

/-! ## Memory (R110, R124) -/

/-- RS1 + IMM32. -/
def Core.addr (c : Core) (w : KWord) : Nat := (c.getX w.rs1 + w.imm.signExtend 64).toNat

/-- Control space in the device address map (R145). -/
def ctlBase : Nat := 0x030000000000
def inCtl (a : Nat) : Bool := decide (ctlBase ≤ a) && decide (a < ctlBase + 0x200000)

/-- Why a core may not access control space at an address, by an access of `n` bytes (R6). -/
def ctlSize (a n : Nat) : Option Status := refuseIf (n != 8 || a % 8 != 0) St.badDescriptor

/-- The sizes of LD and ST. -/
def sizeOk (w : KWord) : Bool := w.func == 1 || w.func == 2 || w.func == 4 || w.func == 8

/-- A read of a register by a core: its word, or what refuses it. -/
def State.coreRead (s : State) (p : PartId) (c : Fin 6) (x : Core) (w : KWord) (a : Nat) : SOp :=
  match s.dev.regGet (coreAgent p x) (a - ctlBase) with
  | .inl (v, d) => ({ s with dev := d } : State).coreGo p c ((x.putX w.rd v).step 1)
  | .inr code => .stop code a

/-- A write of a register by a core; a refused one stops it (R113). -/
def State.coreWrite (s : State) (p : PartId) (c : Fin 6) (x : Core) (a : Nat) (v : W64) : SOp :=
  match s.regPut (coreAgent p x) (a - ctlBase) v with
  | (_, some code) => .stop code a
  | (s', none) => .go (s'.onDev (fun d => d.setCore p c ((d.core p c).step 1)))

/-- An uncorrectable error that a core reads is noted (R163, R164). -/
def State.coreEcc (s : State) (p : PartId) (c : Fin 6) (a : Nat) : SOp :=
  .stay (s.onDev (fun d => (d.eccMark a).coreFault p c St.eccUncorrected a))

/-- LD (R124): control-space registers too, a mailbox at its address among them (R359). Bytes of a channel that takes no request are waited for
(R165). -/
def execLd (p : PartId) (core : Fin 6) (w : KWord) (s : State) : Res :=
  onState (fun s => s.scalar p core w.x (kBare w true true false true true && sizeOk w) (fun x =>
    let a := x.addr w
    let n := w.func.toNat
    if inCtl a then
      (match ctlSize a n with
        | some code => .stop code a
        | none => s.coreRead p core x w a)
    else match s.dev.coreReach p (firmwarePc p x.pc) false a n with
      | some code => .stop code a
      | none =>
        if s.dev.chanBusy a (a + n) then .stay s
        else if s.dev.bad a n then s.coreEcc p core a
        else s.coreGo p core ((x.putX w.rd (BitVec.ofNat 64 (s.dev.rdN a n))).step 1))) s

/-- ST (R124): a store to a full mailbox stops the core (R361), one to a channel that takes no request waits (R165). -/
def execSt (p : PartId) (core : Fin 6) (w : KWord) (s : State) : Res :=
  onState (fun s => s.scalar p core w.x (kBare w false true true true true && sizeOk w) (fun x =>
    let a := x.addr w
    let n := w.func.toNat
    let v := x.getX w.rs2
    if inCtl a then
      (match ctlSize a n with
        | some code => .stop code a
        | none => s.coreWrite p core x a v)
    else match s.dev.coreReach p (firmwarePc p x.pc) true a n with
      | some code => .stop code a
      | none =>
        if s.dev.chanBusy a (a + n) then .stay s
        else .go (s.onDev (fun d => (d.wr a (leBytes n v.toNat)).setCore p core (x.step 1))))) s

/-- AMO (R124): FUNC 0 adds, 1 swaps, on 8 bytes of the scalar local memory or the bonded SRAM. -/
def execAmo (p : PartId) (core : Fin 6) (w : KWord) (s : State) : Res :=
  onState (fun s => s.scalar p core w.x (kBare w true true true true false) (fun x =>
    let a := (x.getX w.rs1).toNat
    let kind := match s.dev.region a with
      | some r => r.kind == 1 || r.kind == 3
      | none => false
    if 1 < w.func.toNat then .stop St.badDescriptor 0
    else match firstOf [s.dev.coreReach p (firmwarePc p x.pc) true a 8, refuseIf (!kind) St.noPermission] with
      | some code => .stop code a
      | none =>
        if s.dev.bad a 8 then s.coreEcc p core a
        else
          let old : W64 := BitVec.ofNat 64 (s.dev.rdN a 8)
          let new := if w.func = 0 then old + x.getX w.rs2 else x.getX w.rs2
          .go (s.onDev (fun d => (d.wr a (leBytes 8 new.toNat)).setCore p core ((x.putX w.rd old).step 1))))) s

/-- FENCE (R124): a core's loads and stores complete in order here. -/
def execFence (p : PartId) (core : Fin 6) (w : KWord) (s : State) : Res :=
  onState (fun s => s.scalar p core w.x (kBare w false false false false false) (fun x => s.coreGo p core (x.step 1))) s

/-- CTLR (R124, R110). -/
def execCtlr (p : PartId) (core : Fin 6) (w : KWord) (s : State) : Res :=
  onState (fun s => s.scalar p core w.x (kBare w true true false false true) (fun x =>
    let a := x.addr w
    if inCtl a && inBlock p (a - ctlBase) then s.coreRead p core x w a else .stop St.noPermission a)) s

/-- CTLW (R124, R110). -/
def execCtlw (p : PartId) (core : Fin 6) (w : KWord) (s : State) : Res :=
  onState (fun s => s.scalar p core w.x (kBare w false true true false true) (fun x =>
    let a := x.addr w
    if inCtl a && inBlock p (a - ctlBase) then s.coreWrite p core x a (x.getX w.rs2) else .stop St.noPermission a)) s

/-! ## Control (R124) -/

/-- IMM32 words from an address. -/
def wordsFrom (pc : Nat) (w : KWord) : Nat := wrapInt 48 ((pc : Int) + 8 * w.imm.toInt)

/-- BCC's conditions in the order R124 lists them. -/
def bccMet (f : BitVec 8) (a b : W64) : Option Bool :=
  match f.toNat with
  | 0 => some (a == b)
  | 1 => some (a != b)
  | 2 => some (decide (a.toInt < b.toInt))
  | 3 => some (decide (b.toInt ≤ a.toInt))
  | 4 => some (decide (a.toNat < b.toNat))
  | 5 => some (decide (b.toNat ≤ a.toNat))
  | _ => none

/-- BCC (R124). -/
def execBcc (p : PartId) (core : Fin 6) (w : KWord) (s : State) : Res :=
  onState (fun s => s.scalar p core w.x (kBare w false true true true true) (fun x =>
    match bccMet w.func (x.getX w.rs1) (x.getX w.rs2) with
    | none => .stop St.badDescriptor 0
    | some b => s.coreGo p core (if b then { x with pc := wordsFrom x.pc w } else x.step 1))) s

/-- JAL (R124). -/
def execJal (p : PartId) (core : Fin 6) (w : KWord) (s : State) : Res :=
  onState (fun s => s.scalar p core w.x (kBare w true false false false true) (fun x =>
    s.coreGo p core { x.putX w.rd (BitVec.ofNat 64 (x.pc + 8)) with pc := wordsFrom x.pc w })) s

/-- JALR (R124). -/
def execJalr (p : PartId) (core : Fin 6) (w : KWord) (s : State) : Res :=
  onState (fun s => s.scalar p core w.x (kBare w true true false false true) (fun x =>
    s.coreGo p core { x.putX w.rd (BitVec.ofNat 64 (x.pc + 8)) with pc := x.addr w })) s

/-! ## Waits (R110, R129, R361) -/

/-- What refuses a wait: a selection that does not exist or that the core may not reach. -/
def Dev.swaitBad (d : Dev) (p : PartId) (x : Core) (f : Nat) (n : W64) : Option Status :=
  match f with
  | 0 => refuseIf (decide (512 ≤ n.toNat)) St.badDescriptor
  | 1 | 2 => refuseIf (decide (320 ≤ n.toNat) || !d.agentMay (coreAgent p x) false (R.mbox n.toNat)) St.noPermission
  | 3 | 4 | 5 => refuseIf (decide (1024 ≤ n.toNat)) St.badDescriptor
  | _ => some St.badDescriptor

/-- SWAIT (R110, R124). -/
def execSwait (p : PartId) (core : Fin 6) (w : KWord) (s : State) : Res :=
  onState (fun s => s.scalar p core w.x (kBare w false true true true false) (fun x =>
    let n := x.getX w.rs1
    let v := x.getX w.rs2
    match s.dev.swaitBad p x w.func.toNat n with
    | some code => .stop code 0
    | none =>
      if s.dev.swaitMet p w.func.toNat n v then s.coreGo p core (x.step 1)
      else s.coreGo p core { x with wait := some (w.func, n, v) })) s

/-- SWAIT_PASS (R110, R129). -/
def execSwaitPass (p : PartId) (core : Fin 6) (s : State) : Res := onDev (fun d => d.swaitTry p core) s

/-! ## The port and releases (R111, R113, R124) -/

/-- Whether an instruction word may go to the scalar issue port: its opcode is defined and its class open to the port (R122, R123). -/
def portOpen (p : PartId) (c : Fin 6) (w0 : W64) : Bool :=
  (coreCmd (bits w0 63 56) p c w0 0).isNone && (portCmd (bits w0 63 56) p (.s c) w0 0).isSome

/-- ISSR (R111, R124): a full port queue stalls the core; a word that the port refuses by its opcode stops it (R113). The rest of R122 is
checked when the port takes the word from the queue (DESIGN CHOICE, log entry 119). -/
def execIssr (p : PartId) (core : Fin 6) (w : KWord) (s : State) : Res :=
  onState (fun s => s.scalar p core w.x (kBare w false true true false false) (fun x =>
    let a := x.getX w.rs1
    if !portOpen p core a then .stop St.badDescriptor 0
    else if 8 ≤ x.queue.length then .stay s
    else s.coreGo p core (x.push 1 a (if bit a 55 then some (x.getX w.rs2) else none)))) s

/-- Releases a core: one that stopped goes on at its instruction; where a core that has not run since the partition's reset starts is not
stated, beyond its scalar local memory. -/
def Dev.coreRelease (d : Dev) (p : PartId) (c : Fin 6) : Dev :=
  let o := R.scalarStatus p
  if bit (d.reg o) (34 + c.val) then d
  else if bit (d.reg o) (22 + c.val) then (d.setFlag o (22 + c.val) false).setFlag o (34 + c.val) true
  else
    let r := d.free
    (r.2.setCore p c { r.2.core p c with pc := slmBase p + r.1.toNat % 0x8000 * 8 }).setFlag o (34 + c.val) true

/-- RELEASE (R124): core 0 only. -/
def execRelease (p : PartId) (core : Fin 6) (w : KWord) (s : State) : Res :=
  onState (fun s => s.scalar p core w.x (kBare w false false false false true && bits w.imm 31 6 == 0 && core == 0) (fun x =>
    .go (s.onDev (fun d => (d.setCore p core (x.step 1)).each ((List.finRange 6).filter (fun c => bit w.imm c.val)) (fun d c => d.coreRelease p c))))) s

end Sys2Proof.Machine
end

