-- ==== Sys2Proof/Machine/Dispatch.lean ====
section
/-! DEFINITION. The dispatch of every command to its meaning, one arm per constructor of `Instr`. -/
namespace Sys2Proof.Machine

def exec (i : Instr) (s : State) : Host.Outcome State Fault Refusal :=
  match i with
  | .nop p q w => Sys2Proof.Machine.execNop p q w s
  | .halt p q w => Sys2Proof.Machine.execHalt p q w s
  | .br p q w => Sys2Proof.Machine.execBr p q w s
  | .loop p q w => Sys2Proof.Machine.execLoop p q w s
  | .endl p q w => Sys2Proof.Machine.execEndl p q w s
  | .setpw p q w => Sys2Proof.Machine.execSetpw p q w s
  | .setstep p q w => Sys2Proof.Machine.execSetstep p q w s
  | .setepoch p q w => Sys2Proof.Machine.execSetepoch p q w s
  | .dload p q w => Sys2Proof.Machine.execDload p q w s
  | .dstep p q w => Sys2Proof.Machine.execDstep p q w s
  | .wait p q w => Sys2Proof.Machine.execWait p q w s
  | .waitPass p q => Sys2Proof.Machine.execWaitPass p q s
  | .post p q w => Sys2Proof.Machine.execPost p q w s
  | .postTakesEffect p q => Sys2Proof.Machine.execPostTakesEffect p q s
  | .remotePostArrive p ctr amount => Sys2Proof.Machine.execRemotePostArrive p ctr amount s
  | .cset p q w => Sys2Proof.Machine.execCset p q w s
  | .mmul p q w => Sys2Proof.Machine.execMmul p q w s
  | .mmulh p q w => Sys2Proof.Machine.execMmulh p q w s
  | .vadd p q w => Sys2Proof.Machine.execVadd p q w s
  | .vsub p q w => Sys2Proof.Machine.execVsub p q w s
  | .vmul p q w => Sys2Proof.Machine.execVmul p q w s
  | .vfma p q w => Sys2Proof.Machine.execVfma p q w s
  | .vmin p q w => Sys2Proof.Machine.execVmin p q w s
  | .vmax p q w => Sys2Proof.Machine.execVmax p q w s
  | .vcmp p q w => Sys2Proof.Machine.execVcmp p q w s
  | .vsel p q w => Sys2Proof.Machine.execVsel p q w s
  | .vdiv p q w => Sys2Proof.Machine.execVdiv p q w s
  | .vsqrt p q w => Sys2Proof.Machine.execVsqrt p q w s
  | .viop p q w => Sys2Proof.Machine.execViop p q w s
  | .vsf p q w => Sys2Proof.Machine.execVsf p q w s
  | .vsfd p q w => Sys2Proof.Machine.execVsfd p q w s
  | .sfload p q w => Sys2Proof.Machine.execSfload p q w s
  | .vred p q w => Sys2Proof.Machine.execVred p q w s
  | .vcvt p q w => Sys2Proof.Machine.execVcvt p q w s
  | .vtkmerge p q w => Sys2Proof.Machine.execVtkmerge p q w s
  | .vacc p q w => Sys2Proof.Machine.execVacc p q w s
  | .vaccTile p input => Sys2Proof.Machine.execVaccTile p input s
  | .vectorSegment p => Sys2Proof.Machine.execVectorSegment p s
  | .vsmxStep p q w => Sys2Proof.Machine.execVsmxStep p q w s
  | .vsmxEnd p q w => Sys2Proof.Machine.execVsmxEnd p q w s
  | .vsmxBwd p q w => Sys2Proof.Machine.execVsmxBwd p q w s
  | .vpool p q w => Sys2Proof.Machine.execVpool p q w s
  | .vunpool p q w => Sys2Proof.Machine.execVunpool p q w s
  | .move p q w => Sys2Proof.Machine.execMove p q w s
  | .mfill p q w => Sys2Proof.Machine.execMfill p q w s
  | .mgather p q w => Sys2Proof.Machine.execMgather p q w s
  | .mscatter p q w => Sys2Proof.Machine.execMscatter p q w s
  | .mput p q w => Sys2Proof.Machine.execMput p q w s
  | .mget p q w => Sys2Proof.Machine.execMget p q w s
  | .crs p q w => Sys2Proof.Machine.execCrs p q w s
  | .cag p q w => Sys2Proof.Machine.execCag p q w s
  | .car p q w => Sys2Proof.Machine.execCar p q w s
  | .ca2a p q w => Sys2Proof.Machine.execCa2a p q w s
  | .cbc p q w => Sys2Proof.Machine.execCbc p q w s
  | .crsh p q w => Sys2Proof.Machine.execCrsh p q w s
  | .ckv p q w => Sys2Proof.Machine.execCkv p q w s
  | .upd p q w => Sys2Proof.Machine.execUpd p q w s
  | .uroute p q w => Sys2Proof.Machine.execUroute p q w s
  | .uload p q w => Sys2Proof.Machine.execUload p q w s
  | .uscal p q w => Sys2Proof.Machine.execUscal p q w s
  | .ialu p core w => Sys2Proof.Machine.execIalu p core w s
  | .ialui p core w => Sys2Proof.Machine.execIalui p core w s
  | .falu p core w => Sys2Proof.Machine.execFalu p core w s
  | .li p core w => Sys2Proof.Machine.execLi p core w s
  | .ld p core w => Sys2Proof.Machine.execLd p core w s
  | .st p core w => Sys2Proof.Machine.execSt p core w s
  | .bcc p core w => Sys2Proof.Machine.execBcc p core w s
  | .jal p core w => Sys2Proof.Machine.execJal p core w s
  | .jalr p core w => Sys2Proof.Machine.execJalr p core w s
  | .amo p core w => Sys2Proof.Machine.execAmo p core w s
  | .swait p core w => Sys2Proof.Machine.execSwait p core w s
  | .swaitPass p core => Sys2Proof.Machine.execSwaitPass p core s
  | .fence p core w => Sys2Proof.Machine.execFence p core w s
  | .ctlr p core w => Sys2Proof.Machine.execCtlr p core w s
  | .ctlw p core w => Sys2Proof.Machine.execCtlw p core w s
  | .issr p core w => Sys2Proof.Machine.execIssr p core w s
  | .release p core w => Sys2Proof.Machine.execRelease p core w s
  | .pairStart p => Sys2Proof.Machine.execPairStart p s
  | .drain p a => Sys2Proof.Machine.execDrain p a s
  | .wsbWriteStart p e => Sys2Proof.Machine.execWsbWriteStart p e s
  | .wsbFillComplete p e => Sys2Proof.Machine.execWsbFillComplete p e s
  | .gradSlotWrite p c => Sys2Proof.Machine.execGradSlotWrite p c s
  | .collSeg r => Sys2Proof.Machine.execCollSeg r s
  | .heldSegmentRelease n => Sys2Proof.Machine.execHeldSegmentRelease n s
  | .cagSourceReady n => Sys2Proof.Machine.execCagSourceReady n s
  | .collComplete n => Sys2Proof.Machine.execCollComplete n s
  | .crshStart n => Sys2Proof.Machine.execCrshStart n s
  | .kvBlock r => Sys2Proof.Machine.execKvBlock r s
  | .ckvRotationSend n => Sys2Proof.Machine.execCkvRotationSend n s
  | .ckvSlotFree n => Sys2Proof.Machine.execCkvSlotFree n s
  | .collWatchdogExpire n => Sys2Proof.Machine.execCollWatchdogExpire n s
  | .seqStart a p q => Sys2Proof.Machine.execSeqStart a p q s
  | .seqHaltReq a p q => Sys2Proof.Machine.execSeqHaltReq a p q s
  | .seqFaultClear a p q => Sys2Proof.Machine.execSeqFaultClear a p q s
  | .seqPcWrite a p q v => Sys2Proof.Machine.execSeqPcWrite a p q v s
  | .syncCntWrite a p n v => Sys2Proof.Machine.execSyncCntWrite a p n v s
  | .memPinWrite a p v => Sys2Proof.Machine.execMemPinWrite a p v s
  | .wsbConfigWrite a p e ctrl v => Sys2Proof.Machine.execWsbConfigWrite a p e ctrl v s
  | .wsbRefadj a p e v => Sys2Proof.Machine.execWsbRefadj a p e v s
  | .memTrainReq a p v => Sys2Proof.Machine.execMemTrainReq a p v s
  | .retrainDone p c cycles => Sys2Proof.Machine.execRetrainDone p c cycles s
  | .retrainAbandon p c => Sys2Proof.Machine.execRetrainAbandon p c s
  | .updOpenClear a p c => Sys2Proof.Machine.execUpdOpenClear a p c s
  | .updFaultClear a p c => Sys2Proof.Machine.execUpdFaultClear a p c s
  | .updWatchWrite a p v => Sys2Proof.Machine.execUpdWatchWrite a p v s
  | .armInstallGo a p v => Sys2Proof.Machine.execArmInstallGo a p v s
  | .armInstallApply t => Sys2Proof.Machine.execArmInstallApply t s
  | .collNoiseWrite a p v => Sys2Proof.Machine.execCollNoiseWrite a p v s
  | .mbPolicyWrite a p v => Sys2Proof.Machine.execMbPolicyWrite a p v s
  | .plogRingWrite a p mirror v => Sys2Proof.Machine.execPlogRingWrite a p mirror v s
  | .plogHeadWrite a p v => Sys2Proof.Machine.execPlogHeadWrite a p v s
  | .plogRefusedClear a p v => Sys2Proof.Machine.execPlogRefusedClear a p v s
  | .restoreGo a p v => Sys2Proof.Machine.execRestoreGo a p v s
  | .maqGo a p v => Sys2Proof.Machine.execMaqGo a p v s
  | .queueLoad a p v => Sys2Proof.Machine.execQueueLoad a p v s
  | .queueDisable a p v => Sys2Proof.Machine.execQueueDisable a p v s
  | .queueReenable a p v => Sys2Proof.Machine.execQueueReenable a p v s
  | .ciWrite a p q v => Sys2Proof.Machine.execCiWrite a p q v s
  | .qretire a p v => Sys2Proof.Machine.execQretire a p v s
  | .mboxRegWrite a k v => Sys2Proof.Machine.execMboxRegWrite a k v s
  | .mboxRegRead a k => Sys2Proof.Machine.execMboxRegRead a k s
  | .prstReq a p v => Sys2Proof.Machine.execPrstReq a p v s
  | .prstHeartbeat a p => Sys2Proof.Machine.execPrstHeartbeat a p s
  | .prstReady a p => Sys2Proof.Machine.execPrstReady a p s
  | .wdogCfgWrite a p v => Sys2Proof.Machine.execWdogCfgWrite a p v s
  | .rubExpEnable a t v => Sys2Proof.Machine.execRubExpEnable a t v s
  | .jrnExportEnable a v => Sys2Proof.Machine.execJrnExportEnable a v s
  | .tenantTableWrite a t r v => Sys2Proof.Machine.execTenantTableWrite a t r v s
  | .scrubComplete p => Sys2Proof.Machine.execScrubComplete p s
  | .tenantProvision a t => Sys2Proof.Machine.execTenantProvision a t s
  | .dbgOpen a => Sys2Proof.Machine.execDbgOpen a s
  | .dbgClose a => Sys2Proof.Machine.execDbgClose a s
  | .debugLimitExpire => Sys2Proof.Machine.execDebugLimitExpire s
  | .fwProgram a v => Sys2Proof.Machine.execFwProgram a v s
  | .fwVerify a v => Sys2Proof.Machine.execFwVerify a v s
  | .fwActivate a v => Sys2Proof.Machine.execFwActivate a v s
  | .handoverTrialExpire => Sys2Proof.Machine.execHandoverTrialExpire s
  | .microcodeSwap p => Sys2Proof.Machine.execMicrocodeSwap p s
  | .microcodeSwapTimeout p => Sys2Proof.Machine.execMicrocodeSwapTimeout p s
  | .fwTables a v => Sys2Proof.Machine.execFwTables a v s
  | .fwCommit a v => Sys2Proof.Machine.execFwCommit a v s
  | .fwSvn a v => Sys2Proof.Machine.execFwSvn a v s
  | .fwPlinth a v => Sys2Proof.Machine.execFwPlinth a v s
  | .fwExit a v => Sys2Proof.Machine.execFwExit a v s
  | .fwDiag a v errors => Sys2Proof.Machine.execFwDiag a v errors s
  | .bootOkWrite a => Sys2Proof.Machine.execBootOkWrite a s
  | .healthyWrite a => Sys2Proof.Machine.execHealthyWrite a s
  | .serdesReq a v => Sys2Proof.Machine.execSerdesReq a v s
  | .serdesAdaptDone lane ok micros => Sys2Proof.Machine.execSerdesAdaptDone lane ok micros s
  | .msecCommit a => Sys2Proof.Machine.execMsecCommit a s
  | .ethPortCfgWrite a v => Sys2Proof.Machine.execEthPortCfgWrite a v s
  | .ethMacCfgWrite a m v => Sys2Proof.Machine.execEthMacCfgWrite a m v s
  | .ethInjWrite a m v => Sys2Proof.Machine.execEthInjWrite a m v s
  | .tpInjWrite a n v => Sys2Proof.Machine.execTpInjWrite a n v s
  | .lifCfgWrite a k macReg v => Sys2Proof.Machine.execLifCfgWrite a k macReg v s
  | .winCtrlWrite a t w v => Sys2Proof.Machine.execWinCtrlWrite a t w v s
  | .rlyCfgWrite a k v => Sys2Proof.Machine.execRlyCfgWrite a k v s
  | .pwrCapWrite a v => Sys2Proof.Machine.execPwrCapWrite a v s
  | .indCtrlWrite a v => Sys2Proof.Machine.execIndCtrlWrite a v s
  | .alertCtrlWrite a v => Sys2Proof.Machine.execAlertCtrlWrite a v s
  | .regWriteGeneric a off v => Sys2Proof.Machine.execRegWriteGeneric a off v s
  | .rcRead a off => Sys2Proof.Machine.execRcRead a off s
  | .enqueue r => Sys2Proof.Machine.execEnqueue r s
  | .doorbell r => Sys2Proof.Machine.execDoorbell r s
  | .mboxWrite r => Sys2Proof.Machine.execMboxWrite r s
  | .mboxRead r => Sys2Proof.Machine.execMboxRead r s
  | .winRead r => Sys2Proof.Machine.execWinRead r s
  | .winWrite r => Sys2Proof.Machine.execWinWrite r s
  | .regRead r => Sys2Proof.Machine.execRegRead r s
  | .regWrite r => Sys2Proof.Machine.execRegWrite r s
  | .journalRead r => Sys2Proof.Machine.execJournalRead r s
  | .completeWindowClose p q => Sys2Proof.Machine.execCompleteWindowClose p q s
  | .attestReport r => Sys2Proof.Machine.execAttestReport r s
  | .attestOwnerResponse r => Sys2Proof.Machine.execAttestOwnerResponse r s
  | .attestClaim r => Sys2Proof.Machine.execAttestClaim r s
  | .attestRotation r => Sys2Proof.Machine.execAttestRotation r s
  | .attestIdentityCert r => Sys2Proof.Machine.execAttestIdentityCert r s
  | .faultReport r => Sys2Proof.Machine.execFaultReport r s
  | .close r => Sys2Proof.Machine.execClose r s
  | .ack m => Sys2Proof.Machine.execAck m s
  | .nack m => Sys2Proof.Machine.execNack m s
  | .retransmitTimeout flow => Sys2Proof.Machine.execRetransmitTimeout flow s
  | .ackDelayExpire flow => Sys2Proof.Machine.execAckDelayExpire flow s
  | .flowIdleClose flow => Sys2Proof.Machine.execFlowIdleClose flow s
  | .ccBaseRestart flow => Sys2Proof.Machine.execCcBaseRestart flow s
  | .ethRxFrame fr => Sys2Proof.Machine.execEthRxFrame fr s
  | .arpRequest k senderMac senderIp => Sys2Proof.Machine.execArpRequest k senderMac senderIp s
  | .neighborSolicitation k senderMac senderIp => Sys2Proof.Machine.execNeighborSolicitation k senderMac senderIp s
  | .echoRequest k senderMac senderIp data => Sys2Proof.Machine.execEchoRequest k senderMac senderIp data s
  | .lldpReceive m partnerRxTw => Sys2Proof.Machine.execLldpReceive m partnerRxTw s
  | .lldpSend m => Sys2Proof.Machine.execLldpSend m s
  | .pauseReceive m quanta => Sys2Proof.Machine.execPauseReceive m quanta s
  | .pauseTimerExpire m => Sys2Proof.Machine.execPauseTimerExpire m s
  | .pfcReceive m enable quanta => Sys2Proof.Machine.execPfcReceive m enable quanta s
  | .pfcTimerExpire m cls => Sys2Proof.Machine.execPfcTimerExpire m cls s
  | .pfcSend m cls => Sys2Proof.Machine.execPfcSend m cls s
  | .pfcRepeat m cls => Sys2Proof.Machine.execPfcRepeat m cls s
  | .ethTxPick m => Sys2Proof.Machine.execEthTxPick m s
  | .lpiEnter m => Sys2Proof.Machine.execLpiEnter m s
  | .lpiWake m => Sys2Proof.Machine.execLpiWake m s
  | .linkUp m => Sys2Proof.Machine.execLinkUp m s
  | .linkDown m => Sys2Proof.Machine.execLinkDown m s
  | .injReorderRelease m => Sys2Proof.Machine.execInjReorderRelease m s
  | .tpInjReorderRelease n => Sys2Proof.Machine.execTpInjReorderRelease n s
  | .patrolScrub p word found => Sys2Proof.Machine.execPatrolScrub p word found s
  | .driftCheck p c => Sys2Proof.Machine.execDriftCheck p c s
  | .seqWatchdogExpire p q => Sys2Proof.Machine.execSeqWatchdogExpire p q s
  | .scalarWatchdogExpire p core => Sys2Proof.Machine.execScalarWatchdogExpire p core s
  | .heartbeatExpire p => Sys2Proof.Machine.execHeartbeatExpire p s
  | .unitWatchdogExpire p u q => Sys2Proof.Machine.execUnitWatchdogExpire p u q s
  | .unitHangExpire p u => Sys2Proof.Machine.execUnitHangExpire p u s
  | .mgmtCoreWatchdog core => Sys2Proof.Machine.execMgmtCoreWatchdog core s
  | .fenceComplete p => Sys2Proof.Machine.execFenceComplete p s
  | .rubbingSourceExpire p => Sys2Proof.Machine.execRubbingSourceExpire p s
  | .rubbingBudgetExpire p => Sys2Proof.Machine.execRubbingBudgetExpire p s
  | .rubbingEnd p => Sys2Proof.Machine.execRubbingEnd p s
  | .resetRelease p => Sys2Proof.Machine.execResetRelease p s
  | .reintegrationExpire p => Sys2Proof.Machine.execReintegrationExpire p s
  | .incidentSend n => Sys2Proof.Machine.execIncidentSend n s
  | .incidentClose n => Sys2Proof.Machine.execIncidentClose n s
  | .standbyOn => Sys2Proof.Machine.execStandbyOn s
  | .standbyLoss => Sys2Proof.Machine.execStandbyLoss s
  | .pwrEnAssert => Sys2Proof.Machine.execPwrEnAssert s
  | .pwrEnDeassert => Sys2Proof.Machine.execPwrEnDeassert s
  | .vinFault ovp => Sys2Proof.Machine.execVinFault ovp s
  | .modResetAssert lowCycles => Sys2Proof.Machine.execModResetAssert lowCycles s
  | .moduleResetRelease => Sys2Proof.Machine.execModuleResetRelease s
  | .bootDeadlineExpire => Sys2Proof.Machine.execBootDeadlineExpire s
  | .plinthBreakoutTry => Sys2Proof.Machine.execPlinthBreakoutTry s
  | .thermalTrip sn => Sys2Proof.Machine.execThermalTrip sn s
  | .powerControlPeriod pin vin dieMax dramMax => Sys2Proof.Machine.execPowerControlPeriod pin vin dieMax dramMax s
  | .inletUpdate inlet => Sys2Proof.Machine.execInletUpdate inlet s
  | .smbStatus => Sys2Proof.Machine.execSmbStatus s
  | .smbReadVin => Sys2Proof.Machine.execSmbReadVin s
  | .smbReadPin => Sys2Proof.Machine.execSmbReadPin s
  | .smbReadInlet => Sys2Proof.Machine.execSmbReadInlet s
  | .smbReadDie => Sys2Proof.Machine.execSmbReadDie s
  | .smbCap write => Sys2Proof.Machine.execSmbCap write s
  | .smbFruPtr ptr => Sys2Proof.Machine.execSmbFruPtr ptr s
  | .smbFruRead => Sys2Proof.Machine.execSmbFruRead s
  | .smbAlertResponse => Sys2Proof.Machine.execSmbAlertResponse s
  | .supplyDroop p cycles => Sys2Proof.Machine.execSupplyDroop p cycles s
  | .internalCheckFailure p site => Sys2Proof.Machine.execInternalCheckFailure p site s
  | .oldestCommandWaitExpire p q => Sys2Proof.Machine.execOldestCommandWaitExpire p q s
  | .partnerLowPowerIdle m enter => Sys2Proof.Machine.execPartnerLowPowerIdle m enter s
  | .prbsError m lane => Sys2Proof.Machine.execPrbsError m lane s
  | .jtagAccess => Sys2Proof.Machine.execJtagAccess s

end Sys2Proof.Machine
end

