-- ==== Sys2Proof/Safety.lean ====
section
/-! DEFINITION. The words in which statements about the machine are made: when a port takes a word and what its stream's advance is, what
a command leaves as it was, and the invariants. -/
namespace Sys2Proof.Machine

/-! ## Frames -/

/-- No register changed but those of the list. -/
def regsBut (l : List Nat) (s t : State) : Prop := ∀ o, o ∉ l → t.dev.reg o = s.dev.reg o

/-- No partition's inner state changed but partition `p`'s. -/
def partsBut (p : PartId) (s t : State) : Prop := ∀ u, u ≠ p → t.dev.part u = s.dev.part u

/-- Nothing changed but registers of the list. -/
def onlyRegs (l : List Nat) (s t : State) : Prop := t = { s with dev := { s.dev with regs := t.dev.regs } } ∧ regsBut l s t

/-- Nothing changed but registers of the list and the inner state of partition `p`. -/
def onlyPart (l : List Nat) (p : PartId) (s t : State) : Prop :=
  t = { s with dev := { s.dev with regs := t.dev.regs, parts := t.dev.parts } } ∧ regsBut l s t ∧ partsBut p s t

/-- Every byte of memory outside `lo` to `hi` - 1 reads as before. -/
def memBut (lo hi : Nat) (s t : State) : Prop := ∀ a, (a < lo ∨ hi ≤ a) → memGet t.dev.mem a = memGet s.dev.mem a

/-! ## Issue -/

/-- A port stands ready for an instruction: a sequencer that runs or is held and may fetch its words, or the scalar issue port's turn with that
instruction at the head of the core's queue; the partition is not fenced (R111, R118, R119, R403). -/
def Dev.takes (d : Dev) (p : PartId) (q : Port) (w0 : W64) (w1 : Option W64) : Bool :=
  match q with
  | .f => d.seqReady p .f && fetchOk p (d.pc p .f) w1.isSome
  | .b => d.seqReady p .b && fetchOk p (d.pc p .b) w1.isSome
  | .u => d.seqReady p .u && fetchOk p (d.pc p .u) w1.isSome
  | .s c => d.portHead p c w0 w1

/-- The registers that an issue changes: SEQx_PC and SEQx_STATUS of a sequencer, none of the scalar issue port. -/
def issueRegs (p : PartId) (q : Port) : List Nat :=
  match q.seq? with
  | some x => [R.seqPc p x, R.seqStatus p x]
  | none => []

/-- A port has moved past an instruction of `len` words: SEQx_PC, ISSUED and STATE of a sequencer (R138, R139, R140), the core's queue and the
turn of the scalar issue port (R111). -/
def movedPast (p : PartId) (q : Port) (len : Nat) (s t : State) : Prop :=
  match q with
  | .f => seqMoved .f
  | .b => seqMoved .b
  | .u => seqMoved .u
  | .s c => ((t.dev.part p).cores[c]).queue = ((s.dev.part p).cores[c]).queue.tail ∧ (t.dev.part p).coreRR = c.val + 1
where
  seqMoved (x : Seq) : Prop :=
    t.dev.pc p x = (s.dev.pc p x + 8 * len) % 2 ^ 48
    ∧ t.dev.fld (R.seqStatus p x) 27 1 = (s.dev.fld (R.seqStatus p x) 27 1 + 1) % 2 ^ 27
    ∧ t.dev.seqState p x = (if (s.dev.port p x.port).haltReq then 4 else 1)

/-- A port's captured state behind an instruction that changes none of it: a HALT_REQ has been served and no pair is open (R117, R138, R172). -/
def PortSt.past (y : PortSt) (q : Port) : PortSt := if q.seq?.isSome then { y with haltReq := false, pairCand := none } else y

/-- A partition's inner state behind an instruction of port `q` that leaves `y` as the port's captured state and touches nothing else: the word
has left the core's port queue, and no pair is open (R111, R117, R172). -/
def Part.past (x : Part) (q : Port) (y : PortSt) : Part :=
  let z := { x.setPort q y with a0 := x.a0.unpair q }
  match q with
  | .s c => { z with cores := x.cores.set c { x.cores[c] with queue := (x.cores[c]).queue.tail, pairCand := none }, coreRR := c.val + 1 }
  | _ => z

/-! ## Instructions that enter a unit's queue -/

/-- The vector instructions with what each asks and touches at issue (R123, class 0x3 to 0x5). -/
def vectorRows (p : PartId) (q : Port) (w : TWord) : List (Instr × VForm) :=
  [ (.vadd p q w, binForm 0x30 w), (.vsub p q w, binForm 0x31 w), (.vmul p q w, binForm 0x32 w), (.vfma p q w, vfmaForm p w),
    (.vmin p q w, binForm 0x34 w), (.vmax p q w, binForm 0x35 w), (.vcmp p q w, vcmpForm p w), (.vsel p q w, vselForm p w),
    (.vdiv p q w, binForm 0x38 w), (.vsqrt p q w, vsqrtForm p w), (.viop p q w, viopForm p w), (.vsf p q w, vsfForm p w),
    (.vsfd p q w, vsfdForm p w), (.sfload p q w, sfloadForm p w), (.vred p q w, vredForm p w), (.vcvt p q w, vcvtForm p w),
    (.vtkmerge p q w, vtkmergeForm p w), (.vacc p q w, vaccForm p w), (.vsmxStep p q w, vsmxStepForm p w),
    (.vsmxEnd p q w, vsmxEndForm p w), (.vsmxBwd p q w, vsmxBwdForm p w), (.vpool p q w, vpoolForm p w),
    (.vunpool p q w, vunpoolForm p w) ]

/-- The move instructions with what each asks and touches at issue (R123, class 0x6). -/
def moveRows (p : PartId) (q : Port) (w : TWord) : List (Instr × MForm) :=
  [ (.move p q w, moveForm p w), (.mfill p q w, mfillForm p w), (.mgather p q w, mgatherForm p w), (.mscatter p q w, mscatterForm p w),
    (.mput p q w, mputForm p w), (.mget p q w, mgetForm p w) ]

/-- The collectives with what each asks and captures at issue (R123, class 0x7). -/
def collRows (p : PartId) (q : Port) (w : TWord) : List (Instr × CForm) :=
  [ (.crs p q w, crsForm p q w), (.cag p q w, cagForm p q w), (.car p q w, carForm p q w), (.ca2a p q w, ca2aForm p q w),
    (.cbc p q w, cbcForm p q w), (.crsh p q w, crshForm p q w), (.ckv p q w, ckvForm p q w) ]

/-- The port's scoreboard holds one instruction more, the last, of a class and with extents (R134). -/
def inFlight (p : PartId) (q : Port) (cls : UCls) (e : List Extent × List Extent) (s t : State) : Prop :=
  (t.dev.port p q).flights = (s.dev.port p q).flights ++ [⟨(s.dev.port p q).nextId, cls, s.dev.portPc p q, e.1, e.2⟩]

/-! ## Registers -/

/-- The module runs and an agent reaches a register for writing (R440, R453, R430). -/
def Dev.accepts (d : Dev) (a : Agent) (off : Nat) : Prop := d.running = true ∧ d.agentMay a true off = true

/-- Nothing changed but registers of the list, one of which reads the given fields. -/
def setsFields (o : Nat) (l : List (Nat × Nat × Nat)) (s t : State) : Prop :=
  onlyRegs [o] s t ∧ (∀ f ∈ l, t.dev.fld o f.1 f.2.1 = f.2.2)
    ∧ ∀ i, i < 64 → (∀ f ∈ l, ¬(f.2.1 ≤ i ∧ i ≤ f.1)) → bit (t.dev.reg o) i = bit (s.dev.reg o) i

/-! ## Scalar cores -/

/-- A released core that does not wait stands at an instruction of so many words that it may fetch (R109, R110, R113). -/
def Dev.coreRuns (d : Dev) (p : PartId) (c : Fin 6) (x : Core) (words : Nat) : Prop :=
  d.core p c = x ∧ bit (d.reg (R.scalarStatus p)) (34 + c.val) = true ∧ x.wait = none ∧ x.pc % 8 = 0
    ∧ d.coreReach p (firmwarePc p x.pc) false x.pc (8 * words) = none

/-- Nothing changed but one core of a partition, and the count of free values drawn. -/
def onlyCore (p : PartId) (c : Fin 6) (y : Core) (s t : State) : Prop :=
  t = { s with dev := { s.dev with parts := t.dev.parts, freeCount := t.dev.freeCount } } ∧ partsBut p s t
    ∧ t.dev.part p = { s.dev.part p with cores := (s.dev.part p).cores.set c y }

/-- A core has gone on to `pc` with `v` in integer register `rd`; a write of x0 is ignored (R124). -/
def wroteX (rd : BitVec 5) (v : W64) (pc : Nat) (x y : Core) : Prop :=
  y.pc = pc ∧ (∀ r, y.getX r = if r = rd ∧ rd ≠ 0 then v else x.getX r) ∧ y.f = x.f ∧ y.wait = none ∧ y.queue = x.queue
    ∧ y.pairCand = x.pairCand

/-- A core has gone on to the next word with `v` in FP32 register `rd`. -/
def wroteF (rd : BitVec 5) (v : F32) (x y : Core) : Prop :=
  y.pc = x.pc + 8 ∧ (∀ r, y.getF r = if r = rd then v else x.getF r) ∧ y.x = x.x ∧ y.wait = none ∧ y.queue = x.queue
    ∧ y.pairCand = x.pairCand

/-- A state with another's memory and its error marks. -/
def withMem (s t : State) : State := { s with dev := { s.dev with mem := t.dev.mem, poison := t.dev.poison } }

/-! ## Register rows -/

/-- The commands that are a write of one register, with the register's offset (R440, R453). -/
def regRows (a : Agent) (p : PartId) (x : Seq) (ten : TenantId) (m : Fin 8) (j : Fin 4) (n : Nat) (v : W64) : List (Instr × Nat) :=
  [ (.seqStart a p x, R.seqCtrl p x), (.seqHaltReq a p x, R.seqCtrl p x), (.seqFaultClear a p x, R.seqStatus p x),
    (.seqPcWrite a p x v, R.seqPc p x), (.syncCntWrite a p (Fin.ofNat 512 n) v, R.syncCnt p (n % 512)), (.memPinWrite a p v, R.memPin p),
    (.memTrainReq a p v, R.memTrain p), (.updWatchWrite a p v, R.updWatch p), (.collNoiseWrite a p v, R.collNoise p),
    (.mbPolicyWrite a p v, R.mbPolicy p), (.queueLoad a p v, R.queueCfg p), (.queueDisable a p v, R.queueCfg p),
    (.queueReenable a p v, R.queueCfg p), (.qretire a p v, R.qRetire p), (.mboxRegWrite a (Fin.ofNat 320 n) v, R.mbox (n % 320)),
    (.plogHeadWrite a p v, R.plogPos p), (.restoreGo a p v, R.restoreCtrl p), (.maqGo a p v, R.maqCtrl p), (.armInstallGo a p v, R.armInstall p),
    (.wdogCfgWrite a p v, R.wdogCfg p), (.rubExpEnable a ten v, R.rubExp ten), (.jrnExportEnable a v, R.jrnExport),
    (.rlyCfgWrite a (Fin.ofNat 64 n) v, R.rlyCfg (n % 64)), (.pwrCapWrite a v, R.pwrCap), (.indCtrlWrite a v, R.indCtrl),
    (.alertCtrlWrite a v, R.alertCtrl), (.ethPortCfgWrite a v, R.ethPortCfg), (.ethMacCfgWrite a m v, R.ethMacCfg m),
    (.ethInjWrite a m v, R.ethInj m), (.tpInjWrite a j v, R.tpInj j), (.msecCommit a, R.msecCommit), (.serdesReq a v, R.serdesCtrl),
    (.dbgOpen a, R.dbgCtrl), (.dbgClose a, R.dbgCtrl) ]

/-! ## Invariants -/

/-- The module is off: no rail is on and nothing of its memory is left (R461). -/
def Dev.isOff (d : Dev) : Prop := d.boot.ph = .off ∧ d.boot.pwrGood = false ∧ d.mem = []

/-- What fuses and flash keep: SVN counters within 64 (R386), the reason log's eight entries (R427), a start counter of at most 3 (R424, R425). -/
structure State.Inv (s : State) : Prop where
  s1 : s.fuse.svnS1 ≤ 64
  mgmt : s.fuse.svnMgmt ≤ 64
  part : s.fuse.svnPart ≤ 64
  misc : s.fuse.svnMisc ≤ 64
  log : s.flash.log.length ≤ 8
  mirror : s.flash.mirror ≤ 3

end Sys2Proof.Machine
end

