-- ==== Sys2Proof/Certificates/Slice0/Obligations.lean ====
section
/-! DEFINITION. The statements for the provers. -/
open Sys2Proof Sys2Proof.Machine

/-! ## The machine -/

/-- A step runs the command at the front of the queue on the queue's rest. -/
def Obligations.StepRunsFrontCommand : Prop :=
  ∀ (c : Instr) (rest : List Instr) (s : State), s.pending = c :: rest → step s = exec c { s with pending := rest }

/-- The machine in reset: every register at its reset value (R9), every sync counter 0, no sequencer started, no partition fenced, all generation tags
0, no command waiting. Values that fuses and flash give are the model's (log entries 8 to 10, 13). -/
def Obligations.ResetLeavesStoppedMachine : Prop :=
  (∀ o, State.reset.dev.reg o = regReset o)
  ∧ (∀ (p : PartId) (c : Fin 512), State.reset.dev.ctr p c.val = 0)
  ∧ (∀ (p : PartId) (x : Seq), State.reset.dev.seqState p x = 0)
  ∧ (∀ p : PartId, State.reset.dev.fenced p = false ∧ State.reset.dev.gen p = 0)
  ∧ State.reset.pending = []

/-! ## Streams (R123, R128 to R133, R138 to R140) -/

/-- NOP goes on with the next word, HALT halts the stream there, BR goes to the word IMM32 words away (R123, R138). LOOP opens a loop of IMM32 rounds,
or of PW[31:0] rounds with MOD[6], 0 standing for no end, while fewer than four are open (R123, R136); ENDL goes back to the first word of the
innermost loop's body while rounds are left, and else closes the loop. The field of LOOP that its MOD leaves without a meaning is 0 (R122). Nothing
changes but SEQx_PC, SEQx_STATUS and, of the partition's inner state, the loops named, a HALT_REQ that is served and an open pair (R172). -/
def Obligations.StreamControlMovesTheSequencer : Prop :=
  ∀ (p : PartId) (x : Seq) (w : CWord) (s : State) (y : PortSt), s.dev.seqReady p x = true → pcOk p (s.dev.pc p x) = true →
    y = (s.dev.port p x.port).past x.port →
    (w = ⟨false, 0, 0, 0, 0, w.w1⟩ → ∃ t, exec (.nop p x w) s = .next t ∧ movedPast p x.port 1 s t
      ∧ onlyPart [R.seqPc p x, R.seqStatus p x] p s t ∧ t.dev.part p = (s.dev.part p).past x.port y)
    ∧ (w = ⟨false, 0, 0, 0, 0, w.w1⟩ → ∃ t, exec (.halt p x w) s = .next t ∧ t.dev.seqState p x = 4
      ∧ t.dev.pc p x = (s.dev.pc p x + 8) % 2 ^ 48 ∧ onlyPart [R.seqPc p x, R.seqStatus p x] p s t
      ∧ t.dev.part p = (s.dev.part p).past x.port y)
    ∧ (w = ⟨false, 0, 0, 0, w.imm, w.w1⟩ → ∃ t, exec (.br p x w) s = .next t
      ∧ (t.dev.pc p x : Int) = ((s.dev.pc p x : Int) + 8 * w.imm.toInt) % 2 ^ 48
      ∧ onlyPart [R.seqPc p x, R.seqStatus p x] p s t ∧ t.dev.part p = (s.dev.part p).past x.port y)
    ∧ (w.x = false → bits w.mod 5 0 = 0 → w.rsv = 0 → (if bit w.mod 6 then w.imm = 0 else w.pw = 0) → y.loops.length < 4 →
      ∃ t n, exec (.loop p x w) s = .next t ∧ movedPast p x.port 1 s t ∧ onlyPart [R.seqPc p x, R.seqStatus p x] p s t
        ∧ n = (if bit w.mod 6 then bits (y.pwAt w.pw.toNat) 31 0 else w.imm.toNat)
        ∧ t.dev.part p = (s.dev.part p).past x.port { y with
            loops := ⟨s.dev.pc p x + 8, if n = 0 then none else some n⟩ :: y.loops })
    ∧ (w = ⟨false, 0, 0, 0, 0, w.w1⟩ → ∀ l rest, y.loops = l :: rest → l.start < 2 ^ 48 → l.start % 8 = 0 →
      ∃ t loops, exec (.endl p x w) s = .next t ∧ onlyPart [R.seqPc p x, R.seqStatus p x] p s t
        ∧ t.dev.part p = (s.dev.part p).past x.port { y with loops := loops }
        ∧ (l.left = none → t.dev.pc p x = l.start ∧ loops = l :: rest)
        ∧ (∀ n, l.left = some n → 1 < n → t.dev.pc p x = l.start ∧ loops = ⟨l.start, some (n - 1)⟩ :: rest)
        ∧ (∀ n, l.left = some n → n ≤ 1 → t.dev.pc p x = (s.dev.pc p x + 8) % 2 ^ 48 ∧ loops = rest))

/-- SETPW, SETSTEP and SETEPOCH, on a sequencer or on the scalar issue port, write the parameter word, the step and the epochs of their port, the
armature epoch from the second word's upper half, and leave everything else as it was: other parameter words, descriptors, loops, posts and
instructions in flight, every other port, memory and every register but those of the sequencer's advance (R117, R123). -/
def Obligations.PortStateTakesItsSecondWord : Prop :=
  ∀ (p : PartId) (q : Port) (w : CWord) (s : State) (y : PortSt), w.x = true → w.mod = 0 → w.rsv = 0 → w.imm = 0 →
    y = (s.dev.port p q).past q →
    (s.dev.takes p q (encC 0x05 w) (some w.w1) = true →
      ∃ t pw, exec (.setpw p q w) s = .next t ∧ movedPast p q 2 s t ∧ onlyPart (issueRegs p q) p s t
        ∧ t.dev.part p = (s.dev.part p).past q { y with pw := pw }
        ∧ ∀ i, i < 16 → (t.dev.port p q).pwAt i = if i = w.pw.toNat then w.w1 else y.pwAt i)
    ∧ (w.pw = 0 → s.dev.takes p q (encC 0x06 w) (some w.w1) = true →
      ∃ t, exec (.setstep p q w) s = .next t ∧ movedPast p q 2 s t ∧ onlyPart (issueRegs p q) p s t
        ∧ t.dev.part p = (s.dev.part p).past q { y with step := w.w1 })
    ∧ (w.pw = 0 → s.dev.takes p q (encC 0x07 w) (some w.w1) = true →
      ∃ t arm lay, exec (.setepoch p q w) s = .next t ∧ movedPast p q 2 s t ∧ onlyPart (issueRegs p q) p s t
        ∧ t.dev.part p = (s.dev.part p).past q { y with armEp := arm, layEp := lay }
        ∧ arm.toNat = w.w1.toNat / 2 ^ 32 ∧ lay.toNat = w.w1.toNat % 2 ^ 32)

/-- DLOAD copies descriptors of 64 bytes from memory into entries D on, DSTEP advances entries D to D + S1 (R128); nothing else of the
port's captured state changes. DLOAD waits while an earlier instruction still writes its own partition's source or the source's channel
retrains (R134, R165): its stream is then held in STATE 3 with SEQx_PC at it (R119, R140), and the scalar issue port keeps it at the head of
its queue. That an advance of BASE or SCALE_BASE wraps at 48 bits is the model's (DEDUCED, log entry 138). -/
def Obligations.DescriptorsLoadAndStep : Prop :=
  ∀ (p : PartId) (q : Port) (w : TWord) (s : State), w.mod = 0 → w.s3 = 0 → w.d ≠ 0 →
    (∀ a n, w.x = true → w.s1 = 0 → w.s2 = 0 → w.w1.toNat = a → a < 2 ^ 48 → a % 64 = 0 → w.imm.toNat = n → 0 < n → n ≤ 256 →
      w.d.toNat + n ≤ 256 → s.dev.takes p q (encT 0x08 w) (some w.w1) = true →
      s.dev.reachMem p Reach.move false ((a : Int), (a : Int) + 64 * n) = none →
      s.dev.held p q (s.dev.ownExts p [⟨a, a + 64 * n⟩]) [] = false → s.dev.chanBusy a (a + 64 * n) = false → s.dev.bad a (64 * n) = false →
      ∃ t desc, exec (.dload p q w) s = .next t ∧ movedPast p q 2 s t ∧ onlyPart (issueRegs p q) p s t
        ∧ t.dev.part p = (s.dev.part p).past q { (s.dev.port p q).past q with desc := desc }
        ∧ (∀ k, k < n → Tab.get (fun _ => 0) (t.dev.port p q).desc (w.d.toNat + k) = BitVec.ofNat 512 (s.dev.rdN (a + 64 * k) 64))
        ∧ (∀ e, (e < w.d.toNat ∨ w.d.toNat + n ≤ e) →
            Tab.get (fun _ => 0) (t.dev.port p q).desc e = Tab.get (fun _ => 0) (s.dev.port p q).desc e))
    ∧ (∀ a n, w.x = true → w.s1 = 0 → w.s2 = 0 → w.w1.toNat = a → a < 2 ^ 48 → a % 64 = 0 → w.imm.toNat = n → 0 < n → n ≤ 256 →
      w.d.toNat + n ≤ 256 → s.dev.takes p q (encT 0x08 w) (some w.w1) = true →
      s.dev.reachMem p Reach.move false ((a : Int), (a : Int) + 64 * n) = none →
      (s.dev.held p q (s.dev.ownExts p [⟨a, a + 64 * n⟩]) [] = true ∨ s.dev.chanBusy a (a + 64 * n) = true) →
      (∀ c, q = .s c → exec (.dload p q w) s = .next s)
      ∧ (∀ x : Seq, q = x.port → ∃ t, exec (.dload p q w) s = .next t ∧ t.dev.seqState p x = 3 ∧ onlyPart [R.seqStatus p x] p s t
        ∧ t.dev.part p = (s.dev.part p).setPort q { s.dev.port p q with heldWord := some (encT 0x08 w, some w.w1) }))
    ∧ (w.x = false → bits w.s2 7 4 = 0 → w.d.toNat + w.s1.toNat ≤ 255 → s.dev.takes p q (encT 0x09 w) none = true →
      ∃ t desc, exec (.dstep p q w) s = .next t ∧ movedPast p q 1 s t ∧ onlyPart (issueRegs p q) p s t
        ∧ t.dev.part p = (s.dev.part p).past q { (s.dev.port p q).past q with desc := desc }
        ∧ (∀ e, w.d.toNat ≤ e → e ≤ w.d.toNat + w.s1.toNat → ∀ old new pw,
            old = Tab.get (fun _ => 0) (s.dev.port p q).desc e → new = Tab.get (fun _ => 0) (t.dev.port p q).desc e →
            pw = (s.dev.port p q).pwAt (bits w.s2 3 0) →
            (bits new 47 0 : Int) = ((bits old 47 0 : Int) + sext 32 (bits pw 63 32)) % 2 ^ 48
            ∧ (bits new 111 64 : Int) = (if bits old 111 64 = 0 then 0 else ((bits old 111 64 : Int) + sext 32 (bits pw 31 0)) % 2 ^ 48)
            ∧ bits new 431 422 = (bits old 431 422 + bits w.imm 15 8) % 1024
            ∧ bits new 447 432 = (bits old 447 432 + bits w.imm 7 0) % 2 ^ 16
            ∧ bits new 63 48 = bits old 63 48 ∧ bits new 127 112 = bits old 127 112 ∧ bits new 421 128 = bits old 421 128
            ∧ bits new 511 448 = bits old 511 448)
        ∧ (∀ e, (e < w.d.toNat ∨ w.d.toNat + w.s1.toNat < e) →
            Tab.get (fun _ => 0) (t.dev.port p q).desc e = Tab.get (fun _ => 0) (s.dev.port p q).desc e))

/-- A WAIT whose counter has reached its threshold passes, at once or when the counter gets there (R129, R130): the stream goes on, and an
IND wait has advanced its parameter word by the step in VALUE[31:16]. One that has not reached it leaves the stream waiting, with the counter in
SEQx_STATUS (R140). VALUE[15:4] of an IND wait is 0 (R122). -/
def Obligations.WaitsPassAtTheirThreshold : Prop :=
  ∀ (p : PartId) (x : Seq) (w : SWord) (s : State), w.x = false → bits w.mod 3 0 = 0 → w.rsv = 0 →
    ∀ i pw c v, i = bits w.value 3 0 → pw = (s.dev.port p x.port).pwAt i → c = s.dev.ctr p w.ctr.toNat →
      v = (if bit w.mod 4 then BitVec.ofNat 32 pw.toNat else w.value) → (bit w.mod 4 = true → bits w.value 15 4 = 0) →
    let passes := fun (t : State) => ∃ words, movedPast p x.port 1 s t ∧ onlyPart [R.seqPc p x, R.seqStatus p x] p s t
      ∧ t.dev.part p = (s.dev.part p).past x.port { (s.dev.port p x.port).past x.port with pw := words, waiting := none }
      ∧ (bit w.mod 4 = false → (t.dev.port p x.port).pw = (s.dev.port p x.port).pw)
      ∧ (bit w.mod 4 = true →
          bits ((t.dev.port p x.port).pwAt i) 31 0 = (bits pw 31 0 + bits w.value 31 16) % 2 ^ 32
          ∧ bits ((t.dev.port p x.port).pwAt i) 63 32 = bits pw 63 32
          ∧ ∀ j, j < 16 → j ≠ i → (t.dev.port p x.port).pwAt j = (s.dev.port p x.port).pwAt j)
    (s.dev.seqReady p x = true → pcOk p (s.dev.pc p x) = true → 0 ≤ (c - v).toInt →
      ∃ t, exec (.wait p x w) s = .next t ∧ passes t)
    ∧ (s.dev.seqReady p x = true → pcOk p (s.dev.pc p x) = true → (c - v).toInt < 0 →
      ∃ t, exec (.wait p x w) s = .next t ∧ t.dev.seqState p x = 2 ∧ t.dev.pc p x = s.dev.pc p x
        ∧ t.dev.fld (R.seqStatus p x) 42 34 = w.ctr.toNat ∧ onlyPart [R.seqStatus p x] p s t
        ∧ t.dev.part p = (s.dev.part p).setPort x.port { s.dev.port p x.port with waiting := some ⟨w.ctr, w.value, bit w.mod 4⟩ })
    ∧ ((s.dev.port p x.port).waiting = some ⟨w.ctr, w.value, bit w.mod 4⟩ → s.dev.fenced p = false → s.dev.seqState p x = 2 →
        0 ≤ (c - v).toInt →
      ∃ t, exec (.waitPass p x) s = .next t ∧ passes t)

/-- Sync counters (R131 to R133): a POST with nothing in its fence and before which none waits adds at once, or leaves for another partition
of the tenant, and else waits in order while fewer than eight wait; one whose fence is complete adds, or leaves, when it is the oldest; a remote post
adds where it arrives, the posts of one partition to another in the order in which they left (R12), if that partition is not fenced and still belongs
to the same tenant (R15, R403); CSET stores. Every other counter stays. That a remote post has taken effect once it leaves is the model's (DESIGN
CHOICE, log entry 118). -/
def Obligations.PostsAndSetsReachTheirCounter : Prop :=
  ∀ (p : PartId) (q : Port) (w : SWord) (s : State) (y : PortSt), w.rsv = 0 → y = (s.dev.port p q).past q →
    let leaves := fun (t : State) (m : MeshPost) =>
      t = { s with dev := { s.dev with regs := t.dev.regs, parts := t.dev.parts, mesh := s.dev.mesh ++ [m] } }
      ∧ m.src = p ∧ m.port = q ∧ m.gen = s.dev.gen p ∧ partsBut p s t
    let addsTo := fun (t : State) (c : BitVec 9) (v : BitVec 32) => ∀ (u : PartId) (k : Fin 512),
      t.dev.ctr u k.val = if u = p ∧ k.val = c.toNat then s.dev.ctr p c.toNat + v else s.dev.ctr u k.val
    ((w.x = false ∨ w.w1 = 0) → s.dev.takes p q (encS 0x11 w) w.snd = true →
      (y.posts = [] → fenceIds w.mod y.flights = [] →
        ∃ t, exec (.post p q w) s = .next t ∧ movedPast p q w.len s t ∧ addsTo t w.ctr w.value
          ∧ onlyPart (R.syncCnt p w.ctr.toNat :: issueRegs p q) p s t ∧ t.dev.part p = (s.dev.part p).past q y)
      ∧ ((y.posts ≠ [] ∨ fenceIds w.mod y.flights ≠ []) → y.posts.length < 8 →
        ∃ t x, exec (.post p q w) s = .next t ∧ movedPast p q w.len s t
          ∧ t.dev.part p = (s.dev.part p).past q { y with posts := y.posts ++ [x] }
          ∧ x.ctr = w.ctr ∧ x.amount = w.value ∧ x.remote = none ∧ x.fence = fenceIds w.mod y.flights
          ∧ onlyPart (issueRegs p q) p s t))
    ∧ (∀ u, w.x = true → bits w.w1 63 5 = 0 → bit w.w1 4 = true → u = Fin.ofNat 16 (bits w.w1 3 0) → s.dev.sameTenant p u = true →
        s.dev.takes p q (encS 0x11 w) (some w.w1) = true → (y.posts ≠ [] ∨ fenceIds w.mod y.flights ≠ []) → y.posts.length < 8 →
      ∃ t x, exec (.post p q w) s = .next t ∧ movedPast p q 2 s t
        ∧ t.dev.part p = (s.dev.part p).past q { y with posts := y.posts ++ [x] }
        ∧ x.ctr = w.ctr ∧ x.amount = w.value ∧ x.remote = some u ∧ x.fence = fenceIds w.mod y.flights ∧ onlyPart (issueRegs p q) p s t)
    ∧ (∀ u, w.x = true → bits w.w1 63 5 = 0 → bit w.w1 4 = true → u = Fin.ofNat 16 (bits w.w1 3 0) → s.dev.sameTenant p u = true →
        s.dev.takes p q (encS 0x11 w) (some w.w1) = true → y.posts = [] → fenceIds w.mod y.flights = [] →
      ∃ t m, exec (.post p q w) s = .next t ∧ movedPast p q 2 s t ∧ leaves t m ∧ regsBut (issueRegs p q) s t ∧ m.dst = u ∧ m.ctr = w.ctr
        ∧ m.amount = w.value ∧ t.dev.part p = (s.dev.part p).past q y)
    ∧ (∀ x rest, (s.dev.port p q).posts = x :: rest → x.fence = [] →
      (x.remote = none →
        ∃ t, exec (.postTakesEffect p q) s = .next t ∧ addsTo t x.ctr x.amount ∧ onlyPart [R.syncCnt p x.ctr.toNat] p s t
          ∧ t.dev.part p = (s.dev.part p).setPort q { s.dev.port p q with posts := rest })
      ∧ (∀ u, x.remote = some u →
        ∃ t m, exec (.postTakesEffect p q) s = .next t ∧ leaves t m ∧ regsBut [] s t ∧ m.dst = u ∧ m.ctr = x.ctr ∧ m.amount = x.amount
          ∧ t.dev.part p = (s.dev.part p).setPort q { s.dev.port p q with posts := rest }))
    ∧ (∀ ctr amount m, s.dev.meshNext p ctr amount = some m → s.dev.fenced p = false → s.dev.sameTenant m.src p = true →
      s.dev.mesh.find? (fun e => e.src == m.src && e.dst == p) = some m
      ∧ ∃ t, exec (.remotePostArrive p ctr amount) s = .next t ∧ addsTo t ctr amount
        ∧ t = { s with dev := { s.dev with regs := t.dev.regs, mesh := s.dev.mesh.erase m } } ∧ regsBut [R.syncCnt p ctr.toNat] s t)
    ∧ (w.x = false → w.mod = 0 → s.dev.takes p q (encS 0x12 w) none = true →
      ∃ t, exec (.cset p q w) s = .next t ∧ movedPast p q 1 s t ∧ t.dev.ctr p w.ctr.toNat = w.value
        ∧ onlyPart (R.syncCnt p w.ctr.toNat :: issueRegs p q) p s t ∧ t.dev.part p = (s.dev.part p).past q y)

/-! ## Units (R119, R120, R128, R134) -/

/-- MMUL and MMULH that pass their checks enter the queue of the array that they name, their operands captured, and the array goes on as far as it can
(R58, R68, R119, R128); no byte of memory changes. An MMULH with DISCARD names no operands; where its array runs nothing and its context does not
drain, it empties that context and leaves the other (R65, R68). When an array goes on is the model's (DESIGN CHOICE, log entry 16). -/
def Obligations.MatrixInstructionsEnterTheirArray : Prop :=
  ∀ (p : PartId) (q : Port) (w : TWord) (s : State) (a : Fin 2), a = (if bit w.mod 6 then 1 else 0) → (s.dev.arr p a).full q = false →
    bits w.d 5 0 = 0 → w.s3 = 0 →
    let enters := fun (t : State) (len : Nat) (l : List Extent) (f : MatIns → Prop) => ∃ D i, t = { s with dev := D.arrayRun p a }
      ∧ movedPast p q len s { s with dev := D } ∧ onlyPart (R.bwdStatus p :: issueRegs p q) p s { s with dev := D }
      ∧ inFlight p q .matrix (l, []) s { s with dev := D }
      ∧ (D.arr p a).ins.map MatIns.id = (s.dev.arr p a).ins.map MatIns.id ++ [(s.dev.port p q).nextId]
      ∧ (D.arr p a).ins.getLast? = some i ∧ i.port = q ∧ i.ta = bit w.d 7 ∧ i.tb = bit w.d 6 ∧ i.tag = w.imm
      ∧ i.step = (s.dev.port p q).step ∧ i.tile = 0 ∧ f i ∧ t.dev.mem = s.dev.mem
    (∀ ad bd : Desc, (s.dev.port p q).descAt w.s1 = some ad → (s.dev.port p q).descAt w.s2 = some bd →
      s.dev.checkSrc p Reach.own ad = none → s.dev.checkSrc p Reach.own bd = none → matShape ad bd (bit w.d 7) (bit w.d 6) = none →
      s.dev.held p q (ad.exts ++ bd.exts) [] = false →
      (∀ tk : Option TopkArg, s.dev.takes p q (encT 0x20 w) w.snd = true → bits w.mod 5 3 = 0 →
          (tk = none ∧ bit w.mod 2 = false ∧ bit w.mod 1 = false ∧ (w.x = true → w.w1 = 0)
            ∨ tk = some ⟨bits w.w1 6 0, bit w.mod 1, bits w.w1 63 32⟩ ∧ bit w.mod 2 = true ∧ w.x = true ∧ bits w.w1 31 7 = 0
              ∧ 0 < bits w.w1 6 0 ∧ bits w.w1 6 0 ≤ 64 ∧ bits w.w1 63 32 + opO bd (bit w.d 6) - 1 ≤ 0xFFFFFFFF) →
        ∃ t, exec (.mmul p q w) s = .next t
          ∧ enters t w.len (ad.exts ++ bd.exts) (fun i => i.a = ad ∧ i.b = bd ∧ i.hold = false ∧ i.topk = tk))
      ∧ (s.dev.takes p q (encT 0x21 w) none = true → w.x = false → bits w.mod 3 0 = 0 → opO ad (bit w.d 7) ≤ 32 → opO bd (bit w.d 6) ≤ 32 →
        ∃ t, exec (.mmulh p q w) s = .next t ∧ enters t 1 (ad.exts ++ bd.exts) (fun i => i.a = ad ∧ i.b = bd ∧ i.hold = true
          ∧ i.drain = bit w.mod 4 ∧ i.discard = false ∧ i.ctx = (if bit w.mod 5 then 1 else 0))))
    ∧ (∀ c : Fin 2, c = (if bit w.mod 5 then 1 else 0) → s.dev.takes p q (encT 0x21 w) none = true → w.x = false → bits w.mod 2 0 = 0 →
        bit w.mod 3 = true → bit w.mod 4 = false → w.s1 = 0 → w.s2 = 0 → w.d = 0 → s.dev.held p q [] [] = false →
      ∃ t, exec (.mmulh p q w) s = .next t ∧ enters t 1 [] (fun i => i.hold = true ∧ i.discard = true ∧ i.ctx = c)
        ∧ ((s.dev.arr p a).cur = none → (s.dev.arr p a).ins = [] → (s.dev.arr p a).draining c = false →
            (t.dev.arr p a).ctx c = Ctx.empty ∧ (t.dev.arr p a).ctx (otherCtx c) = (s.dev.arr p a).ctx (otherCtx c)
            ∧ (t.dev.arr p a).toks = (s.dev.arr p a).toks))

/-- A drain hands the collapsed tile of the oldest token's context to the array's accumulator input with its status word, empties the context and
retires the token (R69 to R72, R74), and leaves the other context, the other array and every register as they were; the products of a pair at the
heads of both arrays begin together once both can begin (R174), and wait while one cannot. -/
def Obligations.ArraysDrainAndStartPairs : Prop :=
  (∀ (p : PartId) (a : Fin 2) (s : State) (tok : DrainTok) (rest : List DrainTok), s.dev.fenced p = false →
      (s.dev.arr p a).cur = none → (s.dev.arr p a).ins = [] → (s.dev.arr p a).toks = tok :: rest → tok.topk = none →
      tok.rows ≤ 32 → (s.dev.arr p a).emit = [] → ((s.dev.part p).inp a).free = true →
      let c := (s.dev.arr p a).ctx tok.ctx
      let rows := tileRows c.drain.1 tok.rows
      ∃ t, exec (.drain p a) s = .next t ∧ onlyPart [] p s t
        ∧ (t.dev.part p).inp a = { (s.dev.part p).inp a with
            status := some (statusWord tok.tag c.count tok.cols tok.rows c.isEmpty false (rows.any (fun r => r.any f32IsNan))
              (rows.any (fun r => r.any f32IsInf)) c.drain.2 c.longsum a tok.ctx)
            rows := rows
            short := false }
        ∧ t.dev.arr p a = { (s.dev.arr p a).setCtx tok.ctx Ctx.empty with toks := rest } ∧ (t.dev.part p).vq = (s.dev.part p).vq
        ∧ (∀ b, b ≠ a → t.dev.arr p b = s.dev.arr p b ∧ (t.dev.part p).inp b = (s.dev.part p).inp b)
        ∧ (tok.lastOfInstr = false → ∀ q, t.dev.port p q = s.dev.port p q)
        ∧ (tok.lastOfInstr = true → ∀ f ∈ (t.dev.port p tok.port).flights, f.id ≠ tok.id))
  ∧ (∀ (p : PartId) (s : State) (i j : MatIns), (s.dev.arr p 0).cur = some i → (s.dev.arr p 1).cur = some j → i.paired = 2 → j.paired = 2 →
      i.port = j.port →
      ((s.dev.pairState p 0 = .wait ∨ s.dev.pairState p 1 = .wait) → exec (.pairStart p) s = .next s)
      ∧ (s.dev.pairState p 0 = .ready → s.dev.pairState p 1 = .ready →
      ∃ t D, exec (.pairStart p) s = .next t ∧ t = { s with dev := (D.arrayRun p 0).arrayRun p 1 }
        ∧ (D.arr p 0).cur = some { i with paired := 0 } ∧ (D.arr p 1).cur = some { j with paired := 0 }
        ∧ onlyPart [] p s { s with dev := D } ∧ t.dev.mem = s.dev.mem))

/-- Every vector instruction whose word is in order, whose operands pass the checks and that nothing holds enters the vector engine's queue with its
operands captured (R119, R121, R128). VADD, VSUB, VMUL, VFMA, VMIN, VMAX, VCMP, VSEL, VDIV, VSQRT, VIOP, VSF, VSFD, SFLOAD, VRED, VCVT, VTKMERGE,
VACC, VSMX.STEP, VSMX.END, VSMX.BWD, VPOOL, VUNPOOL. Operand places that the rules leave open are the model's (DEDUCED, log entries 21 to 25). -/
def Obligations.VectorInstructionsEnterTheEngine : Prop :=
  ∀ (p : PartId) (q : Port) (w : TWord) (s : State) (c : Instr) (f : VForm), (c, f) ∈ vectorRows p q w →
    s.dev.takes p q (encT f.opc.toNat w) w.snd = true → f.wordOk = true → s.dev.vecRefuse p w f (s.dev.port p q) = none →
    (s.dev.part p).vecFull q = false →
    let a := captureArgs (s.dev.port p q) w
    s.dev.held p q (f.ext a).1 (f.ext a).2 = false →
    ∃ t i, exec c s = .next t ∧ movedPast p q w.len s t ∧ onlyPart (issueRegs p q) p s t ∧ inFlight p q .vector (f.ext a) s t
      ∧ (t.dev.part p).vq = (s.dev.part p).vq ++ [i] ∧ i.id = (s.dev.port p q).nextId ∧ i.port = q ∧ i.opc = f.opc ∧ i.w = w
      ∧ i.d = a.d ∧ i.s1 = a.s1 ∧ i.s2 = a.s2 ∧ i.s3 = a.s3 ∧ i.mask = a.mask ∧ i.step = (s.dev.port p q).step
      ∧ i.alpha = vecAlpha (s.dev.port p q) w ∧ i.pos = 0 ∧ i.acc = [] ∧ i.run = []

/-- MOVE, MFILL, MGATHER, MSCATTER, MPUT and MGET that pass their checks enter the move engine of their port, which goes on with what it can start
(R119, R120, R128). The scoreboard keeps the extents in the partition's own memory (R134). The shapes of MOVE are the model's (DEDUCED, log entry 29),
and that the engine goes on within the same command (DESIGN CHOICE, log entry 16). -/
def Obligations.MoveInstructionsEnterTheirEngine : Prop :=
  ∀ (p : PartId) (q : Port) (w : TWord) (s : State) (c : Instr) (f : MForm), (c, f) ∈ moveRows p q w →
    s.dev.takes p q (encT f.opc w) w.snd = true → f.wordOk = true →
    let ps := s.dev.port p q
    f.shape s.dev (ps.descAt w.d) (ps.descAt w.s1) (ps.descAt w.s2) = none → (s.dev.part p).moveFull q = false →
    let e := s.dev.tracked p (f.ext (ps.descAt w.d) (ps.descAt w.s1) (ps.descAt w.s2))
    s.dev.held p q e.1 e.2 = false →
    ∃ D i, exec c s = .next { s with dev := D.moveRun p q.num } ∧ movedPast p q w.len s { s with dev := D }
      ∧ onlyPart (issueRegs p q) p s { s with dev := D } ∧ inFlight p q .move e s { s with dev := D }
      ∧ (D.part p).mq = (s.dev.part p).mq ++ [i] ∧ i.id = ps.nextId ∧ i.port = q ∧ i.opc = f.opc ∧ i.w1 = w.w1 ∧ i.step = ps.step
      ∧ ps.descAt w.d = some i.d ∧ (ps.descAt w.s1).getD (descOf 0) = i.s1 ∧ ps.descAt w.s2 = i.s2

/-- CRS, CAG, CAR, CA2A, CBC, CRSH and CKV of an installed group of the tenant that pass their checks enter the collective engine, which goes on with
what may start (R119, R128, R214, R215); maps and tables are read once no earlier instruction still writes them and their channel is there
(R24, R134, R165). MCAST outside CRS and the operands' reach are the model's (DEDUCED, log entries 54, 55), and that the engine goes on within the
same command (DESIGN CHOICE, log entry 16). -/
def Obligations.CollectivesEnterTheEngine : Prop :=
  ∀ (p : PartId) (q : Port) (w : TWord) (s : State) (c : Instr) (f : CForm) (ten : TenantId) (g : Group), (c, f) ∈ collRows p q w →
    s.dev.takes p q (encT f.opc w) w.snd = true → f.wordOk = true → s.dev.tenantOf p = some ten → s.dev.groupOf ten (cGrp w) = some g →
    let a := collArgs (s.dev.port p q) w f.aux
    s.dev.held p q a.atIssue [] = false → s.dev.extsBusy a.atIssue = false → s.dev.mapBad (f.opc - 0x70) a (s.dev.port p q).step = none →
    f.check s.dev a g = none → s.dev.collFull p q = false →
    let m := f.maps s.dev a
    let e := collExts (f.opc - 0x70) a m.1 m.2.1
    s.dev.held p q e.1 e.2 = false →
    ∃ D x, exec c s = .next { s with dev := D.collKick } ∧ movedPast p q 2 s { s with dev := D }
      ∧ inFlight p q .collective e s { s with dev := D } ∧ D.mem = s.dev.mem ∧ regsBut (issueRegs p q) s { s with dev := D }
      ∧ partsBut p s { s with dev := D } ∧ D.coll.ops = s.dev.coll.ops ++ [x] ∧ x.n = s.dev.coll.nextN ∧ x.part = p ∧ x.port = q
      ∧ x.op = f.opc - 0x70 ∧ x.grp = cGrp w ∧ x.tenant = g.tenant ∧ x.step = (s.dev.port p q).step ∧ x.armEp = (s.dev.port p q).armEp
      ∧ x.layEp = (s.dev.port p q).layEp ∧ x.phase = .queued

/-! ## Partition registers (R137 to R142, R150, R158 to R166, R210 to R212, R247, R248) -/

/-- START, HALT_REQ, the clearing of FAULT and the write of SEQx_PC by an agent that reaches the register (R137 to R140); SEQx_PC's reset value and
reserved bits (R139). -/
def Obligations.SequencerRegistersControlTheStream : Prop :=
  ∀ (a : Agent) (p : PartId) (x : Seq) (v : W64) (s : State),
    (s.dev.accepts a (R.seqCtrl p x) → s.dev.fenced p = false → (s.dev.seqState p x = 0 ∨ s.dev.seqState p x = 4) →
      bit (s.dev.reg (R.seqStatus p x)) 0 = false →
      ∃ t, exec (.seqStart a p x) s = .next t ∧ setsFields (R.seqStatus p x) [(55, 52, 1)] s t)
    ∧ (s.dev.accepts a (R.seqCtrl p x) → s.dev.seqState p x = 1 →
      ∃ t, exec (.seqHaltReq a p x) s = .next t ∧ setsFields (R.seqStatus p x) [(55, 52, 4)] s t)
    ∧ (s.dev.accepts a (R.seqCtrl p x) → (s.dev.seqState p x = 2 ∨ s.dev.seqState p x = 3) →
      ∃ t, exec (.seqHaltReq a p x) s = .next t ∧ onlyPart [] p s t
        ∧ t.dev.port p x.port = { s.dev.port p x.port with haltReq := true })
    ∧ (s.dev.accepts a (R.seqStatus p x) → bit (s.dev.reg (R.seqStatus p x)) 0 = true →
      ∃ t, exec (.seqFaultClear a p x) s = .next t ∧ setsFields (R.seqStatus p x) [(63, 56, 0), (31, 28, 0), (0, 0, 0), (55, 52, 4)] s t)
    ∧ (s.dev.accepts a (R.seqPc p x) → (s.dev.seqState p x = 0 ∨ s.dev.seqState p x = 4 ∨ s.dev.seqState p x = 5) →
      ∃ t, exec (.seqPcWrite a p x v) s = .next t ∧ setsFields (R.seqPc p x) [(47, 3, bits v 47 3)] s t)
    ∧ ((s.dev.seqState p x = 1 ∨ s.dev.seqState p x = 2 ∨ s.dev.seqState p x = 3) → exec (.seqPcWrite a p x v) s = .next s)
    ∧ (regReset (R.seqPc p x) = 0 ∧ bits (s.dev.peek (R.seqPc p x)) 47 3 = bits (s.dev.reg (R.seqPc p x)) 47 3
      ∧ bits (s.dev.peek (R.seqPc p x)) 63 48 = 0 ∧ bits (s.dev.peek (R.seqPc p x)) 2 0 = 0)

/-- A write of SYNC_CNTn stores the counter (R133, R142); MEM_PIN takes PIN_BASE and LOCK where no state that it protects is in use (R150); an entry's
base and size are set while it is empty and unreferenced and its extent fits, a write of SIZE 0 frees a valid and unreferenced entry, and every other
write of either register is refused and has no effect (R159, R160); REFADJ adds to REF and stops at its ends (R161). A write that repeats PIN_BASE is
the model's (DEDUCED, log entry 39), and which memory an entry may name beyond the rule's three cases (DESIGN CHOICE, log entry 144). -/
def Obligations.MemoryRegistersFollowTheirRules : Prop :=
  ∀ (a : Agent) (p : PartId) (v : W64) (s : State),
    (∀ n : Fin 512, s.dev.accepts a (R.syncCnt p n.val) →
      ∃ t, exec (.syncCntWrite a p n v) s = .next t ∧ onlyRegs [R.syncCnt p n.val] s t ∧ (t.dev.ctr p n.val).toNat = bits v 31 0)
    ∧ (s.dev.accepts a (R.memPin p) → bits v 47 40 = s.dev.fld (R.memPin p) 47 40 →
        (s.dev.locked p = true → bit v 32 = false → s.dev.pinBusy p = false) →
      ∃ t, exec (.memPinWrite a p v) s = .next t ∧ setsFields (R.memPin p) [(47, 40, bits v 47 40), (32, 32, bits v 32 32)] s t)
    ∧ (s.dev.accepts a (R.memPin p) → bits v 47 40 ≠ s.dev.fld (R.memPin p) 47 40 → bits v 47 40 % 4 = 0 →
        bits v 47 40 ≤ s.dev.fld (R.memPin p) 7 0 → s.dev.locked p = false →
        (∀ x : Seq, s.dev.seqState p x ≠ 1 ∧ s.dev.seqState p x ≠ 2) →
      ∃ t, exec (.memPinWrite a p v) s = .next t ∧ regsBut [R.memPin p] s t ∧ t.dev.parts = s.dev.parts
        ∧ t.dev.fld (R.memPin p) 47 40 = bits v 47 40
        ∧ ∀ c, (c < dramBase p ∨ dramBase p + s.dev.cap p ≤ c) → memGet t.dev.mem c = memGet s.dev.mem c)
    ∧ ((bits v 47 40 ≠ s.dev.fld (R.memPin p) 47 40 ∧ (bits v 47 40 % 4 ≠ 0 ∨ s.dev.fld (R.memPin p) 7 0 < bits v 47 40 ∨ s.dev.locked p = true
          ∨ ∃ x : Seq, s.dev.seqState p x = 1 ∨ s.dev.seqState p x = 2)
        ∨ s.dev.locked p = true ∧ bit v 32 = false ∧ s.dev.pinBusy p = true) →
      exec (.memPinWrite a p v) s = .next s)
    ∧ (∀ e : Fin 64, s.dev.accepts a (R.wsbBase p e.val) → s.dev.wsbState p e.val = 0 → s.dev.wsbRef p e.val = 0 →
        s.dev.wsbPlace p e.val ⟨bits v 47 12 * 4096, (bits v 47 12 + s.dev.fld (R.wsbCtrl p e.val) 63 32) * 4096⟩ = true →
      ∃ t, exec (.wsbConfigWrite a p e false v) s = .next t ∧ setsFields (R.wsbBase p e.val) [(47, 12, bits v 47 12)] s t)
    ∧ (∀ e : Fin 64, s.dev.accepts a (R.wsbCtrl p e.val) → s.dev.wsbState p e.val = 0 → s.dev.wsbRef p e.val = 0 →
        s.dev.wsbPlace p e.val ⟨s.dev.fld (R.wsbBase p e.val) 47 12 * 4096,
          (s.dev.fld (R.wsbBase p e.val) 47 12 + bits v 63 32) * 4096⟩ = true →
      ∃ t, exec (.wsbConfigWrite a p e true v) s = .next t ∧ setsFields (R.wsbCtrl p e.val) [(63, 32, bits v 63 32)] s t)
    ∧ (∀ e : Fin 64, s.dev.accepts a (R.wsbCtrl p e.val) → bits v 63 32 = 0 → s.dev.wsbState p e.val = 2 → s.dev.wsbRef p e.val = 0 →
      ∃ t, exec (.wsbConfigWrite a p e true v) s = .next t ∧ onlyRegs [R.wsbCtrl p e.val, R.wsbTag p e.val] s t ∧ t.dev.wsbState p e.val = 0
        ∧ t.dev.wsbRef p e.val = 0 ∧ t.dev.fld (R.wsbCtrl p e.val) 63 32 = 0 ∧ t.dev.reg (R.wsbTag p e.val) = 0xFFFFFFFFFFFFFFFF)
    ∧ (∀ (e : Fin 64) (ctrl : Bool) (base size : Nat), base = (if ctrl then s.dev.fld (R.wsbBase p e.val) 47 12 else bits v 47 12) →
        size = (if ctrl then bits v 63 32 else s.dev.fld (R.wsbCtrl p e.val) 63 32) →
        ¬(ctrl = true ∧ size = 0 ∧ s.dev.wsbState p e.val = 2 ∧ s.dev.wsbRef p e.val = 0) →
        (s.dev.wsbState p e.val ≠ 0 ∨ s.dev.wsbRef p e.val ≠ 0 ∨ s.dev.wsbPlace p e.val ⟨base * 4096, (base + size) * 4096⟩ = false) →
      exec (.wsbConfigWrite a p e ctrl v) s = .next s)
    ∧ (∀ e : Fin 64, s.dev.accepts a (R.wsbRefadj p e.val) →
        ∀ r : Int, r = (s.dev.wsbRef p e.val : Int) + sext 16 (bits v 15 0) →
      ∃ t, exec (.wsbRefadj a p e v) s = .next t ∧ onlyRegs [R.wsbCtrl p e.val, R.eccStatus p] s t
        ∧ (t.dev.wsbRef p e.val : Int) = (if r < 0 then 0 else if 0xFFFF < r then 0xFFFF else r)
        ∧ (r < 0 → bit (t.dev.reg (R.eccStatus p)) 6 = true) ∧ (0xFFFF < r → bit (t.dev.reg (R.eccStatus p)) 7 = true)
        ∧ (0 ≤ r → r ≤ 0xFFFF → t.dev.reg (R.eccStatus p) = s.dev.reg (R.eccStatus p)))

/-- REQ queues channels for retraining, those that wait in ascending order behind the one in progress, and leaves the rest of the queue;
BUSY shows the queue, FAILED is cleared where 1 is written (R166). The first that waits ends with its duration in LAST, and what waited for
it goes on (R165, R166); in a reset it is marked RETRAINED, and the firmware starts behind the last (R404, R416). One that is given up sets
FAILED, holds its channel in self-refresh and leads to a partition reset with that channel implicated (R165, R402); while a reset is at its
fence or rubbing it stays held too; in reintegration it is trained once more, and given up again its contents are lost (R404). A phase or a
row update that is cut so leaves UPDc_OPEN naming its block or record, and changes no other memory (R194, R207). Whether a phase had begun
is a free value (log entry 49); that a drift check, which stalls its channel (R165), leaves the state as it is, is the model's, which has no
clock (DESIGN CHOICE, log entry 73). -/
def Obligations.ChannelsRetrainInOrder : Prop :=
  ∀ (a : Agent) (p : PartId) (v : W64) (s : State),
    (s.dev.accepts a (R.memTrain p) →
      ∃ t l, exec (.memTrainReq a p v) s = .next t ∧ onlyPart [R.memTrain p] p s t ∧ t.dev.part p = { s.dev.part p with trainQ := l }
        ∧ (∀ c : Fin 4, c ∈ l ↔ (c ∈ (s.dev.part p).trainQ ∨ bit v (28 + c.val) = true))
        ∧ (∀ x r, (s.dev.part p).trainQ = x :: r → l.head? = some x ∧ (r.Pairwise (· < ·) → l.tail.Pairwise (· < ·)))
        ∧ ((s.dev.part p).trainQ = [] → l.Pairwise (· < ·))
        ∧ (∀ c : Fin 4, bit (t.dev.reg (R.memTrain p)) (24 + c.val) = l.contains c
            ∧ bit (t.dev.reg (R.memTrain p)) (20 + c.val) = (bit (s.dev.reg (R.memTrain p)) (20 + c.val) && !bit v (20 + c.val)))
        ∧ t.dev.fld (R.memTrain p) 15 0 = s.dev.fld (R.memTrain p) 15 0)
    ∧ (∀ (c : Fin 4) (n : Nat) (r : List (Fin 4)), (s.dev.part p).trainQ = c :: r →
      ∃ D t, exec (.retrainDone p c n) s = .next { s with dev := D.channelReady p } ∧ t = { s with dev := D }
        ∧ t.dev.fld (R.memTrain p) 15 0 = min 0xFFFF (n / 1024) ∧ (∀ k : Fin 4, bit (t.dev.reg (R.memTrain p)) (24 + k.val) = r.contains k)
        ∧ (s.dev.prstState p ≠ 4 → onlyPart [R.memTrain p] p s t ∧ t.dev.part p = { s.dev.part p with trainQ := r })
        ∧ (s.dev.prstState p = 4 → (t.dev.part p).trainQ = r ∧ bit (t.dev.reg (R.prstStatus p)) (31 + c.val) = true ∧ partsBut p s t
            ∧ (r ≠ [] → t.dev.mem = s.dev.mem ∧ t.dev.part p = { s.dev.part p with trainQ := r })
            ∧ (r = [] → bit (t.dev.reg (R.scalarStatus p)) 34 = true ∧ memBut (slmBase p) (slmBase p + 0x10000) s t)))
    ∧ (∀ (c : Fin 4) (r : List (Fin 4)) (F : Dev), (s.dev.part p).trainQ = c :: r → F = s.dev.setFlag (R.memTrain p) (20 + c.val) true →
      ((s.dev.part p).rst = none → s.dev.prstState p = 0 →
        ∃ (D : Dev) (x : ResetSt), exec (.retrainAbandon p c) s = .next { s with dev := D.fenceColl p } ∧ (D.part p).trainQ = r
          ∧ bit (D.reg (R.memTrain p)) (20 + c.val) = true ∧ D.prstState p = 1 ∧ D.fld (R.prstStatus p) 47 40 = 4
          ∧ (D.part p).refresh = (s.dev.part p).refresh ++ [c]
          ∧ (D.part p).rst = some x ∧ x.retrain = BitVec.ofNat 4 (2 ^ c.val) ∧ x.failed = x.retrain ∧ x.skip = false
          ∧ D.mem = (F.updTear p c).mem ∧ D.reg (R.updOpen p c) = (F.updTear p c).reg (R.updOpen p c))
      ∧ (∀ x : ResetSt, (s.dev.part p).rst = some x → s.dev.prstState p = 4 →
        (bit x.failed c.val = false →
          ∃ D t, exec (.retrainAbandon p c) s = .next { s with dev := D.channelReady p } ∧ t = { s with dev := D }
            ∧ setsFields (R.memTrain p) [(20 + c.val, 20 + c.val, 1)] { s with dev := { s.dev with parts := t.dev.parts } } t ∧ partsBut p s t
            ∧ t.dev.part p = { s.dev.part p with rst := some { x with failed := x.failed ||| BitVec.ofNat 4 (2 ^ c.val) } })
        ∧ (bit x.failed c.val = true →
          ∃ D t, exec (.retrainAbandon p c) s = .next { s with dev := D.channelReady p } ∧ t = { s with dev := D }
            ∧ (t.dev.part p).trainQ = r ∧ bit (t.dev.reg (R.memTrain p)) (20 + c.val) = true
            ∧ bit (t.dev.reg (R.prstStatus p)) (35 + c.val) = true ∧ bit (t.dev.reg (R.prstStatus p)) (31 + c.val) = true ∧ partsBut p s t
            ∧ (r ≠ [] → memBut (dramBase p) (dramBase p + s.dev.cap p) s t)))
      ∧ (∀ x : ResetSt, (s.dev.part p).rst = some x → s.dev.prstState p ≠ 4 →
        ∃ t, exec (.retrainAbandon p c) s = .next t ∧ onlyPart [R.memTrain p, R.prstStatus p] p s t
          ∧ t.dev.part p = { s.dev.part p with trainQ := r, refresh := (s.dev.part p).refresh ++ [c] }
          ∧ bit (t.dev.reg (R.memTrain p)) (20 + c.val) = true ∧ bit (t.dev.reg (R.prstStatus p)) 39 = true))
    ∧ (∀ (c : Fin 4) (D : Dev), D = s.dev.updTear p c →
      D.regs = s.dev.regs ∧ D.mem = s.dev.mem
      ∨ (∃ (i : UIns) (n : Nat), i ∈ ((s.dev.part p).units[c]).q ∧ n < i.blocksN
        ∧ (D.reg (R.updOpen p c) = s.dev.reg (R.updOpen p c) ∨ (i.blockAt n < 2 ^ 48 → i.blockAt n % 64 = 0 →
            bit (D.reg (R.updOpen p c)) 63 = true ∧ D.fld (R.updOpen p c) 47 6 * 64 = i.blockAt n))
        ∧ (i.s3 = none → s.dev.watchAt p i.s2.layer.toNat = none → ∀ b, (b < i.blockAt n ∨ i.blockAt n + sbSize i.s2.fmt ≤ b) →
            memGet D.mem b = memGet s.dev.mem b))
      ∨ ∃ (o : UOp) (u : RowIns) (e : Nat × Nat), o ∈ (s.dev.part p).uops ∧ o.act = .rows u ∧ e ∈ s.dev.rowsOf u c
        ∧ (u.m.recAt e.2 < 2 ^ 48 → u.m.recAt e.2 % 64 = 0 →
            bit (D.reg (R.updOpen p c)) 63 = true ∧ D.fld (R.updOpen p c) 47 6 * 64 = u.m.recAt e.2)
        ∧ ∀ b, (b < u.m.recAt e.2 ∨ u.m.recAt e.2 + u.m.recSize ≤ b) → memGet D.mem b = memGet s.dev.mem b)
    ∧ (∀ c : Fin 4, exec (.driftCheck p c) s = .next s)

/-- Clearing UPDc_OPEN and the fault in UPDc_STATUS (R210, R211), the table addresses of UPD_WATCH and COLL_NOISE (R212, R247) and MB_POLICY
(R248). -/
def Obligations.UpdateAndPolicyRegisters : Prop :=
  ∀ (a : Agent) (p : PartId) (v : W64) (s : State),
    (∀ c : Fin 4, s.dev.accepts a (R.updOpen p c) →
      ∃ t, exec (.updOpenClear a p c) s = .next t ∧ onlyRegs [R.updOpen p c] s t ∧ t.dev.reg (R.updOpen p c) = 0)
    ∧ (∀ c : Fin 4, s.dev.accepts a (R.updStatus p c) →
      ∃ t, exec (.updFaultClear a p c) s = .next t ∧ setsFields (R.updStatus p c) [(63, 56, 0), (47, 16, 0), (0, 0, 0)] s t)
    ∧ (bits v 47 15 = 0 ∨ (sramBase p ≤ bits v 47 15 * 2 ^ 15 ∧ bits v 47 15 * 2 ^ 15 + 2 ^ 15 ≤ sramBase p + 2 ^ 28) →
      (s.dev.accepts a (R.updWatch p) →
        ∃ t, exec (.updWatchWrite a p v) s = .next t ∧ setsFields (R.updWatch p) [(47, 15, bits v 47 15)] s t)
      ∧ (s.dev.accepts a (R.collNoise p) →
        ∃ t, exec (.collNoiseWrite a p v) s = .next t ∧ setsFields (R.collNoise p) [(47, 15, bits v 47 15)] s t))
    ∧ (s.dev.accepts a (R.mbPolicy p) →
        (isTenant a = true → bits v 63 48 = s.dev.fld (R.mbPolicy p) 63 48 ∧ bits v 47 32 = s.dev.fld (R.mbPolicy p) 47 32) →
        0 < bits v 47 32 → bits v 47 32 ≤ bits v 31 16 → bits v 31 16 ≤ bits v 63 48 →
      ∃ t, exec (.mbPolicyWrite a p v) s = .next t ∧ onlyRegs [R.mbPolicy p] s t
        ∧ t.dev.fld (R.mbPolicy p) 63 48 = bits v 63 48 ∧ t.dev.fld (R.mbPolicy p) 47 32 = bits v 47 32
        ∧ t.dev.fld (R.mbPolicy p) 31 16 = bits v 31 16
        ∧ bit (t.dev.reg (R.mbPolicy p)) 0 = (if bits v 31 16 ≠ s.dev.fld (R.mbPolicy p) 31 16 then true
            else !bit v 0 && bit (s.dev.reg (R.mbPolicy p)) 0))

/-! ## Update units (R189 to R206) -/

/-- A UPD that passes its checks enters the unit of its blocks' channel (R119, R192); ULOAD, USCAL and UROUTE enter the queues of the
partition's four units with the image that R31, R189 or R190 accept, or with the rows of a map that R204 accepts, and the units go on with
what may act (R120, R191, R206). Where the units hold nothing, a ULOAD or USCAL leaves its image in its program slot or scalar set at once.
GRAD_SLOT_WRITE applies the oldest gradient-slot write that waits, unless its channel retrains (R165, R196). When images are read and which
bytes are checked are the model's (DEDUCED, log entries 45 to 48), when the units go on too (DESIGN CHOICE, log entry 16). -/
def Obligations.UpdateInstructionsReachTheirUnit : Prop :=
  ∀ (p : PartId) (q : Port) (w : TWord) (s : State) (y : Desc), w.x = false → (s.dev.port p q).descAt w.s1 = some y →
    let ps := s.dev.port p q
    let enters := fun (i : Instr) (e : List Extent × List Extent) (D : Dev) => exec i s = .next { s with dev := D.unitsGo p }
      ∧ movedPast p q 1 s { s with dev := D } ∧ onlyPart (issueRegs p q) p s { s with dev := D } ∧ inFlight p q .update e s { s with dev := D }
    let all := fun (i : Instr) (e : List Extent × List Extent) (a : UAct) => ∃ D : Dev, enters i e D
      ∧ (D.part p).uops = (s.dev.part p).uops ++ [⟨ps.nextId, q, s.dev.portPc p q, a⟩] ∧ (D.part p).units = (s.dev.part p).units
      ∧ (D.part p).slots = (s.dev.part p).slots ∧ (D.part p).sets = (s.dev.part p).sets
    let empty := (s.dev.part p).uops = [] ∧ ∀ c : Fin 4, ((s.dev.part p).units[c]).q = [] ∧ ((s.dev.part p).units[c]).slotQ = []
    let loads := fun (i : Instr) => ∃ t, exec i s = .next t ∧ movedPast p q 1 s t
      ∧ onlyPart (issueRegs p q ++ (List.finRange 4).map (R.updStatus p)) p s t ∧ (∀ f ∈ (t.dev.port p q).flights, f.id ≠ ps.nextId)
    (∀ x z e c, ps.descAt w.d = some x → ps.descAt w.s2 = some z → bits w.mod 4 0 = 0 →
        s.dev.takes p q (encT 0x80 w) none = true → s.dev.updRefuse p q w x y z (ps.descAt w.s3) = none →
        e = updExts x y z (ps.descAt w.s3) (z.count / 4096) → c = s.dev.chanOf p z.base →
        (s.dev.part p).updFull c q = false → s.dev.held p q e.1 e.2 = false →
      ∃ (D : Dev) (i : UIns), enters (.upd p q w) e D
        ∧ ((D.part p).units[c]).q = ((s.dev.part p).units[c]).q ++ [i] ∧ (∀ k : Fin 4, k ≠ c → (D.part p).units[k] = (s.dev.part p).units[k])
        ∧ i.id = ps.nextId ∧ i.port = q ∧ i.d = x ∧ i.s1 = y ∧ i.s2 = z ∧ i.s3 = ps.descAt w.s3 ∧ i.phase = updPhase w ∧ i.slot = updSlot w
        ∧ i.setNo = updSet w ∧ i.step = ps.step ∧ i.seed = ps.pwAt 14 ∧ i.begun = false ∧ i.next = 0)
    ∧ (∀ n : Nat, w.mod = 0 → w.d = 0 → w.s2 = 0 → w.s3 = 0 → w.imm.toNat = n → (s.dev.part p).anyUpdFull q = false →
        s.dev.tagOk y ps.step = true →
      (∀ e b, e = toExtent (imageExt y 320) → b = s.dev.rd y.base 320 → s.dev.takes p q (encT 0x82 w) none = true → n < 16 →
          s.dev.checkImage p y 320 = none → s.dev.held p q [e] [] = false → s.dev.chanBusy e.lo e.hi = false → s.dev.bad y.base 320 = false →
          progRefuse b = none →
        all (.uload p q w) ([e], []) (.load n b)
        ∧ (empty → loads (.uload p q w) ∧ ∀ t, exec (.uload p q w) s = .next t → Tab.find (t.dev.part p).slots n = some b
            ∧ (t.dev.part p).sets = (s.dev.part p).sets ∧ ∀ k, k ≠ n → Tab.find (t.dev.part p).slots k = Tab.find (s.dev.part p).slots k))
      ∧ (∀ e b, e = toExtent (imageExt y 128) → b = s.dev.rd y.base 128 → s.dev.takes p q (encT 0x83 w) none = true → n < 256 →
          s.dev.checkImage p y 128 = none → s.dev.held p q [e] [] = false → s.dev.chanBusy e.lo e.hi = false → s.dev.bad y.base 128 = false →
          setRefuse b = none →
        all (.uscal p q w) ([e], []) (.scalars n b)
        ∧ (empty → loads (.uscal p q w) ∧ ∀ t, exec (.uscal p q w) s = .next t → Tab.find (t.dev.part p).sets n = some b
            ∧ (t.dev.part p).slots = (s.dev.part p).slots ∧ ∀ k, k ≠ n → Tab.find (t.dev.part p).sets k = Tab.find (s.dev.part p).sets k)))
    ∧ (∀ x z e m u, ps.descAt w.d = some x → ps.descAt w.s2 = some z → bits w.mod 4 0 = 0 → w.s3 = 0 → w.imm = 0 →
        s.dev.takes p q (encT 0x81 w) none = true → s.dev.uroutePre p x y z = none → e = toExtent (imageExt x 64) →
        (s.dev.part p).anyUpdFull q = false → s.dev.held p q (e :: y.exts ++ z.exts) [] = false → s.dev.chanBusy e.lo e.hi = false →
        s.dev.tagOk x ps.step = true → s.dev.bad e.lo 64 = false → m = rowMapOf (s.dev.rd x.base 64) → s.dev.urouteCheck p q w y z m = none →
        u = ⟨m, y, z, updPhase w, ps.step, ps.pwAt 14⟩ → s.dev.held p q (e :: y.exts ++ z.exts) (s.dev.rowWrites u) = false →
      all (.uroute p q w) (e :: y.exts ++ z.exts, s.dev.rowWrites u) (.rows u))
    ∧ (∀ (c : Fin 4) (e : Nat × List Byte) (rest : List (Nat × List Byte)), ((s.dev.part p).units[c]).slotQ = e :: rest →
        s.dev.chanShut p c = false →
      ∃ t, exec (.gradSlotWrite p c) s = .next t ∧ memRead t.dev.mem e.1 e.2.length = e.2 ∧ memBut e.1 (e.1 + e.2.length) s t
        ∧ t.dev.part p = (s.dev.part p).setUnit c { ((s.dev.part p).units[c]) with slotQ := rest } ∧ t.dev.regs = s.dev.regs ∧ partsBut p s t)

/-! ## The armature and the pointing log (R233, R243, R265, R277, R287, R289 to R295) -/

/-- An install waits with the groups of an image that R231 and R232 accept and takes effect once no operation is in progress on a group that it
changes (R233): its groups become the tenant's, and the armature epoch the image's. The order of the checks is the model's (DEDUCED, log entry 74). -/
def Obligations.InstallsReplaceTheArmature : Prop :=
  (∀ (a : Agent) (p : PartId) (v : W64) (s : State) (ten : TenantId) (i : Nat), s.dev.accepts a (R.armInstall p) → bit v 63 = true →
      bit v 62 = false → i = bits v 47 6 * 64 → s.dev.tenantOf p = some ten →
      (s.dev.writeReg (R.armInstall p) v).installCheck p ten i = none →
      ∃ t x, exec (.armInstallGo a p v) s = .next t ∧ regsBut [R.armInstall p, R.armStatus p] s t ∧ t.dev.mem = s.dev.mem
        ∧ t.dev.coll.installs = s.dev.coll.installs ++ [x] ∧ t.dev.coll.groups = s.dev.coll.groups ∧ x.tenant = ten ∧ x.part = p
        ∧ x.epoch.toNat = s.dev.rdN i 4 ∧ x.groups.map (·.1) = (s.dev.imageEntries i).map entGroup
        ∧ t.dev.fld (R.armStatus p) 55 52 = 1)
  ∧ (∀ (ten : TenantId) (s : State) (x : Install), s.dev.coll.installs.find? (fun i => i.tenant == ten) = some x →
      s.dev.installStops x = [] →
      ∃ D : Dev, exec (.armInstallApply ten) s = .next { s with dev := D.collKick } ∧ D.armEpoch ten = x.epoch ∧ D.mem = s.dev.mem
        ∧ D.coll.ops = s.dev.coll.ops ∧ (∀ i ∈ D.coll.installs, i.tenant ≠ ten)
        ∧ (∀ n, n ∉ x.groups.map (·.1) →
            Tab.find D.coll.groups n = Tab.find (s.dev.coll.groups.filter (fun e => e.2.tenant != ten)) n)
        ∧ ((x.groups.map (·.1)).Nodup → ∀ e ∈ x.groups, Tab.find D.coll.groups e.1 = some e.2))

/-- The ring registers take a size that R289 allows while EN is 0; HEAD moves on by up to 4,096 records that fit the ring, a record being
stamped with its LOGSEQ and CRC where it is one, or the write sets FULL (R264, R265, R291); a write of PLOG_CTRL clears REFUSED and resumes
(R290); restores and maquettes start where none is in progress (R277, R287, R294, R295). The mirror's frames and the restore in one step are
the model's (DEDUCED, log entries 40, 75). -/
def Obligations.LogRestoreAndMaquetteRegisters : Prop :=
  ∀ (a : Agent) (p : PartId) (v : W64) (s : State),
    (∀ mirror o, o = (if mirror then R.plogMirror p else R.plogRing p) → s.dev.accepts a o →
        (bits v 63 58 = 0 ∨ (10 ≤ bits v 63 58 ∧ bits v 63 58 ≤ 24)) → bit (s.dev.reg (R.plogCtrl p)) 63 = false →
      ∃ t, exec (.plogRingWrite a p mirror v) s = .next t ∧ setsFields o [(63, 58, bits v 63 58), (47, 6, bits v 47 6)] s t)
    ∧ (∀ n, s.dev.accepts a (R.plogPos p) → n = (bits v 63 32 + 2 ^ 32 - s.dev.fld (R.plogPos p) 63 32) % 2 ^ 32 →
      ((4096 < n ∨ ringLen (s.dev.plogRing p false).1 < (bits v 63 32 + 2 ^ 32 - s.dev.fld (R.plogCtrl p) 31 0) % 2 ^ 32) →
        ∃ t, exec (.plogHeadWrite a p v) s = .next t ∧ setsFields (R.plogCtrl p) [(32, 32, 1)] s t)
      ∧ (n ≤ 4096 → (bits v 63 32 + 2 ^ 32 - s.dev.fld (R.plogCtrl p) 31 0) % 2 ^ 32 ≤ ringLen (s.dev.plogRing p false).1 →
        s.dev.plogBuddy p = none →
        ∃ t, exec (.plogHeadWrite a p v) s = .next t
          ∧ setsFields (R.plogPos p) [(63, 32, bits v 63 32), (31, 0, bits v 63 32)] { s with dev := { s.dev with
              mem := t.dev.mem, poison := t.dev.poison } } t
          ∧ (n = 0 → t.dev.mem = s.dev.mem)
          ∧ (n = 1 → ∀ b, s.dev.plogAt p false (s.dev.fld (R.plogPos p) 63 32) = some b →
              t.dev.rdN (b + 0x38) 4 = s.dev.fld (R.plogPos p) 63 32 ∧ t.dev.rdN (b + 0x3C) 4 = crc32c (t.dev.rd b 60) % 2 ^ 32
              ∧ memBut (b + 0x38) (b + 0x40) s t)))
    ∧ (∀ D : Dev, s.dev.accepts a (R.plogCtrl p) → D = s.dev.writeReg (R.plogCtrl p) v → D.plogBuddy p = none →
      ∃ t, exec (.plogRefusedClear a p v) s = .next t ∧ onlyRegs [R.plogCtrl p, R.plogPos p] s t
        ∧ (bit v 33 = true → bit (t.dev.reg (R.plogCtrl p)) 33 = false) ∧ (bit v 32 = true → bit (t.dev.reg (R.plogCtrl p)) 32 = false)
        ∧ bit (t.dev.reg (R.plogCtrl p)) 63 = bit v 63 ∧ t.dev.fld (R.plogPos p) 31 0 = s.dev.fld (R.plogPos p) 63 32)
    ∧ (∀ D : Dev, s.dev.accepts a (R.plogCtrl p) → D = s.dev.writeReg (R.plogCtrl p) v → D.plogBuddy p ≠ none →
      bit (s.dev.reg (R.plogCtrl p)) 33 = true → bit v 33 = true →
      exec (.plogRefusedClear a p v) s = .next { s with
        dev := D.plogSend p (D.fld (R.plogPos p) 31 0) ((D.fld (R.plogPos p) 63 32 + 2 ^ 32 - D.fld (R.plogPos p) 31 0) % 2 ^ 32) } ∧ bit (D.reg (R.plogCtrl p)) 33 = false)
    ∧ (s.dev.accepts a (R.restoreCtrl p) → bit v 63 = true → s.dev.fld (R.restoreCtrl p) 59 56 = 0 →
      ∃ D : Dev, exec (.restoreGo a p v) s = .next { s with dev := D.restore p } ∧ setsFields (R.restoreCtrl p)
        [(62, 60, bits v 62 60), (47, 12, bits v 47 12)] s { s with dev := D })
    ∧ (s.dev.accepts a (R.restoreCtrl p) → bit v 63 = true → s.dev.fld (R.restoreCtrl p) 59 56 ≠ 0 → exec (.restoreGo a p v) s = .next s)
    ∧ (s.dev.accepts a (R.maqCtrl p) → bit v 63 = true → bit (s.dev.reg (R.maqCtrl p)) 62 = false →
      ∃ D : Dev, exec (.maqGo a p v) s = .next { s with dev := D.maqStart p } ∧ onlyRegs [R.maqCtrl p] s { s with dev := D }
        ∧ bit (D.reg (R.maqCtrl p)) 62 = true ∧ D.fld (R.maqCtrl p) 47 12 = bits v 47 12)
    ∧ (s.dev.accepts a (R.maqCtrl p) → bit v 63 = true → bit (s.dev.reg (R.maqCtrl p)) 62 = true → exec (.maqGo a p v) s = .next s)

/-! ## Queues, mailboxes, the journal (R347 to R376) -/

/-- QUEUE_CFG loads, disables and re-enables a queue, whose indices and errors stay as they are unless it is loaded (R349, R371); a COMPLETE
that is not acknowledged counts against the queue that is loaded too (R358); CI and QRETIRE move the indices within the commands that wait
(R353, R355, R357); the oldest command of a queue ages (R354); a window that closes owes its completion (R358). The journal records and two
refusals are the model's (DEDUCED, log entry 77). -/
def Obligations.QueueRegistersFollowTheirRules : Prop :=
  ∀ (a : Agent) (p : PartId) (v : W64) (s : State),
    let q := bits v 60 51
    let done := fun (t : State) => t.dev.fld (R.queueCfgStatus p) 63 56 = 0 ∧ bit (t.dev.reg (R.queueCfgStatus p)) 55 = true
    let stays := fun (t : State) => ∀ k, k < 1024 → t.dev.qPi p k = s.dev.qPi p k ∧ t.dev.qCi p k = s.dev.qCi p k
      ∧ t.dev.qCc p k = s.dev.qCc p k ∧ t.dev.qErr p k = s.dev.qErr p k
    (s.dev.accepts a (R.queueCfg p) → bit v 63 = true →
      ((s.dev.writeReg (R.queueCfg p) (putBits v 62 61 0)).queueLoadCheck p q (bits v 47 6 * 64) = none →
        ∃ t, exec (.queueLoad a p v) s = .next t
          ∧ t.dev.queue p q = some { queueImage (s.dev.rd (bits v 47 6 * 64) 64) with unacked := (s.dev.queue p q).elim 0 (·.unacked) }
          ∧ t.dev.qPi p q = 0 ∧ t.dev.qCi p q = 0 ∧ t.dev.qCc p q = 0 ∧ t.dev.qErr p q = 0 ∧ done t
          ∧ (∀ k, k ≠ q → t.dev.queue p k = s.dev.queue p k) ∧ partsBut p s t)
      ∧ (∀ x, s.dev.queue p q = some x →
        (∃ t, exec (.queueDisable a p v) s = .next t ∧ t.dev.queue p q = some { x with enabled := false } ∧ done t ∧ stays t
          ∧ (∀ k, k ≠ q → t.dev.queue p k = s.dev.queue p k) ∧ partsBut p s t)
        ∧ (∃ t, exec (.queueReenable a p v) s = .next t ∧ t.dev.queue p q = some { x with enabled := true } ∧ done t ∧ stays t
          ∧ (∀ k, k ≠ q → t.dev.queue p k = s.dev.queue p k) ∧ partsBut p s t)))
    ∧ (∀ (k : Fin 1024) (x : QueueSt), s.dev.accepts a (R.qIdx p k.val) → s.dev.queue p k.val = some x →
        dist32 (bits v 31 0) (s.dev.qCc p k.val) ≤ dist32 (s.dev.qPi p k.val) (s.dev.qCc p k.val) →
        dist32 (s.dev.qPi p k.val) (bits v 31 0) ≤ 2 ^ x.sizeLog2 →
      ∃ t, exec (.ciWrite a p k v) s = .next t ∧ onlyPart [R.qIdx p k.val] p s t ∧ t.dev.qCi p k.val = bits v 31 0
        ∧ t.dev.qPi p k.val = s.dev.qPi p k.val ∧ t.dev.queue p k.val = some { x with
          aged := x.aged && decide (dist32 (bits v 31 0) (s.dev.qCc p k.val) ≤ dist32 (s.dev.qCi p k.val) (s.dev.qCc p k.val)) })
    ∧ (∀ r n st, r = bits v 55 46 → n = bits v 15 0 → st = bits v 63 56 → s.dev.accepts a (R.qRetire p) → 0 < n →
        n ≤ dist32 (s.dev.qCi p r) (s.dev.qCc p r) →
      ∃ t, exec (.qretire a p v) s = .next t ∧ t.dev.qCc p r = (s.dev.qCc p r + n) % 2 ^ 32
        ∧ t.dev.qErr p r = (if st = 0 then s.dev.qErr p r else (s.dev.qErr p r + n) % 2 ^ 32)
        ∧ t.dev.qPi p r = s.dev.qPi p r ∧ t.dev.qCi p r = s.dev.qCi p r ∧ partsBut p s t
        ∧ ∀ x, s.dev.queue p r = some x → ∃ y, t.dev.queue p r = some y
          ∧ (st ≠ 0 → y.lastStatus.toNat = st ∧ y.lastIndex.toNat = s.dev.qCc p r) ∧ (x.notify = true → x.lost = false → y.windowOpen = true))
    ∧ (∀ (k : Fin 1024) (x : QueueSt), s.dev.queue p k.val = some x →
      (s.dev.qPi p k.val ≠ s.dev.qCi p k.val →
        ∃ t, exec (.oldestCommandWaitExpire p k) s = .next t ∧ onlyPart [] p s t ∧ t.dev.queue p k.val = some { x with aged := true })
      ∧ (x.windowOpen = true → x.lost = false → (if x.cls = 0 then 4 else 1) ≤ x.unacked →
        ∃ t, exec (.completeWindowClose p k) s = .next t ∧ onlyPart [] p s t
          ∧ t.dev.queue p k.val = some { x with windowOpen := false, closedWaiting := true })
      ∧ (x.windowOpen = true → x.lost = false → x.unacked < (if x.cls = 0 then 4 else 1) →
        ∃ D : Dev, exec (.completeWindowClose p k) s = .next { s with dev := D.completeSend p k.val { x with windowOpen := false } }
          ∧ onlyPart [] p s { s with dev := D } ∧ D.queue p k.val = some { x with windowOpen := false }))

/-- ENQUEUE places its descriptors in the ring's free slots and DOORBELL accepts those the host has placed there: PI advances and the journal records
the acceptance (R350 to R352, R362, R363); a request to a fenced partition is refused (R363). A JOURNAL_READ answers with the records from a sequence
on, as many as a frame carries (R365). Two records for 65,536 commands are the model's (DEDUCED, log entry 77). -/
def Obligations.CommandsEnterTheirQueue : Prop :=
  ∀ (r : Req) (s : State) (x : QueueSt) (q pi : Nat), q = r.qw.toNat → q < 1024 → s.dev.queue r.part q = some x → x.enabled = true →
    pi = s.dev.qPi r.part q →
    let open' := r.mgmt = true ∨ s.dev.fenced r.part = false
    let fits := fun n => dist32 pi (s.dev.qCi r.part q) + n ≤ 2 ^ x.sizeLog2 ∧ dist32 pi (s.dev.qCc r.part q) + n ≤ 2 ^ 31 - 1
    let jot := fun (t : State) (n : Nat) (first : List Byte) =>
      Tab.find t.dev.journal (r.tenant.val * 8192 + s.dev.jseq r.tenant % 8192)
        = some ((ingressRec 1 0 r (qNo r.part q) (min n 65535) pi first).bytes (s.dev.jseq r.tenant) s.dev.localCount (s.dev.gen r.part) r.part.val)
      ∧ t.dev.reg (R.jrnHead r.tenant) = BitVec.ofNat 64 (s.dev.jseq r.tenant + (n + 65534) / 65535) ∧ t.dev.parts = s.dev.parts
      ∧ regsBut [R.jrnHead r.tenant, R.qIdx r.part q] s t
    (∀ n first, n = (cmdsOf r.payload).length → first = (cmdsOf r.payload).headD [] → x.mode = 0 → r.payload.length = 64 * n → 0 < n →
        n ≤ 128 → (cmdsOf r.payload).all cmdOk = true → fits n → open' →
      ∃ t, exec (.enqueue r) s = .next t ∧ t.dev.qPi r.part q = (pi + n) % 2 ^ 32 ∧ t.dev.qCi r.part q = s.dev.qCi r.part q ∧ jot t n first
        ∧ (bit (s.dev.reg R.jrnExport) 63 = false →
          (∀ k, k < n → t.dev.rd (x.slot (pi + k)) 64 = sliceB r.payload (64 * k) 64)
          ∧ ∀ c, (∀ k, k < n → c < x.slot (pi + k) ∨ x.slot (pi + k) + 64 ≤ c) → memGet t.dev.mem c = memGet s.dev.mem c))
    ∧ (∀ np n, np = leAt r.payload 0 8 → n = dist32 np pi → x.mode = 1 → r.payload.length = 8 → np < 2 ^ 32 → 0 < n → n < 2 ^ 31 → fits n → open' →
        (∀ k, k < n → cmdOk (s.dev.rd (x.slot (pi + k)) 64) = true) →
      ∃ t, exec (.doorbell r) s = .next t ∧ t.dev.qPi r.part q = np ∧ t.dev.qCi r.part q = s.dev.qCi r.part q
        ∧ jot t n (s.dev.rd (x.slot pi) 64) ∧ (bit (s.dev.reg R.jrnExport) 63 = false → t.dev.mem = s.dev.mem))
    ∧ (r.mgmt = false → s.dev.fenced r.part = true →
      exec (.enqueue r) s = .next { s with dev := s.dev.refuseReq r 1 St.partitionReset }
        ∧ exec (.doorbell r) s = .next { s with dev := s.dev.refuseReq r 2 St.partitionReset })
    ∧ (∀ sel n first f, s.dev.flow r.flow = some f → sel = leAt r.payload 10 1 → n = leAt r.payload 8 2 → sel < 16 → sel = r.tenant.val → 0 < n → n ≤ 128 →
        r.payload.length = 16 → leAt r.payload 11 5 = 0 → first = max (leAt r.payload 0 8) (s.dev.jseq r.tenant - 8192) →
      exec (.journalRead r) s = .next { s with dev := s.dev.reply r 0xB (leBytes 8 first ++ leBytes 8 (s.dev.jseq r.tenant)
        ++ (List.range (min (min n (s.dev.roomFor f.lif f.peerIp 24 / 64)) (s.dev.jseq r.tenant - first))).flatMap (fun k =>
          (Tab.find s.dev.journal (r.tenant.val * 8192 + (first + k) % 8192)).getD [])) })

/-- A mailbox takes a word while it is empty, refuses one while it is full, and is emptied by its read (R359, R360). -/
def Obligations.MailboxesHoldOneWord : Prop :=
  ∀ (a : Agent) (k : Fin 320) (v : W64) (r : Req) (s : State),
    let emptied := fun (D : Dev) => D.mboxFull k.val = false ∧ D.reg (R.mbox k.val) = 0
      ∧ regsBut [R.mbox k.val] s { s with dev := D } ∧ (∀ j, j ≠ k.val → D.mboxFull j = s.dev.mboxFull j) ∧ D.mem = s.dev.mem
    let filled := fun (t : State) (u : W64) => t.dev.mboxFull k.val = true ∧ t.dev.reg (R.mbox k.val) = u ∧ regsBut [R.mbox k.val] s t
      ∧ (∀ j, j ≠ k.val → t.dev.mboxFull j = s.dev.mboxFull j) ∧ t.dev.parts = s.dev.parts ∧ t.dev.mem = s.dev.mem
    let open' := r.mgmt = true ∨ s.dev.fenced r.part = false
    (s.dev.accepts a (R.mbox k.val) →
      (s.dev.mboxFull k.val = false → ∃ t, exec (.mboxRegWrite a k v) s = .next t ∧ filled t v)
      ∧ (s.dev.mboxFull k.val = true → exec (.mboxRegWrite a k v) s = .next s))
    ∧ (s.dev.running = true → s.dev.agentMay a false (R.mbox k.val) = true → s.dev.mboxFull k.val = true →
      ∃ t, exec (.mboxRegRead a k) s = .next t ∧ emptied t.dev ∧ t.dev.readData = s.dev.reg (R.mbox k.val))
    ∧ (open' → s.dev.mboxOf r = .inl k.val → r.payload.length = 8 → s.dev.mboxFull k.val = false →
      ∃ t, exec (.mboxWrite r) s = .next t ∧ filled t (BitVec.ofNat 64 (leAt r.payload 0 8)))
    ∧ (open' → s.dev.mboxOf r = .inl k.val → r.payload.length = 8 → s.dev.mboxFull k.val = true →
      exec (.mboxWrite r) s = .next { s with dev := s.dev.nack r 3 St.mboxFull 0 })
    ∧ (open' → s.dev.mboxOf r = .inl k.val → r.payload = [] → s.dev.mboxFull k.val = true →
      ∃ D : Dev, exec (.mboxRead r) s = .next { s with dev := D.reply r 4 (leBytes 8 (s.dev.reg (R.mbox k.val)).toNat ++ leBytes 8 1) }
        ∧ emptied D)

/-! ## Register access and memory windows (R6, R7, R333, R334, R336) -/

/-- A plain register (CAST_CTRL, an address of an interface, a relay entry or an incident destination, MBOX_ACL) takes its RW fields and a
refused write has no effect (R7); a read returns the word and clears its RC fields (R7); REG_READ answers with the words in payload order,
REG_WRITE writes them in order and stops at the first that is refused (R336). Which agents reach a register is partly the model's (DEDUCED,
log entry 82). -/
def Obligations.RegistersReadAndWrite : Prop :=
  ∀ (a : Agent) (off : BitVec 21) (p : PartId) (v : W64) (r : Req) (s : State), s.dev.running = true →
    (∀ (o n : Nat) (ten : TenantId) (l : List (Nat × Nat)),
      (o, l) ∈ [(R.castCtrl p, [(63, 56), (55, 28), (27, 0)]), (R.lifIp0 n, [(63, 0)]), (R.lifIp1 n, [(63, 0)]), (R.lifNh n, [(47, 0)]),
        (R.rlyIp0 n, [(63, 0)]), (R.rlyIp1 n, [(63, 0)]), (R.mboxAcl n, [(63, 48), (47, 32), (31, 16), (15, 0)]), (R.incIp0 ten, [(63, 0)]),
        (R.incIp1 ten, [(63, 0)])] → off.toNat = o → s.dev.ctlCheck a true o = none →
      ∃ t, exec (.regWriteGeneric a off v) s = .next t ∧ setsFields o (l.map (fun f => (f.1, f.2, bits v f.1 f.2))) s t)
    ∧ (∀ c, s.dev.ctlCheck a true off.toNat = some c → exec (.regWriteGeneric a off v) s = .next s)
    ∧ (s.dev.ctlCheck a false off.toNat = none → ¬(0x50000 ≤ off.toNat ∧ off.toNat < 0x50A00) →
      ∃ t, exec (.rcRead a off) s = .next t ∧ t.dev.readData = s.dev.peek off.toNat ∧ regsBut [off.toNat] s t
        ∧ t.dev.reg off.toNat = clearRc (regFields off.toNat) (s.dev.reg off.toNat) ∧ t.dev.mem = s.dev.mem ∧ t.dev.parts = s.dev.parts)
    ∧ (s.dev.ctlCheck a false off.toNat = none → off.toNat = R.eccStatus p →
      ∃ t, exec (.rcRead a off) s = .next t ∧ t.dev.readData = s.dev.peek off.toNat ∧ regsBut [off.toNat] s t ∧ t.dev.mem = s.dev.mem
        ∧ t.dev.fld off.toNat 63 48 = 0 ∧ t.dev.fld off.toNat 47 32 = 0 ∧ t.dev.fld off.toNat 31 16 = 0
        ∧ ∀ i, i < 16 → bit (t.dev.reg off.toNat) i = bit (s.dev.reg off.toNat) i)
    ∧ (s.dev.ownerFlow r.flow = false → exec (.regRead r) s = .next { s with dev := s.dev.nack r 7 St.noPermission 0 }
        ∧ exec (.regWrite r) s = .next { s with dev := s.dev.nack r 8 St.noPermission 0 })
    ∧ (s.dev.ownerFlow r.flow = true → ∀ o n, o = leAt r.payload 0 8 → n = leAt r.payload 8 2 →
      (∀ l D, regHeadOk r.payload false = true → s.dev.regFits r n = true → s.dev.regReads o 0 n = .inl (l, D) →
        exec (.regRead r) s = .next { s with dev := D.reply r 7 l }
          ∧ (n = 1 → ∃ w, s.dev.regGet .owner o = .inl (w, D) ∧ l = leBytes 8 w.toNat))
      ∧ (∀ t, regHeadOk r.payload true = true →
          s.regWrites o 0 ((List.range n).map (fun k => BitVec.ofNat 64 (leAt r.payload (16 + 8 * k) 8))) = (t, none) →
        exec (.regWrite r) s = .next t ∧ (n = 1 → s.regPut .owner o (BitVec.ofNat 64 (leAt r.payload 16 8)) = (t, none)))
      ∧ (∀ t c k, regHeadOk r.payload true = true →
          s.regWrites o 0 ((List.range n).map (fun k => BitVec.ofNat 64 (leAt r.payload (16 + 8 * k) 8))) = (t, some (c, k)) →
        exec (.regWrite r) s = .next { t with dev := t.dev.nack r 8 c k } ∧ k < n))

/-- WIN_WRITE stores its data at its offset of a window that lets it, and nothing else; WIN_READ answers with the bytes in offset order (R333, R334).
An access to a channel that takes no request waits (R165) and acts when one is ready again. -/
def Obligations.WindowsReachTheirExtent : Prop :=
  ∀ (r : Req) (s : State) (off n : Nat), off = leAt r.payload 0 8 → (r.mgmt = true ∨ s.dev.fenced r.part = false) →
    (n = r.payload.length - 16 → 16 ≤ r.payload.length → r.qw ≠ 0x3FFF →
        s.dev.winCheck r true false off n (leAt r.payload 8 4) = none →
      (0 < n → s.dev.chanBusy (s.dev.winAt r + off) (s.dev.winAt r + off + n) = true →
        exec (.winWrite r) s = .next { s with dev := { s.dev with winQ := s.dev.winQ ++ [(true, r)] } })
      ∧ ((n = 0 ∨ s.dev.chanBusy (s.dev.winAt r + off) (s.dev.winAt r + off + n) = false) → ∃ t, exec (.winWrite r) s = .next t ∧ memRead t.dev.mem (s.dev.winAt r + off) n = r.payload.drop 16
        ∧ memBut (s.dev.winAt r + off) (s.dev.winAt r + off + n) s t ∧ t.dev.regs = s.dev.regs ∧ t.dev.parts = s.dev.parts
        ∧ t.dev.flows = s.dev.flows))
    ∧ (∀ f, n = leAt r.payload 8 4 → r.payload.length = 16 → 0 < n → n ≤ 2 ^ 24 → s.dev.winCheck r false false off n (leAt r.payload 12 4) = none →
      (s.dev.chanBusy (s.dev.winAt r + off) (s.dev.winAt r + off + n) = true →
        exec (.winRead r) s = .next { s with dev := { s.dev with winQ := s.dev.winQ ++ [(false, r)] } }) ∧
      (s.dev.chanBusy (s.dev.winAt r + off) (s.dev.winAt r + off + n) = false → s.dev.bad (s.dev.winAt r + off) n = false → s.dev.flow r.flow = some f → n ≤ s.dev.roomFor f.lif f.peerIp 16 →
      exec (.winRead r) s = .next { s with dev := s.dev.reply r 5 (leBytes 8 off ++ s.dev.rd (s.dev.winAt r + off) n) }))

/-! ## Flows (R322 to R331) -/

/-- A cumulative acknowledgement takes the sequences before it off the flow and the limit moves on; a NACK ends its request, or is counted
as stale, for its partition too where the request had ended with the partition's reset (R406); a CLOSE frees the context (R322, R324, R326,
R328, R332). -/
def Obligations.AcknowledgementsSettleTheFlow : Prop :=
  ∀ (n : Nat) (f : Flow) (s : State), s.dev.flow n = some f →
    (∀ m : AckMsg, m.flow = n → m.rst = false → m.ackv = true → m.sacks = [] → m.credits = [] → f.waitQ = [] → f.established = true →
        (m.isOpen = false ∨ s.dev.coll.ops = []) →
        (∀ r ∈ f.unacked, r.what = .reply) → (∀ r ∈ f.unacked, r.seq ≠ m.echo) →
      ∃ t g, exec (.ack m) s = .next t ∧ t.dev.flow n = some g ∧ g.unacked = f.unacked.filter (fun r => !seqLt r.seq m.cumAck)
        ∧ g.txLimit = (if seqLt f.txLimit m.limit then m.limit else f.txLimit) ∧ g.txNext = f.txNext ∧ g.waitQ = []
        ∧ ((∃ r ∈ f.unacked, seqLt r.seq m.cumAck = true) → g.expiries = 0)
        ∧ (∀ k, k ≠ n → t.dev.flow k = s.dev.flow k) ∧ t.dev.mem = s.dev.mem ∧ t.dev.regs = s.dev.regs)
    ∧ (∀ m : NackMsg, m.flow = n →
      (f.request m.reqSeq = none →
        ((∀ r ∈ f.unacked ++ f.awaiting, r.seq = m.reqSeq → r.what ≠ .ended) → exec (.nack m) s = .next { s with dev := s.dev.tpCount 6 })
        ∧ (∀ p r, f.ep = .part p → r ∈ f.unacked ++ f.awaiting → r.seq = m.reqSeq → r.what = .ended →
          exec (.nack m) s = .next { s with dev := (s.dev.tpCount 6).bump (R.prstStatus p) 15 0 1 }))
      ∧ (∀ r, f.request m.reqSeq = some r →
        exec (.nack m) s = .next { s with dev := ((s.dev.setFlow n (f.settled m.reqSeq)).reqFailed f m.status false r).suspectReset f m.status }
          ∧ (f.settled m.reqSeq).request m.reqSeq = none))
    ∧ (∀ r : Req, r.flow = n → (∀ p, (s.dev.part p).logOwes = false) →
      ∃ t, exec (.close r) s = .next t ∧ t.dev.flow n = none ∧ (∀ k, k ≠ n → t.dev.flow k = s.dev.flow k) ∧ t.dev.mem = s.dev.mem)

/-- A retransmission timeout sends the oldest sequence again with RETX, a moved path and the least congestion window, or the flow is lost once
MAX_EXPIRIES is reached (R328, R329, R331); an ACK that has waited its delay leaves (R327); an idle flow is closed (R324); the base round trip is
measured anew (R331). The status at the loss is the model's (DEDUCED, log entry 103). -/
def Obligations.FlowTimersExpire : Prop :=
  ∀ (n : Nat) (f : Flow) (s : State), s.dev.flow n = some f →
    (∀ r rest, f.unacked = r :: rest →
      (f.expiries + 1 < s.dev.fld R.tpCfg 47 44 →
        ∃ t g x, exec (.retransmitTimeout n) s = .next t ∧ t.dev.flow n = some g ∧ g.expiries = f.expiries + 1 ∧ g.pathOff = f.pathOff + 1
          ∧ g.cwnd = s.dev.lifMax f.lif ∧ g.unacked.head? = some x ∧ x.seq = r.seq ∧ x.retx = true ∧ x.what = r.what
          ∧ g.unacked.map (·.seq) = f.unacked.map (·.seq) ∧ (∀ k, k ≠ n → t.dev.flow k = s.dev.flow k) ∧ t.dev.mem = s.dev.mem)
      ∧ (s.dev.fld R.tpCfg 47 44 ≤ f.expiries + 1 →
        exec (.retransmitTimeout n) s = .next { s with dev := (s.dev.tpCount 12).flowLost n }))
    ∧ (f.ackDue ≠ 0 →
      ∃ t, exec (.ackDelayExpire n) s = .next t ∧ t.dev.flow n = some { f with ackDue := 0 }
        ∧ (∀ k, k ≠ n → t.dev.flow k = s.dev.flow k) ∧ t.dev.mem = s.dev.mem)
    ∧ (f.unacked = [] → f.waitQ = [] → (∀ r ∈ f.awaiting, r.what = .ended) →
      (f.established = false → ∃ t : State, exec (.flowIdleClose n) s = .next { t with dev := t.dev.plogResume } ∧ t.dev.flow n = none
        ∧ t = { s with dev := { s.dev with flows := t.dev.flows } } ∧ (∀ k, k ≠ n → t.dev.flow k = s.dev.flow k)
        ∧ ((∀ p, (s.dev.part p).logOwes = false) → t.dev.plogResume = t.dev))
      ∧ (f.established = true → exec (.flowIdleClose n) s = .next { s with dev := s.dev.send n 0x0F flClose 0 [] .closing }))
    ∧ (∃ t, exec (.ccBaseRestart n) s = .next t ∧ t.dev.flow n = some { f with baseRtt := none }
        ∧ t = { s with dev := { s.dev with flows := t.dev.flows } } ∧ ∀ k, k ≠ n → t.dev.flow k = s.dev.flow k)

/-! ## Vector engine and accumulator read path (R86 to R97) -/

/-- An elementwise FP32 instruction at the head of the engine, one segment long, without mask, writes at each element the operation of its sources
converted into the destination's format, all sources read first, and completes; nothing else in memory changes (R86, R88, R98). A tile that a VACC has
claimed is written where R94 places it, its input is freed, and the VACC goes on or completes (R92 to R96). That one command runs one segment is the
model's (DEDUCED, log entry 31). -/
def Obligations.VectorEngineWritesItsDestination : Prop :=
  (∀ (p : PartId) (s : State) (i : VIns) (x y z : Desc) (n : Nat) (op : F32 → F32 → F32),
    let line := fun (u : Desc) => u.rank = 0 ∧ u.fmt = 0 ∧ u.size.getD 0 0 = n ∧ u.stride = [1, 0, 0, 0]
    s.dev.fenced p = false → s.dev.vecPick p = some i → i.d = some x → i.s1 = some y → i.s2 = some z → i.pos = 0 →
    s.dev.vecReadCheck i = none → TWordMaskKind i.w = 0 → opf i.w 1 = false → opf i.w 3 = false → 0 < n → n ≤ 512 → kindSr x.kind = false →
    ((i.opc = 0x30 ∧ op = f32Add) ∨ (i.opc = 0x31 ∧ op = f32Sub) ∨ (i.opc = 0x32 ∧ op = f32Mul) ∨ (i.opc = 0x34 ∧ op = f32Min)
      ∨ (i.opc = 0x35 ∧ op = f32Max) ∨ (i.opc = 0x38 ∧ op = f32Div)) →
    line x → line y → line z →
    ∃ t, exec (.vectorSegment p) s = .next t
      ∧ (∀ k, k < n → ∀ a b : F32, a = toF32 (decElem 0 (s.dev.rdN (y.base + 4 * k) 4)) → b = toF32 (decElem 0 (s.dev.rdN (z.base + 4 * k) 4)) →
          t.dev.rdN (x.base + 4 * k) 4 = (convElem 0 .rne (ofF32 (op a b))).1)
      ∧ memBut x.base (x.base + 4 * n) s t ∧ partsBut p s t ∧ t.dev.flows = s.dev.flows
      ∧ ∀ j ∈ (t.dev.part p).vq, ¬(j.port.num = i.port.num ∧ j.id = i.id))
  ∧ (∀ (p : PartId) (n : Fin 2) (s : State) (i : VIns) (x : Desc) (w : W64), s.dev.fenced p = false → (s.dev.part p).claimant n = some i →
      ((s.dev.part p).inp n).status = some w → i.d = some x → bits w 63 48 = (bits i.w.w1 39 24 + i.pos) % 2 ^ 16 → bit w 6 = false →
      opf i.w 2 = false → (i.pos = 0 → s.dev.vecReadCheck i = none) → x.blocked = false → s.dev.extsBusy i.exts = false →
      (s.dev.arr p n).emit = [] →
      ∃ t, exec (.vaccTile p n) s = .next t
        ∧ (∀ D : Dev, D = (s.dev.noteTile p n w).freeInput p n →
            t.dev.mem = (D.storeSome p x (i.key p) (D.tileLanes p i x i.pos (bits w 20 15) (bits w 26 21) ((s.dev.part p).inp n).rows)).mem)
        ∧ ((t.dev.part p).inp n).status = none ∧ ((t.dev.part p).inp n).rows = [] ∧ partsBut p s t ∧ t.dev.flows = s.dev.flows
        ∧ (i.pos = bits i.w.w1 63 40 → ∀ j ∈ (t.dev.part p).vq, ¬(j.port.num = i.port.num ∧ j.id = i.id))
        ∧ (i.pos ≠ bits i.w.w1 63 40 → (t.dev.part p).claimant n = some { i with pos := i.pos + 1 }))

/-! ## Scalar cores (R109 to R113, R124) -/

/-- The scalar arithmetic writes its register and nothing else, x0 never: IALU and IALUI in the order in which R124 lists their operations,
FALU, LI. The numbering is the model's (DEDUCED, log entry 61), the comparison's result too (DESIGN CHOICE, log entry 5), a shift by 64 or
more and a conversion outside the range give values that are not stated. -/
def Obligations.ScalarArithmeticWritesItsRegister : Prop :=
  ∀ (p : PartId) (c : Fin 6) (w : KWord) (s : State) (x : Core), s.dev.coreRuns p c x (if w.x then 2 else 1) →
    (∀ (i : Instr) (a b : W64) (f : Nat), a = x.getX w.rs1 → f = w.func.toNat → f < 14 → w.x = false →
      ((i = .ialu p c w ∧ w.imm = 0 ∧ b = x.getX w.rs2) ∨ (i = .ialui p c w ∧ w.rs2 = 0 ∧ b.toInt = w.imm.toInt)) →
      ∃ t y v, exec i s = .next t ∧ onlyCore p c y s t ∧ wroteX w.rd v (x.pc + 8) x y
        ∧ (f = 0 → v = a + b) ∧ (f = 1 → v = a - b) ∧ (f = 2 → v = a &&& b) ∧ (f = 3 → v = a ||| b) ∧ (f = 4 → v = a ^^^ b)
        ∧ (f = 5 → b.toNat < 64 → v.toNat = a.toNat * 2 ^ b.toNat % 2 ^ 64) ∧ (f = 6 → b.toNat < 64 → v.toNat = a.toNat / 2 ^ b.toNat)
        ∧ (f = 7 → b.toNat < 64 → v.toInt = a.toInt / 2 ^ b.toNat) ∧ (f = 8 → v = a * b) ∧ (f = 9 → v.toInt = a.toInt * b.toInt / 2 ^ 64)
        ∧ (f = 10 → v.toInt = min a.toInt b.toInt) ∧ (f = 11 → v.toInt = max a.toInt b.toInt)
        ∧ (f = 12 → v = if a.toInt < b.toInt then 1 else 0) ∧ (f = 13 → v = if a.toNat < b.toNat then 1 else 0))
    ∧ (∀ a b : F32, a = x.getF w.rs1 → b = x.getF w.rs2 → w.x = false → w.imm = 0 →
      (∀ r : F32, ((w.func = 0 ∧ r = f32Add a b) ∨ (w.func = 1 ∧ r = f32Sub a b) ∨ (w.func = 2 ∧ r = f32Mul a b)
          ∨ (w.func = 3 ∧ r = f32Fma a b (x.getF w.rd)) ∨ (w.func = 4 ∧ r = f32Div a b) ∨ (w.func = 5 ∧ r = f32Sqrt a)
          ∨ (w.func = 6 ∧ r = f32Min a b) ∨ (w.func = 7 ∧ r = f32Max a b) ∨ (w.func = 10 ∧ r = f32OfInt (x.getX w.rs1).toInt)) →
        ∃ t y, exec (.falu p c w) s = .next t ∧ onlyCore p c y s t ∧ wroteF w.rd r x y)
      ∧ ((w.func = 8 ∨ w.func = 9) →
        ∃ t y v, exec (.falu p c w) s = .next t ∧ onlyCore p c y s t ∧ wroteX w.rd v (x.pc + 8) x y
          ∧ (w.func = 9 → ∀ u, f32ToInt a = some u → v = u)))
    ∧ (w.x = true → w.rs1 = 0 → w.rs2 = 0 → w.func = 0 → w.imm = 0 →
      ∃ t y, exec (.li p c w) s = .next t ∧ onlyCore p c y s t ∧ wroteX w.rd w.w1 (x.pc + 16) x y)

/-- LD and ST reach RS1 + IMM32 with 1, 2, 4 or 8 bytes, a register of control space with 8 (R110, R124, R6); AMO adds to or swaps 8 bytes
of scalar local memory or bonded SRAM (R124); FENCE only goes on. An access to a channel that takes no request waits (R165). FUNC's codes
and the access rules are the model's (DEDUCED, log entries 62, 64). -/
def Obligations.ScalarMemoryInstructionsReachMemory : Prop :=
  ∀ (p : PartId) (c : Fin 6) (w : KWord) (s : State) (x : Core) (a n : Nat), s.dev.coreRuns p c x 1 → w.x = false → n = w.func.toNat →
    (a = (x.getX w.rs1 + w.imm.signExtend 64).toNat → (n = 1 ∨ n = 2 ∨ n = 4 ∨ n = 8) →
      (s.dev.chanBusy a (a + n) = true → inCtl a = false →
        (w.rs2 = 0 → s.dev.coreReach p (firmwarePc p x.pc) false a n = none → exec (.ld p c w) s = .next s)
        ∧ (w.rd = 0 → s.dev.coreReach p (firmwarePc p x.pc) true a n = none → exec (.st p c w) s = .next s))
      ∧ (w.rs2 = 0 → inCtl a = false → s.dev.coreReach p (firmwarePc p x.pc) false a n = none → s.dev.chanBusy a (a + n) = false →
          s.dev.bad a n = false →
        ∃ t y, exec (.ld p c w) s = .next t ∧ onlyCore p c y s t ∧ wroteX w.rd (BitVec.ofNat 64 (s.dev.rdN a n)) (x.pc + 8) x y)
      ∧ (w.rd = 0 → inCtl a = false → s.dev.coreReach p (firmwarePc p x.pc) true a n = none → s.dev.chanBusy a (a + n) = false →
        ∃ t y, exec (.st p c w) s = .next t ∧ onlyCore p c y (withMem s t) t ∧ wroteX 0 0 (x.pc + 8) x y
          ∧ t.dev.rdN a n = (x.getX w.rs2).toNat % 2 ^ (8 * n) ∧ memBut a (a + n) s t)
      ∧ (n = 8 → inCtl a = true → a % 8 = 0 →
        (w.rs2 = 0 → ∀ v D, s.dev.regGet (coreAgent p x) (a - ctlBase) = .inl (v, D) →
          ∃ y, exec (.ld p c w) s = .next { s with dev := D.setCore p c y } ∧ wroteX w.rd v (x.pc + 8) x y)
        ∧ (w.rd = 0 → ∀ u, s.regPut (coreAgent p x) (a - ctlBase) (x.getX w.rs2) = (u, none) →
          exec (.st p c w) s = .next { u with dev := u.dev.setCore p c ((u.dev.core p c).step 1) })))
    ∧ (∀ (r : Region) (old : W64), a = (x.getX w.rs1).toNat → w.imm = 0 → n < 2 → s.dev.region a = some r → (r.kind = 1 ∨ r.kind = 3) →
      s.dev.coreReach p (firmwarePc p x.pc) true a 8 = none → s.dev.bad a 8 = false → old.toNat = s.dev.rdN a 8 →
      ∃ t y, exec (.amo p c w) s = .next t ∧ onlyCore p c y (withMem s t) t ∧ wroteX w.rd old (x.pc + 8) x y ∧ memBut a (a + 8) s t
        ∧ (n = 0 → t.dev.rdN a 8 = (old + x.getX w.rs2).toNat) ∧ (n = 1 → t.dev.rdN a 8 = (x.getX w.rs2).toNat))
    ∧ (w.rd = 0 → w.rs1 = 0 → w.rs2 = 0 → w.func = 0 → w.imm = 0 →
      ∃ t y, exec (.fence p c w) s = .next t ∧ onlyCore p c y s t ∧ wroteX 0 0 (x.pc + 8) x y)

/-- Branches and jumps move the core's program counter (R124); a wait goes on at once or when it is satisfied (R110, R129); CTLR and CTLW
reach registers of the core's own block, ISSR hands a word to the scalar issue port while its queue has room, and stops its core where the
word's opcode is not open to the port (R111, R113, R122), a vector or move word of a core's own program enters the same queue (R124),
RELEASE starts cores (R111, R113). FUNC's codes and where a released core starts are the model's (DEDUCED, log entries 61, 63, 65), when
R122's other rules are checked too (DESIGN CHOICE, log entry 119). -/
def Obligations.ScalarControlAndPortInstructions : Prop :=
  ∀ (p : PartId) (c : Fin 6) (w : KWord) (s : State) (x : Core) (a b : W64), a = x.getX w.rs1 → b = x.getX w.rs2 →
    (s.dev.coreRuns p c x 1 → w.x = false →
      (∀ met : Prop, met = ((w.func = 0 ∧ a = b) ∨ (w.func = 1 ∧ a ≠ b) ∨ (w.func = 2 ∧ a.toInt < b.toInt) ∨ (w.func = 3 ∧ b.toInt ≤ a.toInt)
          ∨ (w.func = 4 ∧ a.toNat < b.toNat) ∨ (w.func = 5 ∧ b.toNat ≤ a.toNat)) → w.func.toNat < 6 → w.rd = 0 →
        ∃ t y, exec (.bcc p c w) s = .next t ∧ onlyCore p c y s t ∧ wroteX 0 0 y.pc x y
          ∧ (met → (y.pc : Int) = ((x.pc : Int) + 8 * w.imm.toInt) % 2 ^ 48) ∧ (¬met → y.pc = x.pc + 8))
      ∧ (w.rs1 = 0 → w.rs2 = 0 → w.func = 0 →
        ∃ t y, exec (.jal p c w) s = .next t ∧ onlyCore p c y s t
          ∧ wroteX w.rd (BitVec.ofNat 64 (x.pc + 8)) (((x.pc : Int) + 8 * w.imm.toInt) % 2 ^ 48).toNat x y)
      ∧ (w.rs2 = 0 → w.func = 0 →
        ∃ t y, exec (.jalr p c w) s = .next t ∧ onlyCore p c y s t
          ∧ wroteX w.rd (BitVec.ofNat 64 (x.pc + 8)) (a + w.imm.signExtend 64).toNat x y)
      ∧ (w.rd = 0 → w.imm = 0 → s.dev.swaitBad p x w.func.toNat a = none →
        ∃ t y, exec (.swait p c w) s = .next t ∧ onlyCore p c y s t
          ∧ y = (if s.dev.swaitMet p w.func.toNat a b then { x with pc := x.pc + 8 } else { x with wait := some (w.func, a, b) }))
      ∧ (∀ k, k = (a + w.imm.signExtend 64).toNat → inCtl k = true → inBlock p (k - ctlBase) = true → w.func = 0 →
        (w.rs2 = 0 → ∀ v D, s.dev.regGet (coreAgent p x) (k - ctlBase) = .inl (v, D) →
          ∃ y, exec (.ctlr p c w) s = .next { s with dev := D.setCore p c y } ∧ wroteX w.rd v (x.pc + 8) x y)
        ∧ (w.rd = 0 → ∀ u, s.regPut (coreAgent p x) (k - ctlBase) b = (u, none) →
          exec (.ctlw p c w) s = .next { u with dev := u.dev.setCore p c ((u.dev.core p c).step 1) }))
      ∧ (w.rd = 0 → w.func = 0 → w.imm = 0 →
        (portOpen p c a = false →
          ∃ t, exec (.issr p c w) s = .next t ∧ bit (t.dev.reg (R.scalarStatus p)) (22 + c.val) = true
            ∧ bit (t.dev.reg (R.scalarStatus p)) (34 + c.val) = false ∧ t.dev.core p c = x ∧ t.dev.mem = s.dev.mem ∧ partsBut p s t)
        ∧ (portOpen p c a = true → x.queue.length < 8 →
          ∃ t y, exec (.issr p c w) s = .next t ∧ onlyCore p c y s t
            ∧ y = { x with pc := x.pc + 8, queue := x.queue ++ [(a, if bit a 55 then some b else none)] })
        ∧ (portOpen p c a = true → 8 ≤ x.queue.length → exec (.issr p c w) s = .next s))
      ∧ (c = 0 → w.rd = 0 → w.rs1 = 0 → w.rs2 = 0 → w.func = 0 → bits w.imm 31 6 = 0 →
        ∃ t, exec (.release p c w) s = .next t ∧ regsBut [R.scalarStatus p] s t ∧ partsBut p s t ∧ t.dev.mem = s.dev.mem
          ∧ t.dev.core p 0 = { x with pc := x.pc + 8 }
          ∧ ∀ k : Fin 6, ∀ run flt run' flt' : Bool, run = bit (s.dev.reg (R.scalarStatus p)) (34 + k.val) →
            flt = bit (s.dev.reg (R.scalarStatus p)) (22 + k.val) → run' = bit (t.dev.reg (R.scalarStatus p)) (34 + k.val) →
            flt' = bit (t.dev.reg (R.scalarStatus p)) (22 + k.val) →
            (bit w.imm k.val = true → run' = true ∧ flt' = (run && flt))
            ∧ (bit w.imm k.val = false → run' = run ∧ flt' = flt)
            ∧ (k ≠ 0 → (bit w.imm k.val = false ∨ run = true ∨ flt = true) → t.dev.core p k = s.dev.core p k)))
    ∧ (∀ (u : TWord) (i : Instr) (w0 : W64), ((∃ f, (i, f) ∈ vectorRows p (.s c) u ∧ w0 = encT f.opc.toNat u)
          ∨ ∃ f, (i, f) ∈ moveRows p (.s c) u ∧ w0 = encT f.opc u) →
        s.dev.coreRuns p c x u.len → s.dev.fenced p = false → s.dev.portHead p c w0 u.snd = false → x.queue.length < 8 →
      ∃ t y, exec i s = .next t ∧ onlyCore p c y s t ∧ y = { x with pc := x.pc + 8 * u.len, queue := x.queue ++ [(w0, u.snd)] })
    ∧ (∀ f n v, s.dev.core p c = x → x.wait = some (f, n, v) → s.dev.swaitMet p f.toNat n v = true →
      ∃ t y, exec (.swaitPass p c) s = .next t ∧ onlyCore p c y s t ∧ y = { x with pc := x.pc + 8, wait := none })

/-! ## Working-shard entries and collective operations (R156, R213 to R242, R249 to R258) -/

/-- A free entry lets the writers that wait for it start, an entry whose writer has written all of it takes that writer's version and is valid, and
the writer completes (R156). -/
def Obligations.ShardEntriesStartAndTag : Prop :=
  ∀ (p : PartId) (e : Fin 64) (s : State),
    (s.dev.wsbRef p e.val = 0 → s.dev.wsbState p e.val ≠ 1 →
      exec (.wsbWriteStart p e) s = .next { s with dev := s.dev.wsbStart p e.val }
      ∧ (∀ x g, (∀ (u : PartId) (n : Nat), n < 4 → s.dev.moveWaits u n (p, e.val) = false) →
          (∀ (u : PartId) (c : Fin 4), s.dev.updWaits u c (p, e.val) = false) → s.dev.collWaits (p, e.val) = [x] → s.dev.collGroup x = some g →
          exec (.wsbWriteStart p e) s = .next { s with dev := (s.dev.collGo g x).collKick }))
    ∧ ((0 < s.dev.wsbRef p e.val ∨ s.dev.wsbState p e.val = 1) → exec (.wsbWriteStart p e) s = .next s)
    ∧ (∀ w : WFill, Tab.find (s.dev.part p).fill e.val = some w → s.dev.wsbState p e.val = 1 → s.dev.fillWritten w = true →
      ∃ t, exec (.wsbFillComplete p e) s = .next t ∧ regsBut [R.wsbCtrl p e.val, R.wsbTag p e.val] s t ∧ t.dev.wsbState p e.val = 2
        ∧ t.dev.wsbTag p e.val = w.version ∧ t.dev.wsbRef p e.val = s.dev.wsbRef p e.val
        ∧ t.dev.wsbExt p e.val = s.dev.wsbExt p e.val ∧ (∀ f ∈ (t.dev.port w.part w.port).flights, f.id ≠ w.id)
        ∧ (∀ u, u ≠ p → u ≠ w.part → t.dev.part u = s.dev.part u) ∧ t.dev.mem = s.dev.mem)

/-- Segments (R226, R227, R256): one for a fenced partition is answered with a NACK (R403); one of no group or of an older epoch is dropped
and counted, one of a newer epoch is held until its epoch has come; an accepted broadcast segment is written at its offset, and a key-value
segment where its rotation lies; each is noted, so that a copy is dropped. A held segment goes on as if it arrived, and frees its slot for
the windows of its operation. Which epoch is newer at a distance of 2^31 is the model's (DEDUCED, log entry 81). -/
def Obligations.SegmentsReachTheirOperation : Prop :=
  ∀ (r : Req) (s : State) (m : SegIn) (old : Bool), m = decSeg r.payload →
    old = (seqLt r.armEp (s.dev.armEpoch r.tenant) || seqLt r.layEp (s.dev.layEpoch r.tenant)) →
    let dropped := fun (hi lo : Nat) (i : Instr) => ∃ t, exec i s = .next t
      ∧ setsFields R.collDrops [(hi, lo, min (s.dev.fld R.collDrops hi lo + 1) 0xFFFF)] s t
    (r.mgmt = false → s.dev.fenced r.part = true →
      exec (.collSeg r) s = .next { s with dev := s.dev.nack r 9 St.partitionReset 0 }
      ∧ exec (.kvBlock r) s = .next { s with dev := s.dev.nack r 0xA St.partitionReset 0 })
    ∧ (∀ (i : Instr) (kv : Bool), (i = .collSeg r ∧ kv = false ∨ i = .kvBlock r ∧ kv = true) → s.dev.fenced r.part = false →
      (s.dev.segNoSlot r kv = true → exec i s = .next s) ∧
      (s.dev.groupOf r.tenant m.grp = none → dropped 31 16 i)
      ∧ (∀ g, s.dev.groupOf r.tenant m.grp = some g → m.seg.src < g.n → (g.rank m.seg.src).ip = r.src →
        (old = true → dropped 63 48 i)
        ∧ (old = false → (r.armEp ≠ s.dev.armEpoch r.tenant ∨ r.layEp ≠ s.dev.layEpoch r.tenant) → s.dev.segNoSlot r kv = false →
          ∃ t, exec i s = .next t ∧ t = { s with dev := { s.dev with coll := { s.dev.coll with held := s.dev.coll.held ++ [r] } } })))
    ∧ (∀ x g, s.dev.fenced r.part = false → s.dev.segCheck r m false = .take x g → x.op = 4 → m.seg.cast = false → g.topo = 3 →
        g.pos m.seg.dest ≠ g.pos (x.param.toNat % 2 ^ 16) → ¬x.wroteD.contains m.seg.off → s.dev.segNoSlot r false = false →
      ∃ (D : Dev) (y : CollOp), exec (.collSeg r) s = .next { s with dev := (D.collStore g y).advertise (some (x.n, g.host m.seg.src)) }
        ∧ D = s.dev.writePayload x.d m.seg.off m.seg.elems m.seg.data ∧ y.wroteD = x.wroteD ++ [m.seg.off]
        ∧ (m.seg.src, m.seg.off, segFlags m.seg) ∈ y.got ∧ y.outq = x.outq ∧ y.n = x.n)
    ∧ (∀ x g b rot o, s.dev.fenced r.part = false → s.dev.segCheck r m true = .take x g → x.op = 6 → b = x.ring.bytes → 0 < b → rot = m.seg.off / b →
        o = m.seg.off % b → 0 < o → s.dev.segNoSlot r true = false →
      ∃ (D : Dev) (y : CollOp), exec (.kvBlock r) s = .next { s with dev := (D.collStore g y).advertise (some (x.n, g.host m.seg.src)) }
        ∧ D.mem = (s.dev.wr (x.rotAt rot + o) (sliceB m.seg.data 0 m.seg.elems)).mem ∧ y.rotLanded rot = x.rotLanded rot + m.seg.elems
        ∧ (b ≤ x.rotLanded rot + m.seg.elems → D.ctr x.part x.ctr.toNat = s.dev.ctr x.part x.ctr.toNat + 1)
        ∧ (x.rotLanded rot + m.seg.elems < b → D.regs = s.dev.regs)
        ∧ (m.seg.src, m.seg.off, segFlags m.seg) ∈ y.got)
    ∧ (∀ (n : Nat) (kv : Bool) (E : Dev), s.dev.coll.held[n]? = some r → kv = heldKv r →
        E = { s.dev with coll := { s.dev.coll with held := s.dev.coll.held.eraseIdx n } } →
      (s.dev.segCheck r m kv = .hold → exec (.heldSegmentRelease n) s = .next s)
      ∧ (∀ x g, s.dev.segCheck r m kv = .take x g →
        ∃ t D, exec (.heldSegmentRelease n) s = .next t ∧ D = (E.segTake x g m.seg).advertise (some (x.n, g.host m.seg.src))
          ∧ (t.dev = D ∨ ∃ y, y.running = true ∧ t.dev = D.grant y))
      ∧ (∀ hi lo, s.dev.segCheck r m kv = .drop hi lo →
          s.dev.coll.ops.find? (fun x => x.running && x.tenant == r.tenant && x.grp == m.grp && x.num == m.num) = none →
        ∃ t, exec (.heldSegmentRelease n) s = .next t ∧ t.dev = E.bump R.collDrops hi lo 1))

/-- A gather sends its shard once its source has its version (R228); a complete operation adds 1 to its counter and makes way (R217, R242);
a re-shard that starts makes its layout epoch the tenant's (R237, R239); a backward key-value ring sends its next rotation and frees its
next slot (R251, R252); an operation whose watchdog expires stops with TIMEOUT (R218), unless what it waits for is there, which then acts
(R26), or it waits only for a channel that retrains (R165) or a ring for its own RELEASE (R258). When an operation goes on is the model's
(DESIGN CHOICE, log entry 16). -/
def Obligations.CollectivesRunAndComplete : Prop :=
  ∀ (n : Nat) (s : State) (x : CollOp) (g : Group), s.dev.collOp n = some x → s.dev.collGroup x = some g →
    (∀ E F : Dev, x.phase = .waitSource → x.op = 1 → s.dev.extsBusy (x.memExts g) = false → E = s.dev.dstBegin x.d x.writer →
        F = (match x.auxDst g with | some a => E.dstBegin a x.writer | none => E) →
        (∀ y ∈ x.sources g, F.srcState y x.step = 0 ∧ F.badData y = false) →
      ∃ (D : Dev) (y : CollOp), exec (.cagSourceReady n) s = .next { s with dev := (D.collPut g y).collKick } ∧ y.phase = .running ∧ y.n = x.n
        ∧ (g.at (g.pos g.own) = g.own → g.pos g.own < g.n → ∀ c ∈ g.shardCuts (x.shard g) x.fmt (g.pos g.own), c.1 ∈ y.wroteD))
    ∧ (s.dev.collDone g x = true →
      exec (.collComplete n) s = .next { s with dev := s.dev.collFinish g x }
      ∧ exec (.collWatchdogExpire n) s = exec (.collComplete n) s
      ∧ ((s.dev.part x.part).castOf x.n = none → ∃ D : Dev, s.dev.collFinish g x = D.collKick ∧ D.ctr x.part x.ctr.toNat = s.dev.ctr x.part x.ctr.toNat + 1
        ∧ D.collOp n = none ∧ (∀ f ∈ (D.port x.part x.port).flights, f.id ≠ x.id) ∧ D.mem = s.dev.mem ∧ D.flows = s.dev.flows
        ∧ (∀ (u : PartId) (k : Fin 512), ¬(u = x.part ∧ k.val = x.ctr.toNat) → D.ctr u k.val = s.dev.ctr u k.val)))
    ∧ (x.op = 5 → x.running = false → (s.dev.coll.front (x.part.val * 4 + x.port.num)).map (·.n) = some n → s.dev.olderReduction x = false → s.dev.mayStart x = some true →
        seqGt x.param (s.dev.layEpoch x.tenant) = true → s.dev.crshBlocked g x = false →
      ∃ D : Dev, exec (.crshStart n) s = .next { s with dev := (D.collStart x).collKick }
        ∧ onlyRegs [R.collEpoch x.tenant] s { s with dev := D } ∧ D.layEpoch x.tenant = x.param
        ∧ D.armEpoch x.tenant = s.dev.armEpoch x.tenant)
    ∧ (∀ r, r = x.rotSent → x.op = 6 → x.phase = .running → s.dev.extsBusy (x.memExts g) = false → x.ring.mode = 1 → r < x.rotOut g → s.dev.released x (r + 1) = true →
        (r = 0 ∨ x.ring.bytes ≤ x.rotLanded r) →
      ∃ y : CollOp, exec (.ckvRotationSend n) s = .next { s with dev := s.dev.collStore g y } ∧ y.rotSent = r + 1
        ∧ y.outq.take x.outq.length = x.outq
        ∧ (y.outq.drop x.outq.length).flatMap (·.data) = s.dev.rd (x.rotAt r) x.ring.bytes)
    ∧ (x.op = 6 → x.phase = .running → x.rotFree < x.rotIn g → s.dev.slotFree g x (x.rotFree + 1) = true →
      ∃ y : CollOp, y = { x with rotFree := x.rotFree + 1 } ∧ exec (.ckvSlotFree n) s = .next { s with dev := (s.dev.putColl y).grant y })
    ∧ (x.running = true → s.dev.collArrived n x g = none →
      let exempt := s.dev.extsBusy (x.memExts g) = true ∨ x.op = 6 ∧ x.phase = .running ∧ s.dev.kvOwnWait g x = true
      (exempt → exec (.collWatchdogExpire n) s = .next s)
      ∧ (¬exempt → exec (.collWatchdogExpire n) s = .next { s with dev := s.dev.collStop x St.timeout (x.pc / 8) }))
    ∧ (∀ q : Seq, (s.dev.part x.part).castOf x.n = none → x.port = q.port → bit (s.dev.reg (R.seqStatus x.part q)) 0 = false →
      ∃ D : Dev, s.dev.collStop x St.timeout (x.pc / 8) = D.collKick ∧ D.collOp n = none ∧ D.seqState x.part q = 5
        ∧ D.fld (R.seqStatus x.part q) 63 56 = St.timeout.toNat ∧ bit (D.reg (R.seqStatus x.part q)) 0 = true ∧ D.mem = s.dev.mem)

/-! ## The partition reset (R402 to R409, R415, R416) -/

/-- A cause of R402 (a request, a missed heartbeat, a unit that hangs, a failed check of the logic) raises the fence with its REASON where
no reset is in progress, starts a new reset without a rubbing during reintegration, and sets MORE before the generation bump; a
reintegration that expires is such a new start (R403). The fence stops the scalar cores. -/
def Obligations.ResetCausesRaiseTheFence : Prop :=
  ∀ (a : Agent) (p : PartId) (u : UnitKind) (v : W64) (s : State),
    let raises := fun (i : Instr) (reason : Nat) (skip : Bool) (chans : BitVec 4) => ∃ (D : Dev) (x : ResetSt),
      exec i s = .next { s with dev := D.fenceColl p } ∧ D.prstState p = 1 ∧ D.fld (R.prstStatus p) 47 40 = reason ∧ (D.part p).rst = some x
        ∧ x.skip = skip ∧ x.retrain = chans ∧ x.failed = 0 ∧ x.startLocal = s.dev.localCount ∧ x.rub = [] ∧ D.mem = s.dev.mem
        ∧ D.gen p = s.dev.gen p ∧ (∀ c : Fin 6, bit (D.reg (R.scalarStatus p)) (34 + c.val) = false ∧ (D.core p c).wait = none)
        ∧ D.fld (R.faultHead p) 31 0 = (s.dev.fld (R.faultHead p) 31 0 + 1) % 2 ^ 32 ∧ partsBut p s { s with dev := D }
    (∀ (i : Instr) (reason : Nat) (skip : Bool) (chans : BitVec 4),
      ((i = .prstReq a p v ∧ s.dev.accepts a (R.prstCtrl p) ∧ reason = 1 ∧ skip = bit v 62 ∧ chans.toNat = bits v 61 58)
        ∨ (i = .heartbeatExpire p ∧ reason = 3 ∧ skip = false ∧ chans = 0)
        ∨ (i = .unitHangExpire p u ∧ (∃ k, (u, k) ∈ (s.dev.part p).told) ∧ reason = 2 ∧ skip = false ∧ chans = 0)
        ∨ (i = .internalCheckFailure p .partitionLogic ∧ reason = 5 ∧ skip = false ∧ chans = 0)) →
      (s.dev.prstState p = 0 → raises i reason skip chans)
      ∧ (s.dev.prstState p = 4 → raises i reason true chans)
      ∧ ((s.dev.prstState p = 1 ∨ s.dev.prstState p = 2 ∨ s.dev.prstState p = 3) →
        ∃ t, exec i s = .next t ∧ setsFields (R.prstStatus p) [(39, 39, 1)] s t))
    ∧ (s.dev.prstState p = 4 → raises (.reintegrationExpire p) 5 true 0)

/-- The steps of R403: a complete fence begins the rubbing, or skips it; the rubbing reads every source in order (R407, R408); the reset step puts the
partition's registers at their reset values, zeroes its local memories, disables its queues and frees its flows; the release advances the generation
tag and core 0 starts, or implicated channels train first (R404); READY of its firmware lifts the fence (R415). What a source shows of a
unit's inside beyond what State holds is free values (log entry 109). -/
def Obligations.ResetStepsFollowInOrder : Prop :=
  ∀ (p : PartId) (s : State) (r : ResetSt), (s.dev.part p).rst = some r →
    let D := s.dev.updFence p
    let wiped := fun (D : Dev) (t : State) => t.dev.prstState p = 3 ∧ t.dev.gen p = s.dev.gen p
      ∧ (∀ o, inBlock p o = true → resetKeeps (o % 0x10000) = false → t.dev.reg o = regReset o)
      ∧ (∀ o, inBlock p o = true → resetKeeps (o % 0x10000) = true → o ≠ R.prstStatus p → t.dev.reg o = D.reg o)
      ∧ (∀ c, ((cacheBase p ≤ c ∧ c < cacheBase p + 0x200000) ∨ (slmBase p ≤ c ∧ c < slmBase p + 0x40000)) → memGet t.dev.mem c = 0)
      ∧ (∀ e ∈ (t.dev.part p).queues, e.2.enabled = false) ∧ (∀ e ∈ t.dev.flows, e.2.ep ≠ .part p) ∧ partsBut p s t
    (s.dev.prstState p = 1 → r.skip = true → ∃ t, exec (.fenceComplete p) s = .next t ∧ wiped D t)
    ∧ (s.dev.prstState p = 1 → r.skip = false → s.dev.dbg.live = false →
      ∃ t, exec (.fenceComplete p) s = .next t ∧ onlyPart [R.prstStatus p] p { s with dev := D } t ∧ t.dev.prstState p = 2
        ∧ (t.dev.part p).rst = some { r with rubStart := s.dev.localCount, rub := [] })
    ∧ (s.dev.prstState p = 2 → r.left ≠ [] →
      (∃ t x k, exec (.rubbingSourceExpire p) s = .next t ∧ (t.dev.part p).rst = some x ∧ k < r.left.length
        ∧ x.rub.map (·.source) = r.rub.map (·.source) ++ (r.left.take (k + 1)).map (·.1)
        ∧ (∀ y, x.rub.getLast? = some y → y.noImp = true ∧ y.budget = false ∧ y.elapsed = 64000)
        ∧ t.dev.regs = s.dev.regs ∧ t.dev.mem = s.dev.mem ∧ partsBut p s t)
      ∧ (∃ t x, exec (.rubbingBudgetExpire p) s = .next t ∧ (t.dev.part p).rst = some x
        ∧ x.rub.map (·.source) = r.rub.map (·.source) ++ r.left.map (·.1) ∧ (∃ y ∈ x.rub, y.noImp = true)
        ∧ t.dev.regs = s.dev.regs ∧ t.dev.mem = s.dev.mem ∧ partsBut p s t))
    ∧ (s.dev.prstState p = 2 →
      ∃ t w, exec (.rubbingEnd p) s = .next t ∧ wiped s.dev t ∧ bit (t.dev.reg R.rubWin) 5 = !bit (s.dev.reg R.rubWin) 5
        ∧ t.dev.rubHalf (bit (t.dev.reg R.rubWin) 5) = some w ∧ w.part = p ∧ w.gen.toNat = s.dev.gen p
        ∧ w.reason.toNat = s.dev.fld (R.prstStatus p) 47 40
        ∧ w.records.map (·.source) = r.rub.map (·.source) ++ r.left.map (·.1))
    ∧ (s.dev.prstState p = 3 →
      ∃ t, exec (.resetRelease p) s = .next t ∧ t.dev.gen p = (s.dev.gen p + 1) % 4096 ∧ t.dev.prstState p = 4 ∧ partsBut p s t
        ∧ (r.retrain = 0 → bit (t.dev.reg (R.scalarStatus p)) 34 = true ∧ memBut (slmBase p) (slmBase p + 0x10000) s t)
        ∧ (r.retrain ≠ 0 → t.dev.mem = s.dev.mem ∧ ∀ c : Fin 4, c ∈ (t.dev.part p).trainQ ↔ bit r.retrain c.val = true))
    ∧ (s.dev.accepts (.partFw p) (R.prstCtrl p) →
      (s.dev.prstState p = 4 → (s.dev.part p).trainQ = [] →
        ∃ t, exec (.prstReady (.partFw p) p) s = .next t ∧ onlyPart [R.prstStatus p] p s t ∧ t.dev.fenced p = false
          ∧ t.dev.fld (R.prstStatus p) 30 16 = min 0x7FFF ((s.dev.localCount - r.startLocal).toNat / 1024) ∧ (t.dev.part p).rst = none)
      ∧ (∃ t, exec (.prstHeartbeat (.partFw p) p) s = .next t ∧ onlyPart [] p s t
        ∧ t.dev.part p = { s.dev.part p with heartbeats := (s.dev.part p).heartbeats + 1 }))

/-! ## Watchdogs, checks, the scrubber and the supply (R16, R163, R400, R401) -/

/-- An expired watchdog stops a stream with TIMEOUT (R136, R400), a scalar core (R113), or a port's oldest vector instruction, whose unit is
told to abandon it (R401); where what is waited for has arrived, that wins (R26), and a wait for a channel that retrains does not count
(R165). That the end of what holds an instruction in STATE 3 wins too, the instruction then being presented again, is the model's (DEDUCED,
log entry 130). A failed check stops a vector instruction with INTERNAL (R136); the scrubber counts a corrected word and marks a bad one,
whose data it leaves (R163); stretched cycles are counted, as array cycles too, while the clock runs (R16). -/
def Obligations.WatchdogsAndChecksStopWork : Prop :=
  ∀ (p : PartId) (s : State),
    let stops := fun (D : Dev) (x : Seq) (c : Status) => D.seqState p x = 5 ∧ D.fld (R.seqStatus p x) 63 56 = c.toNat
      ∧ bit (D.reg (R.seqStatus p x)) 0 = true ∧ D.mem = s.dev.mem ∧ partsBut p s { s with dev := D }
    (∀ x : Seq, s.dev.fenced p = false →
      let held := fun (u : State) => ∀ i t, u.dev.heldInstr p x = some i → exec i u = .next t → t.dev.seqState p x = 3
      ((s.dev.seqState p x = 2 ∧ s.dev.waitReady p x = false
          ∨ s.dev.seqState p x = 3 ∧ held s ∧ held { s with dev := s.dev.allTrained }) → bit (s.dev.reg (R.seqStatus p x)) 0 = false →
        ∃ t, exec (.seqWatchdogExpire p x) s = .next t ∧ stops t.dev x St.timeout ∧ t.dev.pc p x = s.dev.pc p x
          ∧ t.dev.fld (R.seqFaultPc p x) 47 3 = s.dev.pc p x / 8 ∧ t.dev.fld (R.faultHead p) 31 0 = (s.dev.fld (R.faultHead p) 31 0 + 1) % 2 ^ 32)
      ∧ (s.dev.seqState p x = 2 → s.dev.waitReady p x = true → exec (.seqWatchdogExpire p x) s = exec (.waitPass p x) s)
      ∧ (∀ i t, s.dev.seqState p x = 3 → s.dev.heldInstr p x = some i → exec i s = .next t →
          (t.dev.seqState p x ≠ 3 → exec (.seqWatchdogExpire p x) s = .next t)
          ∧ (held s → ¬held { s with dev := s.dev.allTrained } → exec (.seqWatchdogExpire p x) s = .next s)))
    ∧ (∀ c : Fin 6, s.dev.fenced p = false → s.dev.coreWaits p c = true → s.dev.swaitReady p c = false →
      ∃ t, exec (.scalarWatchdogExpire p c) s = .next t ∧ bit (t.dev.reg (R.scalarStatus p)) (34 + c.val) = false
        ∧ bit (t.dev.reg (R.scalarStatus p)) (22 + c.val) = true ∧ t.dev.core p c = { s.dev.core p c with wait := none }
        ∧ t.dev.mem = s.dev.mem ∧ partsBut p s t)
    ∧ (∀ (i : VIns) (x : Seq), i.port = x.port → bit (s.dev.reg (R.seqStatus p x)) 0 = false →
      (s.dev.part p).vq.find? (fun j => j.port.num == x.port.num) = some i →
      (s.dev.fenced p = false → s.dev.unitTry p .vector x.port = s.dev → s.dev.unitExempt p .vector x.port = false →
        ∃ t, exec (.unitWatchdogExpire p .vector x.port) s = .next t ∧ stops t.dev x St.timeout ∧ (.vector, 0) ∈ (t.dev.part p).told
          ∧ ∀ j ∈ (t.dev.part p).vq, ¬(j.port.num = i.port.num ∧ j.id = i.id))
      ∧ (∃ t, exec (.internalCheckFailure p (.unitInstr .vector x.port)) s = .next t ∧ stops t.dev x St.internal
          ∧ ∀ j ∈ (t.dev.part p).vq, ¬(j.port.num = i.port.num ∧ j.id = i.id)))
    ∧ (∀ k : BitVec 24,
      exec (.patrolScrub p k .clean) s = .next s
      ∧ (∃ t, exec (.patrolScrub p k .correctable) s = .next t
          ∧ setsFields (R.eccStatus p) [(63, 48, min (s.dev.fld (R.eccStatus p) 63 48 + 1) 0xFFFF)] s t)
      ∧ (∃ t, exec (.patrolScrub p k .uncorrectable) s = .next t ∧ t.dev.bad (sramBase p + 16 * k.toNat) 16 = true ∧ t.dev.mem = s.dev.mem
          ∧ bit (t.dev.reg (R.eccStatus p)) 4 = true ∧ t.dev.parts = s.dev.parts
          ∧ ∀ c n, (c + n ≤ sramBase p + 16 * k.toNat ∨ sramBase p + 16 * k.toNat + 16 ≤ c) → t.dev.bad c n = s.dev.bad c n))
    ∧ (∀ n : Nat,
      (s.dev.running = true → s.dev.prstState p ≠ 3 →
        ∃ t, exec (.supplyDroop p n) s = .next t ∧ onlyRegs [R.clkCycles p, R.clkStretch p] s t
          ∧ t.dev.reg (R.clkCycles p) = s.dev.reg (R.clkCycles p) + BitVec.ofNat 64 n
          ∧ t.dev.fld (R.clkStretch p) 47 0 = min (s.dev.fld (R.clkStretch p) 47 0 + n) (2 ^ 48 - 1)
          ∧ t.dev.fld (R.clkStretch p) 63 48 = s.dev.fld (R.clkStretch p) 63 48)
      ∧ (s.dev.running = false ∨ s.dev.prstState p = 3 → exec (.supplyDroop p n) s = .next s))

/-! ## Registers that check their word (R333, R346, R376, R417 to R419, R466, R467, R470) -/

/-- A register that checks what is written takes a legal word's fields, and a word it refuses leaves everything as it was: WDOG_CFG, RUB_EXPt,
JRN_EXPORT, RLY_CFGk, PWR_CAP, IND_CTRL, ALERT_CTRL, WIN_CTRLt_w. That one write of IND_CTRL or ALERT_CTRL may hand a line from one holder to the
other (R466, R470) is the model's (DEDUCED, log entry 95). -/
def Obligations.CheckedRegistersTakeLegalWords : Prop :=
  ∀ (a : Agent) (p : PartId) (ten : TenantId) (k w : Fin 64) (v : W64) (s : State),
    (∀ (i : Instr) (o : Nat) (legal : Prop) (l : List (Nat × Nat)),
      ((i = .wdogCfgWrite a p v ∧ o = R.wdogCfg p ∧ legal = (∀ j, j < 7 → 16 ≤ bits v (33 + 5 * j) (29 + 5 * j) ∧ bits v (33 + 5 * j) (29 + 5 * j) ≤ 30)
          ∧ l = [(63, 59), (58, 54), (53, 49), (48, 44), (43, 39), (38, 34), (33, 29)])
        ∨ (i = .rubExpEnable a ten v ∧ o = R.rubExp ten ∧ legal = (bit v 63 = true → s.dev.dmaHolder ≠ 2
            ∧ s.dev.tenantMem ten (bits v 47 22 * 2 ^ 22) (bits v 47 22 * 2 ^ 22 + 2 ^ 22) = true) ∧ l = [(63, 63), (47, 22)])
        ∨ (i = .jrnExportEnable a v ∧ o = R.jrnExport ∧ legal = (bit v 63 = true → s.dev.dmaHolder ≠ 1
            ∧ s.dev.tenantMem (Fin.ofNat 16 (bits v 62 59)) (bits v 47 19 * 2 ^ 19) (bits v 47 19 * 2 ^ 19 + 2 ^ 19) = true)
          ∧ l = [(63, 63), (62, 59), (47, 19)])
        ∨ (i = .rlyCfgWrite a k v ∧ o = R.rlyCfg k.val ∧ legal = (bit v 63 = true → s.dev.lifTenant (bits v 58 52) = some (Fin.ofNat 16 (bits v 62 59)))
          ∧ l = [(63, 63), (62, 59), (58, 52), (47, 0)])
        ∨ (i = .pwrCapWrite a v ∧ o = R.pwrCap ∧ legal = (250 ≤ bits v 9 0 ∧ bits v 9 0 ≤ 600) ∧ l = [(9, 0)])
        ∨ (i = .indCtrlWrite a v ∧ o = R.indCtrl ∧ legal = (¬(bit v 0 = true ∧ bit v 1 = true) ∧ ¬(bit v 2 = true ∧ bit v 3 = true))
          ∧ l = [(3, 3), (2, 2), (1, 1), (0, 0)])) →
      s.dev.accepts a o →
      (legal → ∃ t, exec i s = .next t ∧ setsFields o (l.map (fun f => (f.1, f.2, bits v f.1 f.2))) s t)
      ∧ (¬legal → exec i s = .next s))
    ∧ (s.dev.accepts a R.alertCtrl →
      (¬(bit v 0 = true ∧ bit v 1 = true) →
        ∃ t, exec (.alertCtrlWrite a v) s = .next t ∧ t.dev.fld R.alertCtrl 1 0 = bits v 1 0 ∧ regsBut [R.alertCtrl] s t
          ∧ t.dev.boot = { s.dev.boot with alertLow := if s.dev.fld R.alertCtrl 1 0 = bits v 1 0 then s.dev.boot.alertLow
              else (bit v 0 && s.dev.fld R.thermStatus 3 0 != 0) }
          ∧ t.dev.parts = s.dev.parts ∧ t.dev.mem = s.dev.mem)
      ∧ (bit v 0 = true → bit v 1 = true → exec (.alertCtrlWrite a v) s = .next s))
    ∧ (∀ o n, o = R.winCtrl ten w.val → n = bits v 55 32 * 4096 → s.dev.running = true →
      (a = .owner ∨ ∃ q, a = .partFw q ∧ s.dev.holds ten q = true) →
      ((bit v 63 = true → 0 < n ∧ s.dev.tenantHolds ten (s.dev.winLo ten w.val) (s.dev.winLo ten w.val + n) = true) →
        ∃ t, exec (.winCtrlWrite a ten w v) s = .next t ∧ setsFields o
          [(63, 63, bits v 63 63), (62, 62, bits v 62 62), (61, 61, bits v 61 61), (55, 32, bits v 55 32), (31, 0, bits v 31 0)] s t)
      ∧ (bit v 63 = true → (n = 0 ∨ s.dev.tenantHolds ten (s.dev.winLo ten w.val) (s.dev.winLo ten w.val + n) = false) →
          exec (.winCtrlWrite a ten w v) s = .next s))

/-! ## Tenants (R378 to R381) -/

/-- The tenant table takes a word that keeps the table's conditions, and no other (R379); a partition that it removes is fenced, belongs to no tenant,
loses the windows that touch it and is marked for its scrub (R381); provisioning clears what the tenant holds, closes its incidents with its armature
epoch (R413) and resets its partitions (R380); the
scrub zeroes the partition's memory and puts back what a partition reset alone leaves (R381). Partitions without a tenant and PROV with an addition
are the model's (DEDUCED, log entry 87). -/
def Obligations.TenantTableGovernsPartitions : Prop :=
  ∀ (a : Agent) (ten : TenantId) (v : W64) (s : State),
    (∀ (r : TenReg) (N : Dev), s.dev.accepts a (tenOff ten r) → N = s.dev.writeReg (tenOff ten r) v →
      (N.tableOk = false → exec (.tenantTableWrite a ten r v) s = .next s)
      ∧ (N.tableOk = true → (r = .cfg → bit v 62 = false) → r ≠ .lim → (∀ p, N.holds ten p = s.dev.holds ten p) →
        ∃ t, exec (.tenantTableWrite a ten r v) s = .next t
          ∧ (r = .cfg → setsFields (R.tenCfg ten) [(63, 63, bits v 63 63), (47, 32, bits v 47 32), (31, 20, bits v 31 20), (19, 7, bits v 19 7)] s t)
          ∧ (r = .lif → setsFields (R.tenLif ten) [(63, 56, bits v 63 56), (55, 0, bits v 55 0)] s t))
      ∧ (r = .lim → N.tableOk = true → ∃ t, exec (.tenantTableWrite a ten .lim v) s = .next { t with dev := t.dev.collKick }
          ∧ setsFields (R.tenLim ten) [(63, 48, bits v 63 48), (47, 38, bits v 47 38), (37, 27, bits v 37 27)] s t)
      ∧ (∀ p : PartId, r = .cfg → N.tableOk = true → bit v 62 = false → s.dev.holds ten p = true → N.holds ten p = false →
          (∀ q, q ≠ p → N.holds ten q = s.dev.holds ten q) → s.dev.prstState p = 0 →
        ∃ (D : Dev) (x : ResetSt), exec (.tenantTableWrite a ten r v) s
            = .next { s with dev := (D.fenceColl p).setFlag R.secStatus (16 + p.val) true }
          ∧ D.holds ten p = false ∧ D.prstState p = 1 ∧ D.fld (R.prstStatus p) 47 40 = 6 ∧ (D.part p).rst = some x ∧ x.skip = true
          ∧ D.mem = s.dev.mem ∧ ∀ w, w < 64 → N.winTouches ten w p = true → bit (D.reg (R.winCtrl ten w)) 63 = false))
    ∧ (s.dev.accepts a (R.tenCfg ten) → s.dev.tenantValid ten = true → s.dev.tableOk = true →
      ∃ D : Dev, exec (.tenantProvision a ten) s = .next { s with dev := D.each (s.dev.partsOf ten) (fun d p => d.resetCause p 7 true 0 0) }
        ∧ D.reg (R.jrnHead ten) = 0 ∧ D.reg (R.collEpoch ten) = 0 ∧ (∀ e ∈ D.coll.groups, e.2.tenant ≠ ten)
        ∧ (∀ w, w < 64 → bit (D.reg (R.winCtrl ten w)) 63 = false)
        ∧ (∀ k, k < 64 → s.dev.fld (R.rlyCfg k) 62 59 = ten.val → bit (D.reg (R.rlyCfg k)) 63 = false)
        ∧ (s.dev.armEpoch ten ≠ 0 → ∀ n e, Tab.find D.inc n = some e → e.isOpen = true → e.tenant ≠ ten.val)
        ∧ (∀ e ∈ D.flows, e.2.tenant = ten → e.2.ownerIf = true) ∧ D.mem = s.dev.mem)
    ∧ (s.dev.accepts a (R.tenCfg ten) → s.dev.tenantValid ten = false → exec (.tenantProvision a ten) s = .next s)
    ∧ (∀ p : PartId, bit (s.dev.reg R.secStatus) (16 + p.val) = true → (s.dev.part p).rst = none →
      ∃ t, exec (.scrubComplete p) s = .next t ∧ bit (t.dev.reg R.secStatus) (16 + p.val) = false
        ∧ (∀ c, ((sramBase p ≤ c ∧ c < sramBase p + 2 ^ 28) ∨ (dramBase p ≤ c ∧ c < dramBase p + 2 ^ 36)) → memGet t.dev.mem c = 0)
        ∧ (∀ c, ¬((sramBase p ≤ c ∧ c < sramBase p + 2 ^ 28) ∨ (dramBase p ≤ c ∧ c < dramBase p + 2 ^ 36)) →
            memGet t.dev.mem c = memGet s.dev.mem c)
        ∧ (∀ o, (o = R.plogRing p ∨ o = R.plogMirror p ∨ o = R.plogCtrl p ∨ o = R.plogPos p) → t.dev.reg o = regReset o)
        ∧ (∀ c : Fin 4, t.dev.reg (R.updOpen p c) = 0) ∧ t.dev.fld (R.memPin p) 47 40 = s.dev.fld (R.memPin p) 7 0 / 2
        ∧ t.dev.locked p = false ∧ t.dev.parts = s.dev.parts)

/-! ## Incidents (R411 to R413, R421, R422) -/

/-- A report joins the open incident of its key, opens a new one, or overflows (R413); an open incident's record leaves for its tenant's endpoint, or
counts as sent where none is enabled (R422); a sent and quiet incident closes (R413). The entry taken and an entry without a destination are the
model's (DEDUCED, log entry 69). -/
def Obligations.ReportsAndIncidents : Prop :=
  ∀ (n : Fin 256) (r : Req) (s : State) (l : List Byte) (k : IncKey), l = r.payload →
      k = ⟨r.tenant.val, leAt l 4 4, leAt l 8 1, leAt l 0xA 2 % 4096, BitVec.ofNat 8 (leAt l 9 1)⟩ →
    (r.mgmt = true → l.length = 64 → k.status ≠ St.memberLost →
      (s.dev.incFind k = some n.val →
        ∃ t, exec (.faultReport r) s = .next t ∧ regsBut [R.inc n.val 3, R.inc n.val 5] s t
          ∧ t.dev.fld (R.inc n.val 3) 31 0 = min (s.dev.fld (R.inc n.val 3) 31 0 + leAt l 0x18 4) (2 ^ 32 - 1)
          ∧ t.dev.reg (R.inc n.val 5) = s.dev.localCount ∧ t.dev.mem = s.dev.mem ∧ t.dev.parts = s.dev.parts)
      ∧ (s.dev.incFind k = none → s.dev.incSlot = some n.val →
        ∃ t, exec (.faultReport r) s = .next t ∧ t.dev.incKey n.val k.tenant = k ∧ bits (t.dev.reg (R.inc n.val 0)) 31 0 = 1
          ∧ t.dev.reg (R.inc n.val 2) = BitVec.ofNat 64 (s.dev.fld R.incStatus 39 0)
          ∧ t.dev.fld R.incStatus 39 0 = (s.dev.fld R.incStatus 39 0 + 1) % 2 ^ 40
          ∧ t.dev.fld (R.inc n.val 3) 31 0 = leAt l 0x18 4 ∧ (∃ e, Tab.find t.dev.inc n.val = some e ∧ e.isOpen = true ∧ e.sent = false
            ∧ e.tenant = r.tenant.val) ∧ t.dev.mem = s.dev.mem ∧ t.dev.parts = s.dev.parts)
      ∧ (s.dev.incFind k = none → s.dev.incSlot = none →
        ∃ t, exec (.faultReport r) s = .next t ∧ setsFields R.incStatus [(55, 40, min (s.dev.fld R.incStatus 55 40 + 1) 0xFFFF)] s t))
    ∧ (∀ (e : IncSt) (ten : TenantId) (E : Dev), Tab.find s.dev.inc n.val = some e → e.isOpen = true →
      (e.sent = false → e.tenant = ten.val → E = { s.dev with inc := Tab.put s.dev.inc n.val { e with sent := true } } →
        (bit (s.dev.reg (R.incDest ten)) 63 = false → exec (.incidentSend n) s = .next { s with dev := E })
        ∧ (∀ i f D, bit (s.dev.reg (R.incDest ten)) 63 = true → s.dev.tenantLif ten (s.dev.fld (R.incDest ten) 62 60) = some i →
            E.flowTo ten .mgmt i (E.lifClass i 1)
              (BitVec.ofNat 128 ((s.dev.reg (R.incIp0 ten)).toNat * 2 ^ 64 + (s.dev.reg (R.incIp1 ten)).toNat))
              (BitVec.ofNat 16 (if s.dev.fld (R.incDest ten) 59 44 = 0 then 51430 else s.dev.fld (R.incDest ten) 59 44)) (E.lifNext i) 0 false
              = some (f, D) →
            exec (.incidentSend n) s = .next { s with dev := D.send f 0x0E 0 0 (D.incBytes n.val) (.incident n.val) }))
      ∧ (e.sent = true →
        ∃ t, exec (.incidentClose n) s = .next t ∧ Tab.find t.dev.inc n.val = some { e with isOpen := false } ∧ regsBut [R.incStatus] s t
          ∧ t.dev.fld R.incStatus 63 56 = min 255 (t.dev.inc.countP (fun z => z.2.isOpen)) ∧ t.dev.parts = s.dev.parts ∧ t.dev.mem = s.dev.mem))

/-! ## Debug access and attestation (R386, R390 to R398) -/

/-- A token whose checks all pass opens the paths of its SCOPE until its LIMIT, and no other opens any; each attempt draws a challenge and
shows its code (R394, R397, R398); CLOSE and LIMIT close every path; a probe is let in while the JTAG path is open (R386). The code of a
token that does not match is the model's (DESIGN CHOICE, log entry 86), and that a probe changes nothing but the record that it was let in
(DESIGN CHOICE, log entry 89). -/
def Obligations.DebugOpensByToken : Prop :=
  ∀ (a : Agent) (s : State) (l : List Byte) (scope : W64), l = s.dev.secBuf → scope.toNat = leAt l 0x50 8 →
    let shown := fun (t : State) => bit (t.dev.reg R.dbgStatus) 63 = (t.dev.dbg.jtag || !bit s.fuse.debug 0)
      ∧ bit (t.dev.reg R.dbgStatus) 62 = (t.dev.dbg.live || !bit s.fuse.debug 1)
    let shut := fun (t : State) => t.dev.dbg = { s.dev.dbg with jtag := false, live := false, limit := 0 } ∧ shown t
      ∧ t = { s with dev := { s.dev with dbg := t.dev.dbg, regs := t.dev.regs } } ∧ regsBut [R.dbgStatus] s t
    (s.dev.accepts a R.dbgCtrl →
      (∀ key, sliceB l 0 64 = s.dev.identityHash →
          sliceB l 0x40 16 = leBytes 8 (s.dev.reg (R.dbgChal 0)).toNat ++ leBytes 8 (s.dev.reg (R.dbgChal 1)).toNat → zeros l 0x61 31 = true →
          bits scope 63 32 = 0 → bits scope 15 2 = 0 → s.flash.ownerKey (leAt l 0x60 1) = some key →
          Config.falconVerify key (Config.shake256 (0x02 :: sliceB l 0 128)) (sliceB l 128 1280) = true →
          (bit scope 1 = true → s.dev.dbgHolder ≠ 1) →
        ∃ t, exec (.dbgOpen a) s = .next t ∧ t.dev.dbg.jtag = bit scope 0 ∧ t.dev.dbg.live = bit scope 1 ∧ t.dev.dbg.limit.toNat = leAt l 0x58 8
          ∧ shown t ∧ t.dev.fld R.dbgStatus 55 48 = St.ok.toNat ∧ t.dev.fld R.dbgStatus 47 32 = bits scope 31 16
          ∧ regsBut [R.dbgStatus, R.dbgChal 0, R.dbgChal 1] s t ∧ t.fuse = s.fuse ∧ t.flash = s.flash ∧ t.dev.mem = s.dev.mem)
      ∧ (sliceB l 0 64 ≠ s.dev.identityHash → s.tokenCheck = St.badDescriptor)
      ∧ (s.tokenCheck ≠ St.ok →
        ∃ t, exec (.dbgOpen a) s = .next t ∧ t.dev.dbg = s.dev.dbg ∧ t.dev.fld R.dbgStatus 55 48 = s.tokenCheck.toNat
          ∧ bit (t.dev.reg R.dbgStatus) 63 = bit (s.dev.reg R.dbgStatus) 63 ∧ bit (t.dev.reg R.dbgStatus) 62 = bit (s.dev.reg R.dbgStatus) 62
          ∧ t.dev.reg (R.dbgChal 0) = s.dev.free.1 ∧ t.dev.reg (R.dbgChal 1) = s.dev.free.2.free.1
          ∧ regsBut [R.dbgStatus, R.dbgChal 0, R.dbgChal 1, R.secStatus] s t ∧ t.fuse = s.fuse ∧ t.flash = s.flash ∧ t.dev.mem = s.dev.mem)
      ∧ (∃ t, exec (.dbgClose a) s = .next t ∧ shut t))
    ∧ ((s.dev.dbg.jtag = true ∨ s.dev.dbg.live = true) → ∃ t, exec .debugLimitExpire s = .next t ∧ shut t)
    ∧ (exec .jtagAccess s = .next { s with dev := { s.dev with dbg := { s.dev.dbg with
        lastJtag := some (bit (s.dev.reg R.dbgStatus) 63) } } })

/-- ATTEST (R391 to R393): a report carries the request's nonce under the alias key's signature and renews the flow's challenge; the owner response of
a registered key makes the flow an owner session; a claim fills an empty slot, a rotation replaces a key under the other one; a signature that fails
is counted; the certificate is the identity key's. When the challenge is consumed, and how a reply longer than a frame is cut, are the model's (DESIGN
CHOICE, log entry 86). -/
def Obligations.AttestationAnswersRequests : Prop :=
  ∀ (r : Req) (s : State) (f : Flow) (l : List Byte), l = r.payload → r.mgmt = true → s.dev.attestRoom = true → s.dev.flow r.flow = some f →
    let reports := fun (i : Instr) (F : Flash) (owner : Bool) => ∃ (D : Dev) (body c : List Byte),
      exec i s = .next { s with
        flash := F,
        dev := D.replyCut r 0xD (body ++ sliceB (Config.falconSign s.dev.boot.aliasSecret (Config.shake256 body)) 0 1280) }
      ∧ body.length = 0x1708 ∧ sliceB body 8 64 = sliceB l 0 64 ∧ sliceB body 72 64 = s.dev.identityHash
      ∧ D.flow r.flow = some { f with owner := owner, challenge := some c } ∧ (∀ k, k ≠ r.flow → D.flow k = s.dev.flow k)
      ∧ D.fld R.secStatus 47 32 = min (s.dev.fld R.secStatus 47 32 + 1) 0xFFFF ∧ D.mem = s.dev.mem ∧ D.parts = s.dev.parts
    let refuses := fun (i : Instr) (c : Status) => ∃ D : Dev, exec i s = .next { s with dev := D.nack r 0xD c 0 }
      ∧ D.flow r.flow = some { f with challenge := none }
      ∧ (c = St.signatureInvalid → D.fld R.secStatus 63 48 = min (s.dev.fld R.secStatus 63 48 + 1) 0xFFFF)
    let mayOwn := s.dev.sessions < 4 ∨ s.dev.ownerFlow r.flow = true
    (l.length = 64 → reports (.attestReport r) s.flash f.owner)
    ∧ (∀ k, formOk l 1 1352 = true → s.flash.ownerKey (attestSlot l) = some k →
      (s.ownerSigOk r k (sliceB l 72 1280) = true → mayOwn → reports (.attestOwnerResponse r) s.flash true)
      ∧ (s.ownerSigOk r k (sliceB l 72 1280) = true → ¬mayOwn → refuses (.attestOwnerResponse r) St.queueFull)
      ∧ (s.ownerSigOk r k (sliceB l 72 1280) = false → refuses (.attestOwnerResponse r) St.signatureInvalid))
    ∧ (∀ sl, sl = attestSlot l → sl ≤ 1 → zeros l 1865 7 = true →
      let stored := s.flash.setKey sl (attestKey l)
      (formOk l 2 4432 = true →
        ((s.flash.ownerKey sl).isSome = true → refuses (.attestClaim r) St.noPermission)
        ∧ (s.flash.ownerKey sl = none →
            Config.vendorVerify s.fuse.keyHash0 s.fuse.keyHash1 s.fuse.keyRevoke (s.claimDigest 0x04 l) (sliceB l 1872 1280) = true →
            s.ownerSigOk r (attestKey l) (sliceB l 3152 1280) = true → mayOwn → reports (.attestClaim r) stored true))
      ∧ (∀ k, formOk l 3 4432 = true → s.flash.ownerKey (1 - sl) = some k →
          Config.falconVerify k (s.claimDigest 0x03 l) (sliceB l 1872 1280) = true →
          s.ownerSigOk r (attestKey l) (sliceB l 3152 1280) = true → mayOwn → reports (.attestRotation r) stored true))
    ∧ (formOk l 4 72 = true →
      ∃ D : Dev, exec (.attestIdentityCert r) s
          = .next { s with dev := D.replyCut r 0xD (sliceB s.dev.boot.identityPublic 0 1800 ++ sliceB s.flash.vendorCert 0 1280) }
        ∧ D.regs = s.dev.regs ∧ D.flows = s.dev.flows ∧ D.mem = s.dev.mem)

/-! ## Firmware commands, handover and start (R386, R426, R431 to R437) -/

/-- PROGRAM writes the staging buffer to its flash range and nothing else, never the active bank (R432); VERIFY gives its bank's result; COMMIT makes
a verified bank active; SVN raises its class's fuse counter, no other (R386, R432); a command that is refused whole shows its status and is done
(R437). VERIFY's details and some refusals are the model's (DEDUCED, log
entries 6, 90). -/
def Obligations.FirmwareCommandsActOnFlash : Prop :=
  ∀ (v w : W64) (s : State),
    let may := fun (op : Nat) => w = fwWord op v ∧ s.dev.running = true ∧ s.dev.fwBad w = none
    let done := fun (t : State) (c : Status) => t.dev.fld R.fwStatus 63 56 = c.toNat ∧ t.dev.fwState = 0 ∧ bit (t.dev.reg R.fwStatus) 51 = true
      ∧ regsBut [R.fwStatus, R.fwCmd, R.bootStatus] s t ∧ t.dev.mem = s.dev.mem ∧ t.dev.parts = s.dev.parts
    (∀ lo n, lo = fwOffset w * 0x1000 → n = fwLength w * 0x1000 → may 0 →
      (s.flash.programBad (fwLength w) lo (lo + n) = none →
        ∃ t, exec (.fwProgram .owner v) s = .next t ∧ done t St.ok ∧ t.fuse = s.fuse ∧ t.flash = { s.flash with bytes := t.flash.bytes }
          ∧ (∀ i b, i < n → (s.dev.stageBytes n)[i]? = some b → t.flash.byte (lo + i) = b) ∧ (s.dev.stageBytes n).length = n
          ∧ (∀ a, (a < lo ∨ lo + n ≤ a) → t.flash.byte a = s.flash.byte a)
          ∧ (meets lo (lo + n) (bankBase false) (bankBase false + 0x3E00000) = true → t.dev.boot.verified false = false)
          ∧ (meets lo (lo + n) (bankBase true) (bankBase true + 0x3E00000) = true → t.dev.boot.verified true = false))
      ∧ (0 < fwLength w → fwLength w ≤ 16 → lo + n ≤ 0x8000000 →
          meets lo (lo + n) (bankBase s.flash.active) (bankBase s.flash.active + 0x3E00000) = true →
        ∃ t, exec (.fwProgram .owner v) s = .next t ∧ done t St.noPermission ∧ t.flash = s.flash ∧ t.fuse = s.fuse))
    ∧ (may 1 →
      ∃ t, exec (.fwVerify .owner v) s = .next t ∧ t.fuse = s.fuse ∧ t.flash = s.flash
        ∧ (bankReason s.fuse s.flash (fwBank w) = none → done t St.ok ∧ t.dev.boot.verified (fwBank w) = true)
        ∧ (bankReason s.fuse s.flash (fwBank w) ≠ none → done t St.signatureInvalid
            ∧ t.dev.boot.verified (fwBank w) = s.dev.boot.verified (fwBank w))
        ∧ t.dev.boot.verified (!fwBank w) = s.dev.boot.verified (!fwBank w))
    ∧ (may 4 →
      (s.dev.boot.verified (fwBank w) = true →
        ∃ t, exec (.fwCommit .owner v) s = .next t ∧ done t St.ok ∧ t.flash = s.flash.setActive (fwBank w) ∧ t.flash.active = fwBank w ∧ t.fuse = s.fuse
          ∧ bit (t.dev.reg R.bootStatus) 51 = fwBank w)
      ∧ (s.dev.boot.verified (fwBank w) = false →
        ∃ t, exec (.fwCommit .owner v) s = .next t ∧ done t St.badDescriptor ∧ t.flash = s.flash ∧ t.fuse = s.fuse))
    ∧ (∀ c n, c = fwComponent w → n = fwOffset w → may 5 →
      (n ≤ 64 → s.flash.svnBeyond c n = false →
        ∃ t, exec (.fwSvn .owner v) s = .next t ∧ done t St.ok ∧ t.fuse.svn c = max (s.fuse.svn c) n ∧ t.flash = s.flash
          ∧ t.fuse = { s.fuse with svnS1 := t.fuse.svnS1, svnMgmt := t.fuse.svnMgmt, svnPart := t.fuse.svnPart, svnMisc := t.fuse.svnMisc }
          ∧ (∀ k, (k = 0 ∨ k = 1 ∨ k = 2 ∨ k = 18) → (k ≠ c ∧ ¬(k = 18 ∧ c = 19)) → t.fuse.svn k = s.fuse.svn k))
      ∧ ((64 < n ∨ s.flash.svnBeyond c n = true) →
        ∃ t, exec (.fwSvn .owner v) s = .next t ∧ done t St.boundExceeded ∧ t.flash = s.flash ∧ t.fuse = s.fuse))
    ∧ (∀ (i : Instr) (op : Nat) (e : BitVec 32) (c : Status), (i, op) ∈ [(.fwProgram .owner v, 0), (.fwVerify .owner v, 1), (.fwActivate .owner v, 2),
          (.fwTables .owner v, 3), (.fwCommit .owner v, 4), (.fwSvn .owner v, 5), (.fwPlinth .owner v, 6), (.fwExit .owner v, 7), (.fwDiag .owner v e, 8)] →
        s.dev.running = true → s.dev.fwBad (fwWord op v) = some c →
      ∃ t, exec i s = .next t ∧ setsFields R.fwStatus [(63, 56, c.toNat), (51, 51, 1)] s t)

/-- ACTIVATE brings an accepted image of a bank into service by component and refuses any other (R432, R433); TABLES loads the pending image's tables;
PLINTH and EXIT end in module reset, with their entry in the reason log or the start counter at 0 (R424, R431); DIAG answers in DETAIL (R432).
ACTIVATE of stage 1, DIAG and the reason log's entries are the model's (DEDUCED, log entries 91, 92). -/
def Obligations.FirmwareCommandsChangeService : Prop :=
  ∀ (v w : W64) (s : State),
    let may := fun (op : Nat) => w = fwWord op v ∧ s.dev.running = true ∧ s.dev.fwBad w = none
    let done := fun (t : State) (c : Status) => t.dev.fld R.fwStatus 63 56 = c.toNat ∧ t.dev.fwState = 0 ∧ bit (t.dev.reg R.fwStatus) 51 = true
      ∧ t.fuse = s.fuse ∧ t.flash = s.flash
    (∀ l, may 2 → s.flash.image (fwBank w) (imageOf (fwComponent w)) = some l →
      (imageBad s.fuse l ≠ none → fwComponent w ≠ 0 →
        ∃ t, exec (.fwActivate .owner v) s = .next t ∧ done t St.signatureInvalid ∧ t.dev.meas = s.dev.meas ∧ t.dev.mem = s.dev.mem)
      ∧ (imageBad s.fuse l = none →
        (fwComponent w = 1 → ∃ t m, exec (.fwActivate .owner v) s = .next t ∧ t.dev.fwState = 4 ∧ Tab.find t.dev.meas 1 = some m
          ∧ m.digest = imgDigest l ∧ t.dev.boot.oldMeas = Tab.find s.dev.meas 1 ∧ t.dev.mem = s.dev.mem ∧ t.dev.parts = s.dev.parts)
        ∧ (fwComponent w = 2 → ∃ t k, exec (.fwActivate .owner v) s = .next t ∧ done t St.ok ∧ t.dev.boot.pendImage = some k
          ∧ t.dev.image k = l ∧ t.dev.mem = s.dev.mem ∧ t.dev.parts = s.dev.parts
          ∧ ∀ p : PartId, bit (t.dev.reg R.fwStatus) (33 + p.val) = (fwPart w p || bit (s.dev.reg R.fwStatus) (33 + p.val)))
        ∧ (fwComponent w = 18 → fwParts w ≠ [] → ∃ t k, exec (.fwActivate .owner v) s = .next t ∧ t.dev.fwState = 5 ∧ t.dev.image k = l
          ∧ ∀ p : PartId, (t.dev.part p).microPending = (if fwPart w p then some k else (s.dev.part p).microPending))
        ∧ (fwComponent w = 19 → ∃ t m, exec (.fwActivate .owner v) s = .next t ∧ done t St.ok ∧ Tab.find t.dev.meas 19 = some m
          ∧ m.digest = imgDigest l ∧ t.dev.mem = s.dev.mem ∧ t.dev.parts = s.dev.parts)))
    ∧ (∀ k, may 3 → s.dev.boot.pendImage = some k →
        (∀ p, fwPart w p = true → Config.codeSection (s.dev.image (s.dev.part p).image) = Config.codeSection (s.dev.image k)) →
      ∃ t, exec (.fwTables .owner v) s = .next t ∧ done t St.ok ∧ t.dev.mem = s.dev.mem
        ∧ ∀ p : PartId, t.dev.part p = if fwPart w p then { s.dev.part p with sfuImage := k } else s.dev.part p)
    ∧ (may 6 → ∃ t e, exec (.fwPlinth .owner v) s = .next t ∧ t.dev.boot.ph = .inReset ∧ t.flash.log.getLast? = some e ∧ e.reasonA = 0x11
        ∧ e.outcome = 3 ∧ t.flash.active = s.flash.active ∧ t.fuse = s.fuse
        ∧ ∀ c, memGet t.dev.mem c = 0)
    ∧ (may 7 → s.dev.plinth = true → s.fuse.lifecycle ≠ 2 → ∃ t, exec (.fwExit .owner v) s = .next t ∧ t.dev.boot.ph = .inReset
        ∧ t.flash.mirror = 0 ∧ t.dev.fld R.bootStatus 63 60 = 0 ∧ t.fuse = s.fuse)
    ∧ (∀ e : BitVec 32, may 8 → s.dev.plinth = true → 1 ≤ fwOffset w / 0x1000 → fwOffset w / 0x1000 ≤ 3 →
      ∃ t, exec (.fwDiag .owner v e) s = .next t ∧ done t St.ok ∧ t.dev.fld R.fwStatus 31 0 = e.toNat ∧ t.dev.parts = s.dev.parts
        ∧ (fwOffset w / 0x1000 ≠ 2 → t.dev.mem = s.dev.mem))

/-- The trial of new management firmware ends with HEALTHY, or with the old image back (R434); microcode is swapped once a partition's units
are idle, or its partition is reported (R433); BOOT_OK ends the start, a deadline or a reset fails it (R426); the watchdog of a management
core opens an incident (R400). The code after a rollback is a free value (log entry 90); that the incident carries TIMEOUT is the model's
(PRESUMED, log entry 79). -/
def Obligations.HandoverMicrocodeAndBoot : Prop :=
  ∀ (p : PartId) (c : Fin 4) (s : State),
    let back := fun (t : State) => t.dev.fwState = 0 ∧ bit (t.dev.reg R.fwStatus) 50 = true ∧ Tab.find t.dev.meas 1 = s.dev.boot.oldMeas
      ∧ t.flash = s.flash ∧ t.fuse = s.fuse ∧ t.dev.mem = s.dev.mem ∧ t.dev.parts = s.dev.parts
    (s.dev.running = true →
      (∃ t, exec (.healthyWrite .mgmtFw) s = .next t ∧ bit (t.dev.reg R.bootStatus) 53 = true
        ∧ (s.dev.fwState = 4 → t.dev.fwState = 0 ∧ t.dev.fld R.fwStatus 63 56 = St.ok.toNat)
        ∧ (s.dev.fwState ≠ 4 → setsFields R.bootStatus [(53, 53, 1)] s t))
      ∧ (s.dev.fwState = 4 → ∃ t, exec (.mgmtCoreWatchdog c) s = .next t ∧ back t)
      ∧ (s.dev.fwState = 0 → s.dev.incFind ⟨16, s.dev.moduleId, 0xFF, 0, St.timeout⟩ = none →
        ∀ n, s.dev.incSlot = some n → ∃ t, exec (.mgmtCoreWatchdog c) s = .next t ∧ t.dev.incKey n 16 = ⟨16, s.dev.moduleId, 0xFF, 0, St.timeout⟩
          ∧ t.dev.reg R.fwStatus = s.dev.reg R.fwStatus ∧ t.dev.mem = s.dev.mem ∧ t.dev.parts = s.dev.parts))
    ∧ (s.dev.fwState = 4 → ∃ t, exec .handoverTrialExpire s = .next t ∧ back t)
    ∧ (∀ k, (s.dev.part p).microPending = some k →
      (s.dev.unitsIdle p = true → ∃ t, exec (.microcodeSwap p) s = .next t
        ∧ t.dev.part p = { s.dev.part p with microcode := k, microPending := none } ∧ onlyPart [R.fwStatus] p s t)
      ∧ (∃ t, exec (.microcodeSwapTimeout p) s = .next t ∧ t.dev.part p = { s.dev.part p with microPending := none }
        ∧ onlyPart [R.fwStatus] p s t ∧ bit (t.dev.reg R.fwStatus) p.val = true ∧ t.dev.fld R.fwStatus 63 56 = St.timeout.toNat))
    ∧ (s.dev.boot.ph = .starting →
      (∃ t, exec (.bootOkWrite .mgmtFw) s = .next t ∧ t.dev.boot = { s.dev.boot with ph := .up } ∧ t.dev.fld R.bootStatus 63 60 = 0
        ∧ bit (t.dev.reg R.bootStatus) 54 = true ∧ t.flash.mirror = 0 ∧ regsBut [R.bootStatus] s t ∧ t.dev.parts = s.dev.parts
        ∧ ∀ e, s.flash.log.getLast? = some e → t.flash.log.getLast? = some { e with outcome := 0 })
      ∧ (∀ e, s.flash.log.getLast? = some e → ∃ t, exec .bootDeadlineExpire s = .next t ∧ t.dev.boot.ph = .inReset ∧ t.fuse = s.fuse
        ∧ t.flash.log.getLast? = some (e.fail (bit (s.dev.reg R.bootStatus) 52) 0x05)
        ∧ t.dev.fld R.bootStatus 63 60 = s.dev.fld R.bootStatus 63 60))

/-! ## The Ethernet port (R296 to R319, R438) -/

/-- ETH_PORT_CFG, ETH_MACm_CFG, ETH_INJm, TP_INJn, LIFk_MAC and LIFk_CFG take a legal word and no other (R315 to R319, R344); a held resource is
refused and its holder named (R313); MSEC_COMMIT installs its record or nothing (R310); SERDES_CTRL queues lanes, whose MAC goes down, and shows how
each ended: a MAC with a lane that did not adapt stays down (R438). Lanes one after another are the model's (DEDUCED, log entry 102). -/
def Obligations.EthernetConfiguration : Prop :=
  ∀ (a : Agent) (m : Fin 8) (n : Fin 4) (k : Fin 128) (lane : Fin 8) (ok : Bool) (us : Nat) (v : W64) (s : State),
    let dir := bits v 63 62
    let act := bits v 61 59
    (s.dev.accepts a R.ethPortCfg →
      let bad := (bits v 1 0 ≠ s.dev.fld R.ethPortCfg 1 0 ∧ ∃ x, s.dev.macExists x = true ∧ s.dev.macEn x = true)
        ∨ ∃ l : Fin 8, s.dev.macEn (s.dev.laneMac l) = true ∧ (bit v (16 + l.val) ≠ bit (s.dev.reg R.ethPortCfg) (16 + l.val)
            ∨ bit v (8 + l.val) ≠ bit (s.dev.reg R.ethPortCfg) (8 + l.val))
      (bad → exec (.ethPortCfgWrite a v) s = .next s)
      ∧ (¬bad → ∃ t, exec (.ethPortCfgWrite a v) s = .next t
          ∧ setsFields R.ethPortCfg [(23, 16, bits v 23 16), (15, 8, bits v 15 8), (1, 0, bits v 1 0)] s t))
    ∧ (s.dev.accepts a (R.ethMacCfg m) →
      let legal := s.dev.macExists m = true ∧ bits v 61 60 ≠ 3 ∧ bits v 59 58 ≠ 3 ∧ 1518 ≤ bits v 40 27 ∧ bits v 40 27 ≤ 9216
      let heldTimer := bits v 61 60 = 1 ∧ s.dev.holdHolder m = 2
      let heldLoop := bits v 59 58 = 2 ∧ s.dev.loopHolder m = 2
      (¬legal → exec (.ethMacCfgWrite a m v) s = .next s)
      ∧ (legal → heldTimer → ∃ t, exec (.ethMacCfgWrite a m v) s = .next t ∧ setsFields (R.ethMacStatus m) [(35, 32, 2)] s t)
      ∧ (legal → ¬heldTimer → heldLoop → ∃ t, exec (.ethMacCfgWrite a m v) s = .next t ∧ setsFields (R.ethMacStatus m) [(35, 32, 4)] s t)
      ∧ (legal → ¬heldTimer → ¬heldLoop →
        ∃ t, exec (.ethMacCfgWrite a m v) s = .next t ∧ regsBut [R.ethMacCfg m, R.ethMacStatus m, R.ethCnt m 26] s t
          ∧ (∀ f ∈ [(63, 63), (62, 62), (61, 60), (59, 58), (57, 57), (56, 49), (48, 41), (40, 27), (26, 16), (15, 8)],
              t.dev.fld (R.ethMacCfg m) f.1 f.2 = bits v f.1 f.2)
          ∧ (bit v 63 = false ∨ bits v 59 58 ≠ 0 → bit (t.dev.reg (R.ethMacStatus m)) 63 = false
            ∧ (bit (s.dev.reg (R.ethMacStatus m)) 63 = true → t.dev.txq = s.dev.txq.filter (fun y => y.frame.mac != m)))
          ∧ (bit v 63 = true → bits v 59 58 = 0 → bit (t.dev.reg (R.ethMacStatus m)) 63 = bit (s.dev.reg (R.ethMacStatus m)) 63
            ∧ t.dev.txq = s.dev.txq ∧ t.dev.reg (R.ethCnt m 26) = s.dev.reg (R.ethCnt m 26))
          ∧ (t.dev.mac m).pfcSent = (s.dev.mac m).pfcSent.filter (fun c => bits v 61 60 == 2 && bit v (41 + c))
          ∧ (∀ x, x ≠ m → t.dev.mac x = s.dev.mac x) ∧ t.dev.mem = s.dev.mem ∧ t.dev.parts = s.dev.parts))
    ∧ (s.dev.accepts a (R.ethInj m) →
      let legal := s.dev.macExists m = true ∧ dir ≠ 3 ∧ ¬(dir = 2 ∧ (act = 3 ∨ act = 4)) ∧ act ≤ 4
      let heldTimer := dir ≠ 0 ∧ act = 3 ∧ s.dev.holdHolder m = 1
      let heldLoop := dir ≠ 0 ∧ act = 4 ∧ s.dev.loopHolder m = 1
      (¬legal → exec (.ethInjWrite a m v) s = .next s)
      ∧ (legal → heldTimer → ∃ t, exec (.ethInjWrite a m v) s = .next t ∧ setsFields (R.ethMacStatus m) [(35, 32, 1)] s t)
      ∧ (legal → heldLoop → ∃ t, exec (.ethInjWrite a m v) s = .next t ∧ setsFields (R.ethMacStatus m) [(35, 32, 3)] s t)
      ∧ (legal → ¬heldTimer → ¬heldLoop →
        ∃ t, exec (.ethInjWrite a m v) s = .next t ∧ regsBut [R.ethInj m] s t
          ∧ (∀ f ∈ [(63, 62), (61, 59), (58, 58), (57, 57), (56, 49), (48, 33), (32, 29), (28, 14)], t.dev.fld (R.ethInj m) f.1 f.2 = bits v f.1 f.2)
          ∧ (dir ≠ 0 → s.dev.fld (R.ethInj m) 63 62 = 0 →
              t.dev.mac m = { s.dev.mac m with
                lfsr := BitVec.ofNat 32 (s.dev.fld R.ethInjSeed 31 0), period := 0, onWire := if act = 4 then none else (s.dev.mac m).onWire })
          ∧ (∀ x, x ≠ m → t.dev.mac x = s.dev.mac x) ∧ t.dev.mem = s.dev.mem ∧ t.dev.parts = s.dev.parts ∧ t.dev.txq = s.dev.txq))
    ∧ (s.dev.accepts a (R.tpInj n) →
      (dir = 3 ∨ bits v 61 60 = 3 → exec (.tpInjWrite a n v) s = .next s)
      ∧ (dir ≠ 3 → bits v 61 60 ≠ 3 →
        ∃ t, exec (.tpInjWrite a n v) s = .next t ∧ regsBut [R.tpInj n] s t
          ∧ (∀ f ∈ [(63, 62), (61, 60), (59, 59), (58, 58), (57, 42), (41, 38), (31, 16)], t.dev.fld (R.tpInj n) f.1 f.2 = bits v f.1 f.2)
          ∧ (dir ≠ 0 → s.dev.fld (R.tpInj n) 63 62 = 0 → t.dev.inj[n].lfsr = BitVec.ofNat 32 (s.dev.fld R.ethInjSeed 31 0) ∧ t.dev.inj[n].period = 0)
          ∧ t.dev.mem = s.dev.mem ∧ t.dev.parts = s.dev.parts ∧ t.dev.txq = s.dev.txq ∧ t.dev.flows = s.dev.flows))
    ∧ (s.dev.accepts a (R.lifMac k.val) →
      let twin := ∃ j, j < 128 ∧ j ≠ k.val ∧ s.dev.lifOn j = true ∧ s.dev.lifMacN j = s.dev.lifMacN k.val
        ∧ (s.dev.lifAddr j).toNat = bits v 47 0 ∧ s.dev.lifVid j = bits v 59 48
      let bad := bits v 59 48 = 0 ∨ bit v 40 = true ∨ (bit v 63 = true ∧ twin)
      (bad → exec (.lifCfgWrite a k true v) s = .next s)
      ∧ (¬bad → ∃ t, exec (.lifCfgWrite a k true v) s = .next t
          ∧ setsFields (R.lifMac k.val) [(63, 63, bits v 63 63), (59, 48, bits v 59 48), (47, 0, bits v 47 0)] s t))
    ∧ (s.dev.accepts a (R.lifCfg k.val) →
      (s.dev.lifOn k.val = true → ∃ t, exec (.lifCfgWrite a k false v) s = .next t
        ∧ setsFields (R.lifCfg k.val) [(60, 53, bits v 60 53), (38, 27, bits v 38 27), (9, 9, bits v 9 9)] s t)
      ∧ (s.dev.lifOn k.val = false → bits v 52 39 ≤ s.dev.fld (R.ethMacCfg (Fin.ofNat 8 (bits v 63 61))) 40 27 →
        ∃ t, exec (.lifCfgWrite a k false v) s = .next t
          ∧ setsFields (R.lifCfg k.val) [(63, 61, bits v 63 61), (60, 53, bits v 60 53), (52, 39, bits v 52 39), (38, 27, bits v 38 27),
              (26, 11, bits v 26 11), (10, 10, bits v 10 10), (9, 9, bits v 9 9), (8, 8, bits v 8 8)] s t))
    ∧ (∀ l : List Byte, l = s.dev.msecRecord → s.dev.accepts a R.msecCommit →
      let key := assocKey (leAt l 0 1) (leAt l 1 1 % 2) (leAt l 2 1) (leAt l 1 1 / 2 % 4)
      let active := leAt l 1 1 / 8 % 2 == 1
      (127 < leAt l 0 1 ∨ 16 ≤ leAt l 1 1 ∨ zeros l 3 5 = false ∨ zeros l 0x4C 52 = false ∨ (if leAt l 1 1 % 2 = 1 then 3 else 0) < leAt l 2 1 →
        exec (.msecCommit a) s = .next s)
      ∧ (leAt l 0 1 ≤ 127 → leAt l 1 1 < 16 → zeros l 3 5 = true → zeros l 0x4C 52 = true → leAt l 2 1 ≤ (if leAt l 1 1 % 2 = 1 then 3 else 0) →
        ∃ t x, exec (.msecCommit a) s = .next t ∧ Tab.find t.dev.assoc key = some x ∧ x.active = active ∧ x.sci.toNat = leAt l 8 8
          ∧ x.pn = leAt l 0x10 8 ∧ x.window = leAt l 0x18 4 ∧ x.ssci.toNat = leAt l 0x1C 4 ∧ x.key = sliceB l 0x20 32 ∧ x.salt = sliceB l 0x40 12
          ∧ (∀ j, j ≠ key → Tab.find t.dev.assoc j = (Tab.find s.dev.assoc j).map (fun y =>
              if leAt l 1 1 % 2 = 0 ∧ active = true ∧ j / 4 = assocKey (leAt l 0 1) 0 0 0 / 4 then { y with active := false } else y))
          ∧ (∀ j, t.dev.reg (R.msecSa j) = 0) ∧ (∀ o, (∀ j, o ≠ R.msecSa j) → t.dev.reg o = s.dev.reg o)
          ∧ t.dev.mem = s.dev.mem ∧ t.dev.parts = s.dev.parts ∧ t.dev.macs = s.dev.macs))
    ∧ (s.dev.accepts a R.serdesCtrl →
      ∃ t, exec (.serdesReq a v) s = .next t ∧ regsBut (R.serdesCtrl :: (List.finRange 8).flatMap (fun x => [R.ethMacStatus x, R.ethCnt x 26])) s t
        ∧ ∀ l : Fin 8, (t.dev.boot.serdesQ.contains l = (s.dev.boot.serdesQ.contains l || bit v (56 + l.val)))
          ∧ bit (t.dev.reg R.serdesCtrl) (48 + l.val) = t.dev.boot.serdesQ.contains l
          ∧ bit (t.dev.reg R.serdesCtrl) (40 + l.val) = (bit (s.dev.reg R.serdesCtrl) (40 + l.val) && !bit v (40 + l.val))
          ∧ (bit v (56 + l.val) = true → bit (t.dev.reg (R.ethMacStatus (s.dev.laneMac l))) 63 = false))
    ∧ (s.dev.boot.serdesQ.contains lane = true →
      ∃ t, exec (.serdesAdaptDone lane ok us) s = .next t
        ∧ t.dev.boot = { s.dev.boot with serdesQ := s.dev.boot.serdesQ.erase lane, laneBad := t.dev.boot.laneBad }
        ∧ (∀ l, t.dev.boot.laneBad.contains l = if l = lane then !ok else s.dev.boot.laneBad.contains l)
        ∧ (∀ x : Fin 8, (s.dev.mac x = t.dev.mac x) ∧ (s.dev.laneMac lane = x → ok = false → t.dev.mayLink x = false))
        ∧ t.dev.fld R.serdesCtrl 15 0 = min 0xFFFF us ∧ bit (t.dev.reg R.serdesCtrl) (40 + lane.val) = (!ok || bit (s.dev.reg R.serdesCtrl) (40 + lane.val))
        ∧ bit (t.dev.reg R.serdesCtrl) (48 + lane.val) = (s.dev.boot.serdesQ.erase lane).contains lane
        ∧ t = { s with dev := { s.dev with boot := t.dev.boot, regs := t.dev.regs } } ∧ regsBut [R.serdesCtrl] s t)

/-- LINK_UP brings an enabled MAC up, LINK_DOWN takes it down, each with LINK_CHG; frames presented while it is down are discarded and counted
(R299); a PRBS mismatch is shown (R317); low-power idle is entered
only after the partner has advertised its wake time and left when a frame is ready; the receiver follows the partner (R307). -/
def Obligations.LinksComeAndGo : Prop :=
  ∀ (m lane : Fin 8) (e : Bool) (s : State),
    let o := R.ethMacStatus m
    let slot := match (s.dev.mac m).side with
      | some (_, _, rx) => !rx
      | none => false
    let clears := fun (t : State) (y : MacSt) => regsBut [o, R.ethCnt m 26] s t
      ∧ t.dev.txq = s.dev.txq.filter (fun x => x.frame.mac != m)
      ∧ t.dev.reg (R.ethCnt m 26) = s.dev.reg (R.ethCnt m 26)
          + BitVec.ofNat 64 (s.dev.txq.countP (fun x => x.frame.mac == m) + (s.dev.mac m).delayed.length + b2n slot)
      ∧ t.dev.mac m = { y with delayed := [], side := if slot then none else y.side } ∧ (∀ x, x ≠ m → t.dev.mac x = s.dev.mac x)
      ∧ t = { s with dev := { s.dev with regs := t.dev.regs, macs := t.dev.macs, txq := t.dev.txq, flows := t.dev.flows } }
    (s.dev.mayLink m = true → bit (s.dev.reg o) 63 = false →
      ∃ t, exec (.linkUp m) s = .next t ∧ clears t (s.dev.mac m) ∧ bit (t.dev.reg o) 63 = true ∧ bit (t.dev.reg o) 7 = true
        ∧ (∀ i, i < 64 → i ≠ 63 → i ≠ 7 → bit (t.dev.reg o) i = bit (s.dev.reg o) i) ∧ ∀ f, s.dev.flow f = none → t.dev.flow f = none)
    ∧ (bit (s.dev.reg o) 63 = true →
      ∃ t, exec (.linkDown m) s = .next t ∧ clears t { s.dev.mac m with onWire := none } ∧ t.dev.flows = s.dev.flows
        ∧ bit (t.dev.reg o) 63 = false ∧ bit (t.dev.reg o) 62 = false ∧ bit (t.dev.reg o) 7 = true
        ∧ ∀ i, i < 64 → i ≠ 63 → i ≠ 62 → i ≠ 7 → bit (t.dev.reg o) i = bit (s.dev.reg o) i)
    ∧ ((s.dev.linkTest m = 1 ∨ s.dev.linkTest m = 2) → ∃ t, exec (.prbsError m lane) s = .next t ∧ setsFields o [(0, 0, 1)] s t)
    ∧ (s.dev.linkIsUp m = true → bit (s.dev.reg (R.ethMacCfg m)) 57 = true → s.dev.txReady m = false → bit (s.dev.reg o) 62 = false →
      ((s.dev.mac m).partnerTw.isSome = true →
        ∃ t, exec (.lpiEnter m) s = .next t ∧ onlyRegs [o, R.ethCnt m 33] s t ∧ bit (t.dev.reg o) 62 = true
          ∧ t.dev.reg (R.ethCnt m 33) = s.dev.reg (R.ethCnt m 33) + 1)
      ∧ ((s.dev.mac m).partnerTw = none → exec (.lpiEnter m) s = .next s))
    ∧ (s.dev.txReady m = true → ∃ t, exec (.lpiWake m) s = .next t ∧ setsFields o [(62, 62, 0)] s t)
    ∧ (s.dev.linkIsUp m = true → ∃ t, exec (.partnerLowPowerIdle m e) s = .next t ∧ setsFields o [(61, 61, b2n e)] s t)

/-- PAUSE loads the transmit hold timer of a MAC with FC_MODE 1, PFC the timers of the enabled classes of a MAC with FC_MODE 2; both are counted; a
timer's expiry ends its hold and the time held is counted (R305, R306). PFC is sent for a class of PFC_MASK with 0xFFFF quanta, then with 0. The
buffer's occupancy is the command's (DESIGN CHOICE, log entry 100). -/
def Obligations.FlowControlHoldsTransmission : Prop :=
  ∀ (m c : Fin 8) (q : BitVec 16) (en : BitVec 8) (qs : List (BitVec 16)) (s : State),
    let time := fun (n : Nat) => ceilDiv (n * 512) s.dev.macBits
    let others := fun (t : State) => (∀ x, x ≠ m → t.dev.mac x = s.dev.mac x) ∧ t = { s with dev := { s.dev with regs := t.dev.regs, macs := t.dev.macs } }
    let heldOf := fun (t : State) (j : Nat) => Tab.get (fun _ => 0) (t.dev.mac m).pfcHold j
    (s.dev.hears m = true →
      ∃ t, exec (.pauseReceive m q) s = .next t ∧ others t ∧ regsBut [R.ethCnt m 10] s t ∧ t.dev.reg (R.ethCnt m 10) = s.dev.reg (R.ethCnt m 10) + 1
        ∧ t.dev.mac m = (if s.dev.fcMode m = 1 then { s.dev.mac m with hold := time q.toNat, paused := true } else s.dev.mac m))
    ∧ (∃ t, exec (.pauseTimerExpire m) s = .next t ∧ others t ∧ regsBut [R.ethCnt m 32] s t ∧ t.dev.mac m = { s.dev.mac m with hold := 0 }
        ∧ t.dev.reg (R.ethCnt m 32) = s.dev.reg (R.ethCnt m 32) + BitVec.ofNat 64 (if (s.dev.mac m).paused then (s.dev.mac m).hold else 0))
    ∧ (s.dev.hears m = true →
      ∃ t, exec (.pfcReceive m en qs) s = .next t ∧ others t ∧ regsBut [R.ethCnt m 11] s t ∧ t.dev.reg (R.ethCnt m 11) = s.dev.reg (R.ethCnt m 11) + 1
        ∧ (t.dev.mac m).hold = (s.dev.mac m).hold
        ∧ ∀ j, j < 8 → heldOf t j = if s.dev.fcMode m = 2 ∧ bit (s.dev.reg (R.ethMacCfg m)) (41 + j) = true ∧ bit en j = true
            then time (qs.getD j 0).toNat else heldOf s j)
    ∧ (∃ t, exec (.pfcTimerExpire m c) s = .next t ∧ others t ∧ regsBut [] s t ∧ heldOf t c.val = 0 ∧ (∀ j, j ≠ c.val → heldOf t j = heldOf s j)
        ∧ (t.dev.mac m).hold = (s.dev.mac m).hold)
    ∧ (s.dev.linkIsUp m = true → s.dev.fcMode m = 2 → bit (s.dev.reg (R.ethMacCfg m)) (41 + c.val) = true →
      let sends := fun (t : State) (n : Nat) => ∃ f, t.dev.txq = s.dev.txq ++ [⟨0, 0, true, none, f⟩] ∧ f.mac = m ∧ f.dst = 0x0180C2000001
        ∧ f.etherType = 0x8808 ∧ f.macCtl = 0x0101 ∧ sliceB f.payload 0 2 = beBytes 2 (2 ^ c.val)
        ∧ f.pauseTimes = (List.range 8).map (fun j => if j = c.val then BitVec.ofNat 16 n else 0)
        ∧ t = { s with dev := { s.dev with txq := t.dev.txq, macs := t.dev.macs } }
      ((s.dev.mac m).pfcSent.contains c.val = false → ∃ t, exec (.pfcSend m c) s = .next t ∧ sends t 0xFFFF
        ∧ (t.dev.mac m).pfcSent = (s.dev.mac m).pfcSent ++ [c.val])
      ∧ ((s.dev.mac m).pfcSent.contains c.val = true → ∃ t, exec (.pfcSend m c) s = .next t ∧ sends t 0
        ∧ (t.dev.mac m).pfcSent = (s.dev.mac m).pfcSent.erase c.val)
      ∧ ((s.dev.mac m).pfcSent.contains c.val = true → ∃ t, exec (.pfcRepeat m c) s = .next t ∧ sends t 0xFFFF ∧ t.dev.macs = s.dev.macs))

/-- A received frame meets the checks of R302 in their order and is counted once: a short, long or damaged frame and one for no interface go
no further; a frame for an interface that finds room in the receive buffer counts as received (R306), and a request in order on its flow
runs (R327, R332). Codewords corrected and not corrected are counted (R314). A frame held for reordering goes on at its time limit (R312,
R340). The order where several checks fail is the model's (DEDUCED, log entry 105). -/
def Obligations.FramesAreCheckedInOrder : Prop :=
  ∀ (f : Frame) (m : Fin 8) (j : Fin 4) (s : State), m = f.mac →
    let up := s.dev.hears m = true
    let codewords := fun (t : State) => t.dev.reg (R.ethCnt m 4) = s.dev.reg (R.ethCnt m 4) + BitVec.ofNat 64 f.fecCorr
      ∧ t.dev.reg (R.ethCnt m 5) = s.dev.reg (R.ethCnt m 5) + BitVec.ofNat 64 f.fecUncorr
    let plain := up ∧ f.fecBad = false ∧ s.dev.fld (R.ethInj m) 63 62 ≠ 2 ∧ (s.dev.mac m).side = none
    let maxLen := s.dev.fld (R.ethMacCfg m) 40 27
    let drops := fun (k : Nat) => ∃ t, exec (.ethRxFrame f) s = .next t ∧ onlyRegs [R.ethCnt m 4, R.ethCnt m 5, R.ethCnt m k] s t
      ∧ codewords t ∧ t.dev.reg (R.ethCnt m k) = s.dev.reg (R.ethCnt m k) + 1
    let sound := 64 ≤ f.length ∧ f.length ≤ maxLen ∧ f.fcsOk = true ∧ f.etherType ≠ 0x8808 ∧ f.dst ≠ 0x0180C200000E
    let accepted := fun (k : Nat) (i : IpHdr) (u : UdpHdr) => sound ∧ s.dev.lifsFor f = [k] ∧ f.sec = none ∧ s.dev.lifMsec k = false
      ∧ s.dev.vidOk k f.tag = true ∧ f.ip = some i ∧ f.udp = some u ∧ ipOk f i = true ∧ udpOk f i u = true ∧ i.dst = s.dev.lifIp k ∧ i.proto = 17
      ∧ (f.etherType = 0x86DD ∨ f.etherType = 0x0800) ∧ u.dport = s.dev.lifPort k
      ∧ f.buffered + f.length ≤ s.dev.rxShare m false (Frame.cls f)
    ((s.dev.linkIsUp m = false ∨ s.dev.loops m = true) → exec (.ethRxFrame f) s = .next s)
    ∧ (up → f.fecBad = true → drops 6)
    ∧ (plain →
      (f.length < 64 → drops 7)
      ∧ (64 ≤ f.length → maxLen < f.length → drops 8)
      ∧ (64 ≤ f.length → f.length ≤ maxLen → f.fcsOk = false → drops 9)
      ∧ (sound → s.dev.lifsFor f = [] → drops 12)
      ∧ (∀ k i u, accepted k i u →
        ((decHdr f.payload).ver ≠ 1 →
          ∃ t, exec (.ethRxFrame f) s = .next t ∧ onlyRegs [R.ethCnt m 0, R.ethCnt m 1, R.ethCnt m 4, R.ethCnt m 5, R.tpCnt 0] s t
            ∧ codewords t ∧ t.dev.reg (R.ethCnt m 0) = s.dev.reg (R.ethCnt m 0) + 1
            ∧ t.dev.reg (R.ethCnt m 1) = s.dev.reg (R.ethCnt m 1) + BitVec.ofNat 64 f.length ∧ t.dev.reg (R.tpCnt 0) = s.dev.reg (R.tpCnt 0) + 1)
        ∧ (∀ (h : PHdr) (l : List Byte) (t : TenantId) (p : PartId) (fl : Flow), h = decHdr f.payload → l = f.payload.drop 32 → t = Fin.ofNat 16 h.tenant →
            p = Fin.ofNat 16 h.part → h.ver = 1 → h.crc = paldalCrc h l → 1 ≤ h.op → h.op ≤ 0xF → f.payload.length = h.len + 32 → h.len ≤ 9082 →
            h.rsv = 0 → h.rsv3 = 0 → h.fl = 0 → s.dev.lifTenant k = some t → s.dev.flow h.flow = some fl →
            (∀ j : Fin 4, s.dev.fld (R.tpInj j) 63 62 ≠ 2 ∨ s.dev.fld (R.tpInj j) 31 16 ≠ h.flow) → fl.peerIp = i.src → (fl.accepted = true → h.gen = s.dev.gen p) →
            fl.rxNext = BitVec.ofNat 32 h.seq → fl.rxAbove = [] → s.dev.plinth = false → s.dev.fenced p = false → s.dev.holds t p = true →
            (opTarget h.op = 0 ∨ opTarget h.op = 2) → h.qw ≠ 0x3FFF → fl.tenant = t →
            (fl.accepted = false → fl.established = true → h.gen = fl.peerGen.toNat) →
            (∀ D : Dev, D = { s.dev with regs := D.regs, flows := D.flows } →
              regsBut [R.ethCnt m 0, R.ethCnt m 1, R.ethCnt m 4, R.ethCnt m 5] s { s with dev := D } → D.notTaken h.op (reqOf h.flow t i.src h l) = false) →
          ∃ S : State, exec (.ethRxFrame f) s = .next (((S.opRun h.op (reqOf h.flow t i.src h l)).onDev (fun d => d.ackAfter h.flow false)).rxPass m)
            ∧ S.dev.flow h.flow = some { fl with announce := false, rxNext := BitVec.ofNat 32 h.seq + 1, rxEcho := BitVec.ofNat 32 h.seq }
            ∧ (∀ n, n ≠ h.flow → S.dev.flow n = s.dev.flow n) ∧ regsBut [R.ethCnt m 0, R.ethCnt m 1, R.ethCnt m 4, R.ethCnt m 5] s S ∧ S.dev.mem = s.dev.mem
            ∧ S.dev.parts = s.dev.parts)))
    ∧ (∀ g n, (s.dev.mac m).side = some (g, n, true) →
      ∃ S : State, exec (.injReorderRelease m) s = .next (S.rxFrame g.frame) ∧ S.dev.mac m = { s.dev.mac m with side := none }
        ∧ S = { s with dev := { s.dev with macs := S.dev.macs } } ∧ ∀ x, x ≠ m → S.dev.mac x = s.dev.mac x)
    ∧ (∀ g n, (s.dev.mac m).side = some (g, n, false) →
      ∃ t, exec (.injReorderRelease m) s = .next t ∧ t.dev.mac m = { s.dev.mac m with side := some (g, 0, false) }
        ∧ t = { s with dev := { s.dev with macs := t.dev.macs } } ∧ ∀ x, x ≠ m → t.dev.mac x = s.dev.mac x)
    ∧ (∀ x n, s.dev.inj[j].side = some (x, n, true) →
      ∃ S : State, exec (.tpInjReorderRelease j) s = .next (S.tpChecks x.lif x.frame) ∧ S.dev.inj[j] = { s.dev.inj[j] with side := none }
        ∧ S = { s with dev := { s.dev with inj := S.dev.inj } })
    ∧ (∀ x n, s.dev.inj[j].side = some (x, n, false) →
      ∃ t, exec (.tpInjReorderRelease j) s = .next t ∧ t.dev.inj[j] = { s.dev.inj[j] with side := none } ∧ t.dev.txq = s.dev.txq ++ [x]
        ∧ t = { s with dev := { s.dev with inj := t.dev.inj, txq := t.dev.txq } })

/-- The management cores answer ARP, Neighbor Solicitations and echo requests for an interface's own address, and take and send LLDP (R304, R307);
beyond 1,000 frames in a second of a logical MAC they drop and count. The formats of the answers are the model's (PRESUMED, log entry 97). -/
def Obligations.ManagementCoresAnswer : Prop :=
  ∀ (k : Fin 128) (m : Fin 8) (mac : Mac) (ip : Ip) (data : List Byte) (tw : Nat) (s : State),
    let now := s.dev.localCount.toNat / 1000000000
    let count := if (s.dev.mac m).mgmtSecond = now then (s.dev.mac m).mgmtCount else 0
    let answers := fun (i : Instr) (et : BitVec 16) (l : List Byte) => ∃ t f, exec i s = .next t ∧ t.dev.txq = s.dev.txq ++ [⟨k.val, 0, true, none, f⟩]
      ∧ f.mac = m ∧ f.dst = mac ∧ f.src = s.dev.lifAddr k.val ∧ f.etherType = et ∧ f.payload = l
      ∧ (t.dev.mac m).mgmtCount = count + 1 ∧ (t.dev.mac m).mgmtSecond = now ∧ t.dev.reg (R.ethCnt m 24) = s.dev.reg (R.ethCnt m 24) + 1
      ∧ t = { s with dev := { s.dev with regs := t.dev.regs, macs := t.dev.macs, txq := t.dev.txq } } ∧ regsBut [R.ethCnt m 24] s t
    let drops := fun (i : Instr) => ∃ t, exec i s = .next t ∧ onlyRegs [R.ethCnt m 34] s t
      ∧ t.dev.reg (R.ethCnt m 34) = s.dev.reg (R.ethCnt m 34) + 1
    let a := s.dev.lifIp k.val
    (m = s.dev.lifMacN k.val → s.dev.lifOn k.val = true → s.dev.hears m = true →
      (count < 1000 →
        (isV4 a = true → answers (.arpRequest k mac ip) 0x0806 (beBytes 2 1 ++ beBytes 2 0x0800 ++ [6, 4] ++ beBytes 2 2
            ++ beBytes 6 (s.dev.lifAddr k.val).toNat ++ beBytes 4 (v4 a) ++ beBytes 6 mac.toNat ++ beBytes 4 (v4 ip)))
        ∧ (isV4 a = false → answers (.neighborSolicitation k mac ip) 0x86DD (icmp6 a ip [136, 0]
            (beBytes 4 0x60000000 ++ beBytes 16 a.toNat ++ [2, 1] ++ beBytes 6 (s.dev.lifAddr k.val).toNat)))
        ∧ (isV4 a = true → answers (.echoRequest k mac ip data) 0x0800 ([0, 0] ++ beBytes 2 (inetCheck ([0, 0] ++ data)) ++ data))
        ∧ (isV4 a = false → answers (.echoRequest k mac ip data) 0x86DD (icmp6 a ip [129, 0] data)))
      ∧ (1000 ≤ count → drops (.arpRequest k mac ip) ∧ drops (.neighborSolicitation k mac ip) ∧ drops (.echoRequest k mac ip data)))
    ∧ (s.dev.hears m = true →
      (count < 1000 → ∃ t, exec (.lldpReceive m tw) s = .next t ∧ (t.dev.mac m).partnerTw = some tw ∧ (t.dev.mac m).hold = (s.dev.mac m).hold
        ∧ t.dev.fld (R.ethMacStatus m) 51 36 = 10 * max (s.dev.fld (R.ethMacCfg m) 15 8) tw % 2 ^ 16
        ∧ t = { s with dev := { s.dev with regs := t.dev.regs, macs := t.dev.macs } } ∧ regsBut [R.ethCnt m 24, R.ethMacStatus m] s t)
      ∧ (1000 ≤ count → drops (.lldpReceive m tw)))
    ∧ (s.dev.running = true → s.dev.macExists m = true → s.dev.macEn m = true →
      ∃ t f, exec (.lldpSend m) s = .next t ∧ t = { s with dev := { s.dev with txq := s.dev.txq ++ [⟨0, 0, true, none, f⟩] } } ∧ f.mac = m
        ∧ f.dst = 0x0180C200000E ∧ f.etherType = 0x88CC
        ∧ f.payload = tlv 1 (7 :: beBytes 4 s.dev.moduleId) ++ tlv 2 (7 :: beBytes 1 m.val) ++ tlv 3 (beBytes 2 120)
          ++ (if bit (s.dev.reg (R.ethMacCfg m)) 57 then tlv 127 (beBytes 3 0x00120F ++ [5] ++ beBytes 2 (s.dev.fld (R.ethMacCfg m) 15 8)
              ++ beBytes 2 (s.dev.fld (R.ethMacCfg m) 15 8) ++ beBytes 2 (s.dev.fld (R.ethMacCfg m) 15 8) ++ beBytes 2 0
              ++ beBytes 2 ((s.dev.mac m).partnerTw.getD 0)) else []) ++ beBytes 2 0)

/-- ETH_TX_PICK (R308): nothing starts under a hold timer or in low-power idle; a MAC that is down discards what is ready (R299); management
frames and the classes of LAT_MASK go first, in the order in which they became ready; then the turn's interface, while its deficit covers
its frame. A frame leaves with its checksums (R303); one of an interface with MACsec under its active association with the next PN, or it is
dropped, and PN_LOW is set when the threshold is reached (R311). A frame that an injected delay or reordering held goes first, unless PFC
holds its class (R306, R312). Under ACTION 4 a frame returns to the MAC's own receive path (R312). The deficit of an idle turn, the
interface of a frame, and that a frame so returned meets the receive checks within the same command are the model's (DEDUCED, log entries
98, 99, 101), the form of the sealed frame too (PRESUMED, log entry 128). -/
def Obligations.TransmissionPicksInOrder : Prop :=
  ∀ (m : Fin 8) (x : TxFrame) (k : Nat) (s : State),
    let o := R.ethMacStatus m
    let open' := s.dev.linkIsUp m = true ∧ s.dev.loops m = false ∧ (s.dev.mac m).hold = 0 ∧ bit (s.dev.reg o) 62 = false
    let plain := open' ∧ s.dev.fld (R.ethInj m) 63 62 ≠ 1 ∧ (s.dev.mac m).side = none ∧ (s.dev.mac m).delayed = []
    let first := s.dev.txq.find? (fun t => t.frame.mac == m && s.dev.tier1 m t)
    let clear := ∀ j, s.dev.lifOf x.frame = some j → s.dev.lifMsec j = false
    let started := fun (t : State) (f : Frame) => (t.dev.mac m).onWire = some f
      ∧ t.dev.reg (R.ethCnt m 2) = s.dev.reg (R.ethCnt m 2) + 1 ∧ t.dev.reg (R.ethCnt m 3) = s.dev.reg (R.ethCnt m 3) + BitVec.ofNat 64 f.length
      ∧ (∀ y, y ≠ m → t.dev.mac y = s.dev.mac y) ∧ t.dev.mem = s.dev.mem ∧ t.dev.parts = s.dev.parts ∧ t.dev.flows = s.dev.flows
      ∧ regsBut [R.ethCnt m 2, R.ethCnt m 3, R.ethCnt m 25, o] s t
    let launched := fun (t : State) (f : Frame) => exec (.ethTxPick m) s = .next t ∧ started t f ∧ t.dev.txq = s.dev.txq.erase x
    (s.dev.loops m = false → s.dev.linkIsUp m = false →
      ∃ t n, exec (.ethTxPick m) s = .next t ∧ t.dev.txq = s.dev.txq.filter (fun y => y.frame.mac != m)
        ∧ t.dev.reg (R.ethCnt m 26) = s.dev.reg (R.ethCnt m 26)
            + BitVec.ofNat 64 (s.dev.txq.countP (fun y => y.frame.mac == m) + (s.dev.mac m).delayed.length + b2n n)
        ∧ (n = true ↔ ∃ f c, (s.dev.mac m).side = some (f, c, false)) ∧ (t.dev.mac m).delayed = []
        ∧ (∀ f c, (t.dev.mac m).side ≠ some (f, c, false)) ∧ (∀ y, y ≠ m → t.dev.mac y = s.dev.mac y)
        ∧ regsBut [R.ethCnt m 26] s t ∧ t.dev.mem = s.dev.mem ∧ t.dev.parts = s.dev.parts)
    ∧ (s.dev.loops m = false → s.dev.linkIsUp m = true → ((s.dev.mac m).hold ≠ 0 ∨ bit (s.dev.reg o) 62 = true) → exec (.ethTxPick m) s = .next s)
    ∧ (plain → first = some x →
      (clear → ∃ t w, launched t (Frame.summed x.frame w) ∧ t.dev.assoc = s.dev.assoc ∧ t.dev.deficit = s.dev.deficit)
      ∧ (s.dev.lifOf x.frame = some k → s.dev.lifMsec k = true →
        (s.dev.txAssoc k = none →
          ∃ t, exec (.ethTxPick m) s = .next t ∧ (t.dev.mac m).onWire = none ∧ t.dev.txq = s.dev.txq.erase x
            ∧ t.dev.reg (R.ethCnt m 27) = s.dev.reg (R.ethCnt m 27) + 1 ∧ regsBut [R.ethCnt m 27] s t ∧ t.dev.assoc = s.dev.assoc)
        ∧ (∀ an b low, s.dev.txAssoc k = some (an, b) → b.pn < (if s.dev.lifXpn k then 2 ^ 64 else 2 ^ 32) →
            low = (if s.dev.lifXpn k then 0xC000000000000000 else 0xC0000000) →
          ∃ t w y, y = Frame.summed x.frame w
            ∧ launched t { y with sec := some ⟨b.sci, Fin.ofNat 4 an, b.pn, b.seal (s.dev.lifXpn k) an b.pn y⟩ }
            ∧ Tab.find t.dev.assoc (assocKey k 0 0 an) = some { b with pn := b.pn + 1, low := b.low || decide (low ≤ b.pn) }
            ∧ (low ≤ b.pn → b.low = false → bit (t.dev.reg o) 6 = true)
            ∧ (b.low = true → t.dev.reg o = s.dev.reg o))))
    ∧ (plain → first = none → k = (s.dev.mac m).drrNext → s.dev.drrHead m k = some x → (s.dev.mac m).drrFed = true →
        x.frame.length ≤ s.dev.deficitOf m k → clear →
      ∃ t w, launched t (Frame.summed x.frame w) ∧ t.dev.deficitOf m k = s.dev.deficitOf m k - x.frame.length ∧ (t.dev.mac m).drrNext = k)
    ∧ (open' → (s.dev.mac m).delayed.find? (fun y => !s.dev.frameHeld m y) = some x →
      ∃ t, exec (.ethTxPick m) s = .next t ∧ started t x.frame ∧ (t.dev.mac m).delayed = (s.dev.mac m).delayed.erase x ∧ t.dev.txq = s.dev.txq)
    ∧ (open' → (∀ y ∈ (s.dev.mac m).delayed, s.dev.frameHeld m y = true) → (s.dev.mac m).side = some (x, 0, false) →
      (s.dev.frameHeld m x = false →
        ∃ t, exec (.ethTxPick m) s = .next t ∧ started t x.frame ∧ (t.dev.mac m).side = none ∧ t.dev.txq = s.dev.txq)
      ∧ (s.dev.frameHeld m x = true → s.dev.txq = [] → ∃ t, exec (.ethTxPick m) s = .next t ∧ (t.dev.mac m).onWire = none
        ∧ (t.dev.mac m).side = (s.dev.mac m).side ∧ (t.dev.mac m).delayed = (s.dev.mac m).delayed ∧ t.dev.txq = [] ∧ t.dev.regs = s.dev.regs))
    ∧ (∀ f S, s.dev.loops m = true → S = s.onDev (fun d => d.txPick m) → (S.dev.mac m).onWire = some f → S.dev.loops m = true →
      exec (.ethTxPick m) s = .next ((S.onDev (fun d => d.modMac m (fun y => { y with onWire := none }))).rxInject f))

/-! ## Supplies, resets, cooling and the sideband (R424, R429, R459 to R469) -/

/-- Power comes with PWR_EN and goes with it, with standby, with an input fault or with a thermal trip; MOD_RESET_N resets the module and
leaves FSC and what flash and fuses keep (R424, R460 to R462, R465). Memory after a module reset (zeros), reason 0x06 for a start that a
loss of power cuts, and a low pulse of 2 or 3 cycles are the model's (DEDUCED, log entries 88, 92, 93). -/
def Obligations.SuppliesAndResetsOfTheModule : Prop :=
  ∀ (ovp : Bool) (z : Sensor) (n : Nat) (s : State),
    let b := s.dev.boot
    let kept := fun (t : State) => t.fuse = s.fuse ∧ t.flash.bytes = s.flash.bytes ∧ t.flash.active = s.flash.active ∧ t.flash.mirror = s.flash.mirror
      ∧ (b.ph ≠ .starting → t.flash = s.flash) ∧ (b.ph = .starting → ∀ e, s.flash.log.getLast? = some e →
          t.flash.log.getLast? = some (e.fail (bit (s.dev.reg R.bootStatus) 52) 0x06))
    let down := fun (i : Instr) (P : Dev → Prop) => ∃ t, exec i s = .next t ∧ t.dev.isOff ∧ P t.dev ∧ kept t
      ∧ t.dev.fld R.bootStatus 63 60 = s.dev.fld R.bootStatus 63 60 ∧ t.dev.fld R.pwrCap 37 28 = s.dev.fld R.pwrCap 37 28
    (exec .standbyOn s = .next { s with dev := { s.dev with boot := { b with standby := true } } })
    ∧ (∃ t, exec .standbyLoss s = .next t ∧ t.dev.isOff ∧ t.dev.boot.standby = false ∧ t.dev.boot.thermTrip = false ∧ t.fuse = s.fuse ∧ t.flash = s.flash
        ∧ t.dev.fld R.bootStatus 63 60 = 0 ∧ t.dev.fld R.pwrCap 37 28 = 600 ∧ bit (t.dev.reg R.thermStatus) 3 = false)
    ∧ (b.standby = true → b.pwrEn = false →
        exec .pwrEnAssert s = .next { s with dev := { s.dev with boot := { b with pwrEn := true, pwrGood := true, ph := .inReset } } })
    ∧ (b.pwrGood = true →
      down .pwrEnDeassert (fun d => d.boot.pwrEn = false ∧ d.boot.latched = false ∧ d.boot.thermTrip = false)
      ∧ down (.vinFault ovp) (fun d => d.boot.latched = true ∧ bit (d.reg R.pwrStatus) (if ovp then 2 else 1) = true)
      ∧ down (.thermalTrip z) (fun d => d.boot.thermTrip = true ∧ bit (d.reg R.thermStatus) 3 = true))
    ∧ (s.dev.running = true →
      (n < 2 → exec (.modResetAssert n) s = .next s)
      ∧ (4 ≤ n → ∃ t, exec (.modResetAssert n) s = .next t ∧ t.dev.boot.ph = .inReset ∧ kept t
        ∧ t.dev.fld R.bootStatus 63 60 = s.dev.fld R.bootStatus 63 60 ∧ ∀ c, memGet t.dev.mem c = 0)
      ∧ (∃ t, exec (.modResetAssert n) s = .next t ∧ (n = 2 ∨ n = 3 → t.dev.boot.ph = .inReset
          ∨ t = { s with dev := { s.dev with freeCount := t.dev.freeCount } })))

/-- A released module starts from the bank that FSC chooses, in plinth mode at FSC 3 or by its life cycle, and stays in reset where both banks are
refused (R425, R428); plinth mode without a configuration record tries the breakout modes in turn (R429). The bank's directory and the configuration
record are opaque (log entries 6, 111). -/
def Obligations.ReleasedModuleStarts : Prop :=
  ∀ (n : Nat) (first : Bool) (s : State),
    (s.dev.boot.ph = .inReset → s.dev.boot.pwrGood = true → n = max (s.dev.fld R.bootStatus 63 60) s.flash.mirror →
      first = (if (n + 1) % 2 = 0 then !s.flash.active else s.flash.active) →
      let plinth := fun (reason : Nat) => ∃ t e, exec .moduleResetRelease s = .next t ∧ t.dev.boot.ph = .plinth ∧ t.dev.fld R.bootStatus 31 24 = reason
        ∧ bit (t.dev.reg R.bootStatus) 55 = true ∧ t.flash.log.getLast? = some e ∧ e.reasonA.toNat = reason ∧ e.outcome = 3
        ∧ t.flash.mirror = s.flash.mirror ∧ t.fuse = s.fuse ∧ ∀ p : PartId, t.dev.prstState p = 3
      let normal := s.fuse.lifecycle ≠ 2 ∧ n < 3 ∧ s.flash.logCut.plinthAsked = false
      let starts := fun (bank : Bool) => ∃ t, exec .moduleResetRelease s = .next t ∧ t.dev.boot.ph = .starting
        ∧ bit (t.dev.reg R.bootStatus) 52 = bank ∧ t.dev.fld R.bootStatus 63 60 = n + 1 ∧ t.flash.mirror = n + 1 ∧ t.flash.bytes = s.flash.bytes
        ∧ t.fuse = s.fuse
      (s.fuse.lifecycle = 2 → plinth 0x10)
      ∧ (s.fuse.lifecycle ≠ 2 → 3 ≤ n → plinth 0x09)
      ∧ (s.fuse.lifecycle ≠ 2 → n < 3 → s.flash.logCut.plinthAsked = true → plinth 0x11)
      ∧ (normal → bankReason s.fuse s.flash first = none → starts first)
      ∧ (normal → bankReason s.fuse s.flash first ≠ none → bankReason s.fuse s.flash (!first) = none → starts (!first))
      ∧ (∀ r q, normal → bankReason s.fuse s.flash first = some r → bankReason s.fuse s.flash (!first) = some q →
        ∃ t e, exec .moduleResetRelease s = .next t ∧ t.dev.boot.ph = .inReset ∧ t.dev.fld R.bootStatus 63 60 = n + 1 ∧ t.flash.mirror = n + 1
          ∧ t.flash.log.getLast? = some e ∧ e.outcome = 1 ∧ e.reasonA = (if first then q else r) ∧ e.reasonB = (if first then r else q)))
    ∧ (s.dev.boot.ph = .plinth → s.flash.config = none → bit (s.dev.reg (R.ethMacStatus 0)) 63 = false →
      ∃ t, exec .plinthBreakoutTry s = .next t ∧ t.dev.fld R.ethPortCfg 1 0 = (s.dev.boot.plinthTry + 1) % 4
        ∧ t.dev.boot = { s.dev.boot with plinthTry := (s.dev.boot.plinthTry + 1) % 4 } ∧ regsBut [R.ethPortCfg] s t
        ∧ t = { s with dev := { s.dev with boot := t.dev.boot, regs := t.dev.regs } })

/-- The control period keeps the least of the three caps, sets DUTY from 1 to 64, shows a cap that DUTY 1 did not meet, and lowers THERMAL
by 10 W while a die is hot, and then raises it by 1 W to the table's value (R463, R464); the inlet sets THERMAL by the table of R464; at its
limit each trips the module (R465). The moment of the event bits and the inlet's units of 0.01 °C, with whole watts, are the model's
(DEDUCED, log entry 94); DUTY is a free value. -/
def Obligations.CapsFollowPowerAndHeat : Prop :=
  ∀ (pin vin c : BitVec 16) (die dram : BitVec 8) (s : State), s.dev.running = true →
    let trips := fun (i : Instr) => ∃ t, exec i s = .next t ∧ t.dev.isOff ∧ t.dev.boot.thermTrip = true ∧ bit (t.dev.reg R.thermStatus) 3 = true
      ∧ t.fuse = s.fuse
    let table := fun (k : Nat) => if k ≤ 4000 then 600 else if k ≤ 5000 then (60000 - 24 * (k - 4000)) / 100 else 250
    let top := table s.dev.boot.inlet
    let was := min top s.dev.boot.dieCut
    (die.toNat < 105 → dram.toNat < 105 →
      ∃ t, exec (.powerControlPeriod pin vin die dram) s = .next t ∧ regsBut [R.pwrStatus, R.thermStatus, R.pwrCap] s t
        ∧ t.dev.fld R.pwrStatus 63 48 = pin.toNat ∧ t.dev.fld R.pwrStatus 47 32 = vin.toNat ∧ t.dev.fld R.thermStatus 55 48 = die.toNat
        ∧ t.dev.fld R.thermStatus 47 40 = dram.toNat ∧ 1 ≤ t.dev.fld R.pwrStatus 31 25 ∧ t.dev.fld R.pwrStatus 31 25 ≤ 64
        ∧ t.dev.fld R.pwrCap 57 48 = min (min (s.dev.fld R.pwrCap 9 0) (s.dev.fld R.pwrCap 37 28)) (t.dev.fld R.pwrCap 47 38)
        ∧ t.dev.fld R.pwrCap 47 38 = top - t.dev.boot.dieCut ∧ t.dev.boot.inlet = s.dev.boot.inlet
        ∧ ((95 ≤ die.toNat ∨ 93 ≤ die.toNat ∧ s.dev.boot.hot = true) → t.dev.boot.dieCut = min top (was + 10))
        ∧ (93 ≤ die.toNat → die.toNat < 95 → s.dev.boot.hot = false → t.dev.boot.dieCut = was - 1)
        ∧ (die.toNat < 93 → t.dev.boot.dieCut = was - 1 ∧ (s.dev.boot.hot = true → bit (t.dev.reg R.thermStatus) 2 = true))
        ∧ (s.dev.fld R.pwrStatus 31 25 = 1 → 10 * t.dev.fld R.pwrCap 57 48 < pin.toNat → bit (t.dev.reg R.pwrStatus) 3 = true)
        ∧ (t.dev.fld R.pwrStatus 31 25 < 64 → bit (t.dev.reg R.pwrStatus) 0 = true)
        ∧ t.dev.fld R.pwrCap 9 0 = s.dev.fld R.pwrCap 9 0 ∧ t.dev.fld R.pwrCap 37 28 = s.dev.fld R.pwrCap 37 28
        ∧ t.dev.mem = s.dev.mem ∧ t.dev.parts = s.dev.parts)
    ∧ (s.dev.boot.pwrGood = true → (105 ≤ die.toNat ∨ 105 ≤ dram.toNat) → trips (.powerControlPeriod pin vin die dram))
    ∧ (c.toNat < 5500 →
      ∃ t, exec (.inletUpdate c) s = .next t ∧ regsBut [R.thermStatus, R.pwrCap] s t ∧ t.dev.fld R.thermStatus 63 56 = c.toNat / 100
        ∧ t.dev.boot.inlet = c.toNat
        ∧ t.dev.fld R.pwrCap 47 38 = table c.toNat - s.dev.boot.dieCut ∧ (4000 < c.toNat → bit (t.dev.reg R.thermStatus) 0 = true)
        ∧ (5000 < c.toNat → bit (t.dev.reg R.thermStatus) 1 = true) ∧ (c.toNat ≤ 4000 → t.dev.fld R.thermStatus 3 0 = s.dev.fld R.thermStatus 3 0)
        ∧ (4000 < c.toNat → bit (s.dev.reg R.alertCtrl) 0 = true → t.dev.boot.alertLow = true) ∧ t.dev.mem = s.dev.mem ∧ t.dev.parts = s.dev.parts)
    ∧ (s.dev.boot.pwrGood = true → 5500 ≤ c.toNat → trips (.inletUpdate c))

/-- The sideband's commands (R459): each answers with its content and its PEC, a cap outside 250 to 600 W or a write whose PEC is wrong is
refused and changes nothing, FRU_READ returns 32 bytes from the pointer and moves it on, and the Alert Response Address is answered while
ALERT_N is asserted. The form of the Alert Response and of the PEC, and what telemetry answers while the rails are off (a free value), are
the model's (PRESUMED, log entries 96, 136). -/
def Obligations.SidebandAnswers : Prop :=
  ∀ (v ptr : SmbWord) (s : State), s.dev.boot.standby = true →
    let b := s.dev.boot
    let w := smbAddr false
    let said := fun (h l : List Byte) => { b with smbReply := l, smbNack := false, smbPec := smbCrc (h ++ l) }
    let refused := { b with smbReply := [], smbNack := true, smbPec := 0 }
    let answers := fun (i : Instr) (h l : List Byte) => exec i s = .next { s with dev := { s.dev with boot := said h l } }
    let reads := fun (i : Instr) (code : Byte) (n v : Nat) => (b.pwrGood = true → answers i [w, code, smbAddr true] (leBytes n v))
      ∧ (b.pwrGood = false → ∃ t l, exec i s = .next t ∧ l.length = n ∧ t = { s with dev := { s.dev with
          boot := said [w, code, smbAddr true] l, freeCount := t.dev.freeCount } })
    let pecOk := fun (code : Byte) (v : SmbWord) => v.pec = none ∨ v.pec = some (smbCrc ([w, code] ++ leBytes 2 v.word.toNat))
    (∀ e : BitVec 8, (∀ i, i < 8 → bit e i = [b.pwrGood, bit (s.dev.reg R.bootStatus) 54, s.dev.plinth, s.dev.fld R.thermStatus 3 0 != 0,
        bit (s.dev.reg R.pwrStatus) 3, false, false, false].getD i false) → answers .smbStatus [w, 0x00, smbAddr true] [e])
    ∧ reads .smbReadVin 0x01 2 (s.dev.fld R.pwrStatus 47 32) ∧ reads .smbReadPin 0x02 2 (s.dev.fld R.pwrStatus 63 48)
    ∧ reads .smbReadInlet 0x03 1 (s.dev.fld R.thermStatus 63 56) ∧ reads .smbReadDie 0x04 1 (s.dev.fld R.thermStatus 55 48)
    ∧ answers (.smbCap none) [w, 0x05, smbAddr true] (leBytes 2 (s.dev.fld R.pwrCap 37 28))
    ∧ (250 ≤ v.word.toNat → v.word.toNat ≤ 600 → pecOk 0x05 v → ∃ t, exec (.smbCap (some v)) s = .next t ∧ t.dev.boot = said [] []
        ∧ setsFields R.pwrCap [(37, 28, v.word.toNat)] { s with dev := { s.dev with boot := t.dev.boot } } t)
    ∧ ((v.word.toNat < 250 ∨ 600 < v.word.toNat ∨ ¬pecOk 0x05 v) → exec (.smbCap (some v)) s = .next { s with dev := { s.dev with boot := refused } })
    ∧ (pecOk 0x10 ptr → exec (.smbFruPtr ptr) s = .next { s with dev := { s.dev with boot := { said [] [] with fruPtr := ptr.word.toNat % 2048 } } })
    ∧ (¬pecOk 0x10 ptr → exec (.smbFruPtr ptr) s = .next { s with dev := { s.dev with boot := refused } })
    ∧ (∃ l, exec .smbFruRead s = .next { s with dev := { s.dev with
          boot := { said [w, 0x11, smbAddr true, 32] l with fruPtr := (b.fruPtr + 32) % 2048 } } }
        ∧ l.length = 32 ∧ ∀ i, i < 32 → l[i]? = some (s.fru.getD ((b.fruPtr + i) % 2048) 0))
    ∧ (b.alertLow = true → bit (s.dev.reg R.alertCtrl) 0 = true →
        answers .smbAlertResponse [0x19] (leBytes 1 (2 * (0x58 + Config.smbStrap.toNat))))

/-! ## Rules over many commands -/

/-- A write of a register by an agent that does not reach it changes nothing, nor does any register write while the module is off, in reset or, but
for what plinth mode offers, in plinth mode (R430, R440, R453). Which agents reach a register is partly the model's (DEDUCED, log entry 82). -/
def Obligations.UnreachedRegistersKeepTheirState : Prop :=
  ∀ (a : Agent) (p : PartId) (x : Seq) (ten : TenantId) (m : Fin 8) (j : Fin 4) (n : Nat) (v : W64) (s : State),
    ∀ e ∈ regRows a p x ten m j n v, ¬s.dev.accepts a e.2 → exec e.1 s = .next s

/-- A control instruction with a nonzero field that its row does not use, and a fetch outside the partition's program memory, stop the
stream at the instruction: SEQx_STATUS shows the code, SEQx_PC and FAULT_PC name it, a fault record is written, and the partition's other
streams go on (R118, R122, R136, R410). -/
def Obligations.RefusedInstructionsStopTheirStream : Prop :=
  ∀ (p : PartId) (x : Seq) (w : CWord) (c : Status) (s : State), s.dev.seqReady p x = true → bit (s.dev.reg (R.seqStatus p x)) 0 = false →
    ((fetchOk p (s.dev.pc p x) w.x = false ∧ c = St.noPermission)
      ∨ (fetchOk p (s.dev.pc p x) w.x = true ∧ c = St.badDescriptor ∧ (w.x = true ∨ w.mod ≠ 0 ∨ w.rsv ≠ 0 ∨ w.pw ≠ 0 ∨ w.imm ≠ 0))) →
    ∀ i ∈ [Instr.nop p x w, Instr.halt p x w, Instr.endl p x w],
      ∃ t, exec i s = .next t ∧ t.dev.seqState p x = 5 ∧ t.dev.fld (R.seqStatus p x) 63 56 = c.toNat ∧ bit (t.dev.reg (R.seqStatus p x)) 0 = true
        ∧ t.dev.pc p x = s.dev.pc p x ∧ t.dev.fld (R.seqFaultPc p x) 47 3 * 8 = s.dev.pc p x
        ∧ t.dev.fld (R.faultHead p) 31 0 = (s.dev.fld (R.faultHead p) 31 0 + 1) % 2 ^ 32
        ∧ t.dev.fld (R.faultRec p (s.dev.fld (R.faultHead p) 31 0) 1) 7 0 = c.toNat
        ∧ (∀ y, y ≠ x → t.dev.seqState p y = s.dev.seqState p y ∧ t.dev.pc p y = s.dev.pc p y ∧ t.dev.port p y.port = s.dev.port p y.port)
        ∧ partsBut p s t ∧ t.dev.mem = s.dev.mem ∧ t.dev.flows = s.dev.flows ∧ t.fuse = s.fuse ∧ t.flash = s.flash

/-- The machine in reset meets the invariant of fuses and flash. -/
def Obligations.ResetMeetsTheInvariant : Prop := State.reset.Inv

/-- Every step keeps SVN counters within 64, the reason log within eight entries and the start counter within 3 (R386, R424, R425, R427). -/
def Obligations.EveryStepKeepsTheInvariant : Prop := ∀ s t : State, s.Inv → step s = .next t → t.Inv

/-- No step lowers an SVN counter, empties an owner key slot, or changes what else the fuses hold: keys, secret, identity, capacity, debug
paths, life cycle (R386, R391). -/
def Obligations.FusesAndKeySlotsOnlyFill : Prop :=
  ∀ s t : State, step s = .next t →
    (∀ c, s.fuse.svn c ≤ t.fuse.svn c)
    ∧ (∀ k, (s.flash.ownerKey k).isSome = true → (t.flash.ownerKey k).isSome = true)
    ∧ t.fuse = { s.fuse with svnS1 := t.fuse.svnS1, svnMgmt := t.fuse.svnMgmt, svnPart := t.fuse.svnPart, svnMisc := t.fuse.svnMisc }

/-- No command changes the queue of the commands behind it, nor the FRU area, which cannot be written in the field (R459). -/
def Obligations.CommandsLeaveTheQueueAndTheFruArea : Prop :=
  ∀ (c : Instr) (s t : State), exec c s = .next t → t.pending = s.pending ∧ t.fru = s.fru
end

