-- ==== Sys2Proof/Laws/Bits.lean ====
section
/-! SUPPORT. Bit fields of words: a field reads back as it was written, and the other fields stay. -/
namespace Sys2Proof.Machine

theorem bits_lt {n : Nat} (w : BitVec n) (hi lo : Nat) : bits w hi lo < 2 ^ (hi + 1 - lo) := Nat.mod_lt _ (Nat.two_pow_pos _)

/-- A field's bits among the number's. -/
theorem bits_testBit {n : Nat} (w : BitVec n) (hi lo i : Nat) :
    (bits w hi lo).testBit i = (decide (i < hi + 1 - lo) && w.toNat.testBit (lo + i)) := by
  unfold bits
  rw [Nat.testBit_mod_two_pow, Nat.testBit_div_two_pow, Nat.add_comm i lo]

/-- The parts of a number around a field. -/
theorem field_split (x lo k : Nat) : x = x / 2 ^ (lo + k) * 2 ^ (lo + k) + x / 2 ^ lo % 2 ^ k * 2 ^ lo + x % 2 ^ lo := by
  have h1 : x = 2 ^ lo * (x / 2 ^ lo) + x % 2 ^ lo := (Nat.div_add_mod x (2 ^ lo)).symm
  have h2 : x / 2 ^ lo = 2 ^ k * (x / 2 ^ lo / 2 ^ k) + x / 2 ^ lo % 2 ^ k := (Nat.div_add_mod _ _).symm
  have h3 : x / 2 ^ lo / 2 ^ k = x / 2 ^ (lo + k) := by rw [Nat.div_div_eq_div_mul, Nat.pow_add]
  rw [h3] at h2
  have h4 : x / 2 ^ (lo + k) * 2 ^ (lo + k) = 2 ^ lo * (2 ^ k * (x / 2 ^ (lo + k))) := by
    rw [Nat.pow_add, Nat.mul_comm, Nat.mul_assoc]
  rw [h4, Nat.mul_comm (x / 2 ^ lo % 2 ^ k), ← Nat.mul_add, ← h2, ← h1]

/-- A word with a field replaced, as a number. -/
theorem putBits_toNat (w : W64) (hi lo v : Nat) (h : lo ≤ hi) (h64 : hi < 64) :
    (putBits w hi lo v).toNat
      = w.toNat / 2 ^ (hi + 1) * 2 ^ (hi + 1) + v % 2 ^ (hi + 1 - lo) * 2 ^ lo + w.toNat % 2 ^ lo := by
  have hs := field_split w.toNat lo (hi + 1 - lo)
  have he : lo + (hi + 1 - lo) = hi + 1 := by omega
  rw [he] at hs
  have hx : w.toNat < 2 ^ 64 := w.isLt
  have hv : v % 2 ^ (hi + 1 - lo) < 2 ^ (hi + 1 - lo) := Nat.mod_lt _ (Nat.two_pow_pos _)
  have hm : w.toNat % 2 ^ lo < 2 ^ lo := Nat.mod_lt _ (Nat.two_pow_pos _)
  unfold putBits bits
  rw [BitVec.toNat_ofNat]
  have hA : w.toNat / 2 ^ (hi + 1) < 2 ^ (64 - (hi + 1)) := by
    rw [Nat.div_lt_iff_lt_mul (Nat.two_pow_pos _), ← Nat.pow_add]
    rwa [show 64 - (hi + 1) + (hi + 1) = 64 by omega]
  have hp : (2 : Nat) ^ (hi + 1 - lo) * 2 ^ lo = 2 ^ (hi + 1) := by rw [← Nat.pow_add]; congr 1; omega
  have hp64 : (2 : Nat) ^ (64 - (hi + 1)) * 2 ^ (hi + 1) = 2 ^ 64 := by rw [← Nat.pow_add]; congr 1; omega
  have hf : v % 2 ^ (hi + 1 - lo) * 2 ^ lo + 2 ^ lo ≤ 2 ^ (hi + 1) := by
    rw [← hp, ← Nat.succ_mul]; exact Nat.mul_le_mul_right _ hv
  have hB : w.toNat / 2 ^ (hi + 1) * 2 ^ (hi + 1) + 2 ^ (hi + 1) ≤ 2 ^ 64 := by
    rw [← hp64, ← Nat.succ_mul]; exact Nat.mul_le_mul_right _ hA
  generalize hq : w.toNat / 2 ^ lo % 2 ^ (hi + 1 - lo) * 2 ^ lo = b at *
  generalize w.toNat / 2 ^ (hi + 1) * 2 ^ (hi + 1) = a at *
  generalize v % 2 ^ (hi + 1 - lo) * 2 ^ lo = c at *
  generalize w.toNat % 2 ^ lo = r at *
  rw [Nat.mod_eq_of_lt (by omega)]
  omega

/-- A field reads back as it was written, modulo its width. -/
theorem bits_putBits_same (w : W64) (hi lo v : Nat) (h : lo ≤ hi) (h64 : hi < 64) :
    bits (putBits w hi lo v) hi lo = v % 2 ^ (hi + 1 - lo) := by
  have hm : w.toNat % 2 ^ lo < 2 ^ lo := Nat.mod_lt _ (Nat.two_pow_pos _)
  have hp : (2 : Nat) ^ (hi + 1) = 2 ^ lo * 2 ^ (hi + 1 - lo) := by rw [← Nat.pow_add]; congr 1; omega
  unfold bits
  rw [putBits_toNat w hi lo v h h64]
  have : w.toNat / 2 ^ (hi + 1) * 2 ^ (hi + 1) + v % 2 ^ (hi + 1 - lo) * 2 ^ lo + w.toNat % 2 ^ lo
      = 2 ^ lo * (w.toNat / 2 ^ (hi + 1) * 2 ^ (hi + 1 - lo) + v % 2 ^ (hi + 1 - lo)) + w.toNat % 2 ^ lo := by
    rw [hp]
    generalize w.toNat / (2 ^ lo * 2 ^ (hi + 1 - lo)) = a
    rw [Nat.mul_add, Nat.mul_comm (v % _), ← Nat.mul_assoc, ← Nat.mul_assoc, Nat.mul_comm (2 ^ lo) a]
  rw [this, Nat.mul_add_div (Nat.two_pow_pos _), Nat.div_eq_of_lt hm, Nat.add_zero, Nat.mul_comm, Nat.mul_add_mod, Nat.mod_mod]

theorem bits_eq_div {n : Nat} (w : BitVec n) (hi lo m : Nat) (h : m ≤ lo) :
    bits w hi lo = w.toNat / 2 ^ m / 2 ^ (lo - m) % 2 ^ (hi + 1 - lo) := by
  unfold bits
  rw [Nat.div_div_eq_div_mul, ← Nat.pow_add, show m + (lo - m) = lo by omega]

theorem bits_eq_mod {n : Nat} (w : BitVec n) (hi lo m : Nat) (hl : lo ≤ hi) (h : hi < m) :
    bits w hi lo = w.toNat % 2 ^ m / 2 ^ lo % 2 ^ (hi + 1 - lo) := by
  apply Nat.eq_of_testBit_eq
  intro i
  rw [bits_testBit, Nat.testBit_mod_two_pow, Nat.testBit_div_two_pow, Nat.testBit_mod_two_pow, Nat.add_comm i lo]
  by_cases hi' : i < hi + 1 - lo
  · simp [hi', show lo + i < m by omega]
  · simp [hi']

/-- Writing a field leaves a field above or below it as it was. -/
theorem bits_putBits_other (w : W64) (hi lo v h2 l2 : Nat) (h : lo ≤ hi) (h64 : hi < 64) (hl : l2 ≤ h2) (hd : hi < l2 ∨ h2 < lo) :
    bits (putBits w hi lo v) h2 l2 = bits w h2 l2 := by
  have hv : v % 2 ^ (hi + 1 - lo) < 2 ^ (hi + 1 - lo) := Nat.mod_lt _ (Nat.two_pow_pos _)
  have hm : w.toNat % 2 ^ lo < 2 ^ lo := Nat.mod_lt _ (Nat.two_pow_pos _)
  have hp : (2 : Nat) ^ (hi + 1 - lo) * 2 ^ lo = 2 ^ (hi + 1) := by rw [← Nat.pow_add]; congr 1; omega
  rcases hd with hd | hd
  · rw [bits_eq_div _ h2 l2 (hi + 1) (by omega), bits_eq_div w h2 l2 (hi + 1) (by omega), putBits_toNat w hi lo v h h64]
    have hf : v % 2 ^ (hi + 1 - lo) * 2 ^ lo + 2 ^ lo ≤ 2 ^ (hi + 1) := by
      rw [← hp, ← Nat.succ_mul]; exact Nat.mul_le_mul_right _ hv
    rw [Nat.add_assoc, Nat.mul_comm (w.toNat / 2 ^ (hi + 1)), Nat.mul_add_div (Nat.two_pow_pos _)]
    rw [Nat.div_eq_of_lt (show v % 2 ^ (hi + 1 - lo) * 2 ^ lo + w.toNat % 2 ^ lo < 2 ^ (hi + 1) by omega), Nat.add_zero]
  · rw [bits_eq_mod _ h2 l2 lo hl hd, bits_eq_mod w h2 l2 lo hl hd, putBits_toNat w hi lo v h h64]
    have e : w.toNat / 2 ^ (hi + 1) * 2 ^ (hi + 1) + v % 2 ^ (hi + 1 - lo) * 2 ^ lo
        = 2 ^ lo * (w.toNat / 2 ^ (hi + 1) * 2 ^ (hi + 1 - lo) + v % 2 ^ (hi + 1 - lo)) := by
      rw [← hp]
      generalize w.toNat / (2 ^ (hi + 1 - lo) * 2 ^ lo) = a
      rw [Nat.mul_add, Nat.mul_comm (v % _), ← Nat.mul_assoc, Nat.mul_comm (2 ^ lo) (a * _)]
    rw [e, Nat.mul_add_mod, Nat.mod_mod]

theorem bit_eq_bits {n : Nat} (w : BitVec n) (i : Nat) : bit w i = (bits w i i == 1) := by
  unfold bit bits
  rw [show i + 1 - i = 1 by omega, Nat.pow_one]

@[simp] theorem bit_putBit_same (w : W64) (i : Nat) (b : Bool) (h : i < 64) : bit (putBit w i b) i = b := by
  rw [bit_eq_bits]
  unfold putBit
  rw [bits_putBits_same w i i _ (Nat.le_refl i) h, show i + 1 - i = 1 by omega]
  cases b <;> rfl

theorem bit_putBit_other (w : W64) (i j : Nat) (b : Bool) (h : i < 64) (hne : i ≠ j) : bit (putBit w i b) j = bit w j := by
  rw [bit_eq_bits, bit_eq_bits]
  unfold putBit
  rw [bits_putBits_other w i i _ j j (Nat.le_refl i) h (Nat.le_refl j) (by omega)]

theorem bits_putBit_other (w : W64) (i hi lo : Nat) (b : Bool) (h : i < 64) (hl : lo ≤ hi) (hd : i < lo ∨ hi < i) :
    bits (putBit w i b) hi lo = bits w hi lo := by
  unfold putBit
  exact bits_putBits_other w i i _ hi lo (Nat.le_refl i) h hl hd

theorem bit_putBits_other (w : W64) (hi lo v i : Nat) (h : lo ≤ hi) (h64 : hi < 64) (hd : hi < i ∨ i < lo) :
    bit (putBits w hi lo v) i = bit w i := by
  rw [bit_eq_bits, bit_eq_bits, bits_putBits_other w hi lo v i i h h64 (Nat.le_refl i) hd]

/-! ## Little-endian bytes -/

theorem leBytes_length (n : Nat) : ∀ v, (leBytes n v).length = n := by
  induction n with
  | zero => intro v; rfl
  | succ n ih => intro v; simp [leBytes, ih]

theorem leNat_leBytes (n : Nat) : ∀ v, leNat (leBytes n v) = v % 256 ^ n := by
  induction n with
  | zero => intro v; simp [leBytes, leNat, Nat.mod_one]
  | succ n ih =>
    intro v
    simp only [leBytes, leNat, ih, BitVec.toNat_ofNat]
    rw [show (256 : Nat) ^ (n + 1) = 256 * 256 ^ n from Nat.pow_succ', Nat.mod_mul]

end Sys2Proof.Machine
end

