-- ==== Sys2Proof/Laws/Tab.lean ====
section
/-! SUPPORT. The sparse tables and memory: a read after a write, at the same key and at another, and the canonical form that every
update keeps. -/
namespace Sys2Proof.Machine

variable {α : Type}

/-! ## The two copies of a flash record (R423) -/

/-- A reader takes what the last writer wrote. -/
@[simp] theorem TwoCopies.read_write (r : TwoCopies α) (v : α) : (r.write v).read = some v := by
  have up (a : BitVec 32) : recAfter (a + 1) a = true := by
    have h : a + 1 - a = 1 := by bv_omega
    unfold recAfter; rw [h]; decide
  have down (a : BitVec 32) : recAfter a (a + 1) = false := by
    have h : a - (a + 1) = 0xFFFFFFFF := by bv_omega
    unfold recAfter; rw [h]; decide
  unfold TwoCopies.write TwoCopies.newer
  split <;> split at * <;> simp_all [TwoCopies.read, TwoCopies.newer]

@[simp] theorem Flash.active_setActive (f : Flash) (b : Bool) : (f.setActive b).active = b := by simp [Flash.active, Flash.setActive]
@[simp] theorem Flash.mirror_setMirror (f : Flash) (n : Nat) : (f.setMirror n).mirror = n := by simp [Flash.mirror, Flash.setMirror]
@[simp] theorem Flash.log_setMirror (f : Flash) (n : Nat) : (f.setMirror n).log = f.log := by simp [Flash.log, Flash.setMirror]
@[simp] theorem Flash.log_setLog (f : Flash) (l : List ReasonEntry) : (f.setLog l).log = l := by simp [Flash.log, Flash.setLog]
@[simp] theorem Flash.mirror_setLog (f : Flash) (l : List ReasonEntry) : (f.setLog l).mirror = f.mirror := by simp [Flash.mirror, Flash.setLog]
@[simp] theorem Flash.ownerKey0_setKey (f : Flash) (n : Nat) (k : List Byte) :
    (f.setKey n k).ownerKey0 = if n = 0 then some k else f.ownerKey0 := by
  unfold Flash.ownerKey0 Flash.setKey; split <;> simp [Flash.ownerKey0]
@[simp] theorem Flash.ownerKey1_setKey (f : Flash) (n : Nat) (k : List Byte) :
    (f.setKey n k).ownerKey1 = if n = 0 then f.ownerKey1 else some k := by
  unfold Flash.ownerKey1 Flash.setKey; split <;> simp [Flash.ownerKey1]

theorem Tab.get_ins_same (dflt : Nat → α) (n : Nat) (v : α) (t : Tab α) (h : ∀ e ∈ t, e.1 ≠ n) :
    Tab.get dflt (Tab.ins n v t) n = v := by
  induction t with
  | nil => simp [Tab.ins, Tab.get]
  | cons e t ih =>
    obtain ⟨k, x⟩ := e
    have hk : k ≠ n := h (k, x) (by simp)
    unfold Tab.ins
    split
    · simp [Tab.get]
    · simp only [Tab.get, hk, if_false]
      exact ih (fun e he => h e (by simp [he]))

theorem Tab.get_ins_other (dflt : Nat → α) (n m : Nat) (v : α) (t : Tab α) (h : m ≠ n) :
    Tab.get dflt (Tab.ins n v t) m = Tab.get dflt t m := by
  induction t with
  | nil => simp [Tab.ins, Tab.get, h.symm]
  | cons e t ih =>
    obtain ⟨k, x⟩ := e
    unfold Tab.ins
    split
    · simp [Tab.get, h.symm]
    · simp only [Tab.get]
      split
      · rfl
      · exact ih

theorem Tab.get_del_other (dflt : Nat → α) (t : Tab α) (n m : Nat) (h : m ≠ n) : Tab.get dflt (t.del n) m = Tab.get dflt t m := by
  induction t with
  | nil => rfl
  | cons e t ih =>
    obtain ⟨k, x⟩ := e
    unfold Tab.del at ih ⊢
    by_cases hk : k = n
    · subst hk
      simpa [List.filter_cons, Tab.get, h.symm] using ih
    · rw [List.filter_cons_of_pos (by simp [hk])]
      simp only [Tab.get]
      split
      · rfl
      · exact ih

theorem Tab.get_del_same (dflt : Nat → α) (t : Tab α) (n : Nat) : Tab.get dflt (t.del n) n = dflt n := by
  induction t with
  | nil => rfl
  | cons e t ih =>
    obtain ⟨k, x⟩ := e
    unfold Tab.del at ih ⊢
    by_cases hk : k = n
    · simpa [List.filter_cons, hk] using ih
    · rw [List.filter_cons_of_pos (by simp [hk])]
      simp only [Tab.get, hk, if_false]
      exact ih

theorem Tab.del_keys (t : Tab α) (n : Nat) : ∀ e ∈ t.del n, e.1 ≠ n := by
  intro e he
  simpa [Tab.del] using (List.mem_filter.mp he).2

@[simp] theorem Tab.get_set_same [DecidableEq α] (dflt : Nat → α) (t : Tab α) (n : Nat) (v : α) :
    Tab.get dflt (Tab.set dflt t n v) n = v := by
  unfold Tab.set
  split
  · next h => rw [Tab.get_del_same, h]
  · exact Tab.get_ins_same dflt n v _ (Tab.del_keys t n)

theorem Tab.get_set_other [DecidableEq α] (dflt : Nat → α) (t : Tab α) (n m : Nat) (v : α) (h : m ≠ n) :
    Tab.get dflt (Tab.set dflt t n v) m = Tab.get dflt t m := by
  unfold Tab.set
  split
  · exact Tab.get_del_other dflt t n m h
  · rw [Tab.get_ins_other dflt n m v _ h, Tab.get_del_other dflt t n m h]

theorem Tab.find_ins_same (n : Nat) (v : α) (t : Tab α) (h : ∀ e ∈ t, e.1 ≠ n) : Tab.find (Tab.ins n v t) n = some v := by
  induction t with
  | nil => simp [Tab.ins, Tab.find]
  | cons e t ih =>
    obtain ⟨k, x⟩ := e
    have hk : k ≠ n := h (k, x) (by simp)
    unfold Tab.ins
    split
    · simp [Tab.find]
    · simp only [Tab.find, hk, if_false]
      exact ih (fun e he => h e (by simp [he]))

theorem Tab.find_ins_other (n m : Nat) (v : α) (t : Tab α) (h : m ≠ n) : Tab.find (Tab.ins n v t) m = Tab.find t m := by
  induction t with
  | nil => simp [Tab.ins, Tab.find, h.symm]
  | cons e t ih =>
    obtain ⟨k, x⟩ := e
    unfold Tab.ins
    split
    · simp [Tab.find, h.symm]
    · simp only [Tab.find]
      split
      · rfl
      · exact ih

theorem Tab.find_del_other (t : Tab α) (n m : Nat) (h : m ≠ n) : Tab.find (t.del n) m = Tab.find t m := by
  induction t with
  | nil => rfl
  | cons e t ih =>
    obtain ⟨k, x⟩ := e
    unfold Tab.del at ih ⊢
    by_cases hk : k = n
    · subst hk
      simpa [List.filter_cons, Tab.find, h.symm] using ih
    · rw [List.filter_cons_of_pos (by simp [hk])]
      simp only [Tab.find]
      split
      · rfl
      · exact ih

@[simp] theorem Tab.find_del_same (t : Tab α) (n : Nat) : Tab.find (t.del n) n = none := by
  induction t with
  | nil => rfl
  | cons e t ih =>
    obtain ⟨k, x⟩ := e
    unfold Tab.del at ih ⊢
    by_cases hk : k = n
    · simpa [List.filter_cons, hk] using ih
    · rw [List.filter_cons_of_pos (by simp [hk])]
      simp only [Tab.find, hk, if_false]
      exact ih

@[simp] theorem Tab.find_put_same (t : Tab α) (n : Nat) (v : α) : Tab.find (t.put n v) n = some v :=
  Tab.find_ins_same n v _ (Tab.del_keys t n)

theorem Tab.find_put_other (t : Tab α) (n m : Nat) (v : α) (h : m ≠ n) : Tab.find (t.put n v) m = Tab.find t m := by
  unfold Tab.put
  rw [Tab.find_ins_other n m v _ h, Tab.find_del_other t n m h]

/-! ## The canonical form -/

theorem Tab.sorted_iff (t : Tab α) : Tab.sorted t = true ↔ t.Pairwise (fun a b => a.1 < b.1) := by
  induction t with
  | nil => simp [Tab.sorted]
  | cons e t ih =>
    cases t with
    | nil => simp [Tab.sorted]
    | cons f t =>
      obtain ⟨a, x⟩ := e
      obtain ⟨b, y⟩ := f
      simp only [Tab.sorted, Bool.and_eq_true, decide_eq_true_eq, ih, List.pairwise_cons]
      constructor
      · rintro ⟨h, hb, ht⟩
        refine ⟨?_, hb, ht⟩
        intro c hc
        rcases List.mem_cons.mp hc with rfl | hc
        · exact h
        · exact Nat.lt_trans h (hb c hc)
      · rintro ⟨h, hb, ht⟩
        exact ⟨h (b, y) (by simp), hb, ht⟩

theorem Tab.sorted_filter (t : Tab α) (f : Nat × α → Bool) (h : Tab.sorted t = true) : Tab.sorted (t.filter f) = true :=
  (Tab.sorted_iff _).mpr (((Tab.sorted_iff t).mp h).filter f)

theorem Tab.mem_ins (n : Nat) (v : α) (t : Tab α) (e : Nat × α) : e ∈ Tab.ins n v t ↔ e = (n, v) ∨ e ∈ t := by
  induction t with
  | nil => simp [Tab.ins]
  | cons f t ih =>
    obtain ⟨k, x⟩ := f
    unfold Tab.ins
    split
    · simp
    · simp only [List.mem_cons, ih]
      exact or_left_comm

theorem Tab.sorted_ins (n : Nat) (v : α) (t : Tab α) (h : Tab.sorted t = true) (hn : ∀ e ∈ t, e.1 ≠ n) :
    Tab.sorted (Tab.ins n v t) = true := by
  rw [Tab.sorted_iff] at h ⊢
  induction t with
  | nil => simp [Tab.ins]
  | cons e t ih =>
    obtain ⟨k, x⟩ := e
    have hk : k ≠ n := hn (k, x) (by simp)
    rw [List.pairwise_cons] at h
    unfold Tab.ins
    split
    · next hlt =>
      refine List.pairwise_cons.mpr ⟨?_, List.pairwise_cons.mpr h⟩
      intro c hc
      rcases List.mem_cons.mp hc with rfl | hc
      · exact hlt
      · exact Nat.lt_trans hlt (h.1 c hc)
    · next hge =>
      refine List.pairwise_cons.mpr ⟨?_, ih h.2 (fun e he => hn e (by simp [he]))⟩
      intro c hc
      rcases (Tab.mem_ins n v t c).mp hc with rfl | hc
      · exact Nat.lt_of_le_of_ne (Nat.le_of_not_lt hge) hk
      · exact h.1 c hc

theorem Tab.wf_filter [DecidableEq α] (dflt : Nat → α) (t : Tab α) (f : Nat × α → Bool) (h : Tab.wf dflt t = true) :
    Tab.wf dflt (t.filter f) = true := by
  unfold Tab.wf at h ⊢
  rw [Bool.and_eq_true] at h ⊢
  refine ⟨Tab.sorted_filter t f h.1, ?_⟩
  rw [List.all_eq_true] at h ⊢
  exact fun e he => h.2 e (List.mem_filter.mp he).1

theorem Tab.wf_set [DecidableEq α] (dflt : Nat → α) (t : Tab α) (n : Nat) (v : α) (h : Tab.wf dflt t = true) :
    Tab.wf dflt (Tab.set dflt t n v) = true := by
  have hd : Tab.wf dflt (t.del n) = true := Tab.wf_filter dflt t _ h
  unfold Tab.set
  split
  · exact hd
  · next hv =>
    unfold Tab.wf at hd ⊢
    rw [Bool.and_eq_true] at hd ⊢
    refine ⟨Tab.sorted_ins n v _ hd.1 (Tab.del_keys t n), ?_⟩
    rw [List.all_eq_true] at hd ⊢
    intro e he
    rcases (Tab.mem_ins n v _ e).mp he with rfl | he
    · simpa using hv
    · exact hd.2 e he

/-! ## Memory -/

@[simp] theorem memGet_memSet_same (m : List Host.Cell) (a : Nat) (b : Byte) : memGet (memSet m a b) a = b := Tab.get_set_same _ m a b

theorem memGet_memSet_other (m : List Host.Cell) (a c : Nat) (b : Byte) (h : c ≠ a) : memGet (memSet m a b) c = memGet m c :=
  Tab.get_set_other _ m a c b h

/-- A read outside the written run is as before. -/
theorem memGet_memWrite_outside (bs : List Byte) : ∀ (m : List Host.Cell) (a c : Nat), (c < a ∨ a + bs.length ≤ c) →
    memGet (memWrite m a bs) c = memGet m c := by
  induction bs with
  | nil => intro m a c _; rfl
  | cons b t ih =>
    intro m a c h
    simp only [List.length_cons] at h
    simp only [memWrite]
    rw [ih (memSet m a b) (a + 1) c (by omega), memGet_memSet_other m a c b (by omega)]

/-- A read of a written byte gives it. -/
theorem memGet_memWrite_inside (bs : List Byte) : ∀ (m : List Host.Cell) (a k : Nat) (h : k < bs.length),
    memGet (memWrite m a bs) (a + k) = bs[k] := by
  induction bs with
  | nil => intro m a k h; simp at h
  | cons b t ih =>
    intro m a k h
    simp only [memWrite]
    cases k with
    | zero =>
      rw [show a + 0 = a from rfl, memGet_memWrite_outside t _ (a + 1) a (by omega)]
      simp
    | succ k =>
      have := ih (memSet m a b) (a + 1) k (by simpa using h)
      rw [show a + (k + 1) = a + 1 + k by omega, this]
      simp

@[simp] theorem memRead_length (m : List Host.Cell) (n : Nat) : ∀ a, (memRead m a n).length = n := by
  induction n with
  | zero => intro a; rfl
  | succ n ih => intro a; simp [memRead, ih]

/-- A run of bytes reads back as it was written. -/
theorem memRead_memWrite (bs : List Byte) (m : List Host.Cell) (a : Nat) : memRead (memWrite m a bs) a bs.length = bs := by
  have key : ∀ (l : List Byte) (m' : List Host.Cell) (b : Nat), (∀ k (h : k < l.length), memGet m' (b + k) = l[k]) →
      memRead m' b l.length = l := by
    intro l
    induction l with
    | nil => intro m' b _; rfl
    | cons x t ih =>
      intro m' b h
      simp only [List.length_cons, memRead]
      have h0 := h 0 (by simp)
      rw [Nat.add_zero] at h0
      rw [h0, ih m' (b + 1) (fun k hk => by
        have := h (k + 1) (by simpa using hk)
        rw [show b + (k + 1) = b + 1 + k by omega] at this
        simpa using this)]
      simp
  exact key bs _ a (memGet_memWrite_inside bs m a)

theorem memRead_congr (m m' : List Host.Cell) (n : Nat) : ∀ a, (∀ c, a ≤ c → c < a + n → memGet m c = memGet m' c) →
    memRead m a n = memRead m' a n := by
  induction n with
  | zero => intro a _; rfl
  | succ n ih =>
    intro a h
    simp only [memRead]
    rw [h a (by omega) (by omega), ih (a + 1) (fun c h1 h2 => h c (by omega) (by omega))]

/-- Every write keeps the canonical form of memory. -/
theorem Memory.wf_memSet (m : List Host.Cell) (a : Nat) (b : Byte) (h : Memory.wf m = true) : Memory.wf (memSet m a b) = true :=
  Tab.wf_set _ m a b h

theorem Memory.wf_memWrite (bs : List Byte) : ∀ (m : List Host.Cell) (a : Nat), Memory.wf m = true → Memory.wf (memWrite m a bs) = true := by
  induction bs with
  | nil => intro m a h; exact h
  | cons b t ih => intro m a h; exact ih _ _ (Memory.wf_memSet m a b h)

theorem Memory.wf_memZero (m : List Host.Cell) (lo hi : Nat) (h : Memory.wf m = true) : Memory.wf (memZero m lo hi) = true :=
  Tab.wf_filter _ m _ h

/-- A cleared range reads as zeros. -/
theorem memGet_memZero_inside (m : List Host.Cell) (lo hi a : Nat) (h1 : lo ≤ a) (h2 : a < hi) : memGet (memZero m lo hi) a = 0 := by
  unfold memGet memZero
  induction m with
  | nil => rfl
  | cons e t ih =>
    obtain ⟨k, x⟩ := e
    rw [List.filter_cons]
    split
    · next hk =>
      have hne : k ≠ a := by rintro rfl; simp [h1, h2] at hk
      simpa [Tab.get, hne] using ih
    · exact ih

theorem memGet_memZero_outside (m : List Host.Cell) (lo hi a : Nat) (h : a < lo ∨ hi ≤ a) : memGet (memZero m lo hi) a = memGet m a := by
  unfold memGet memZero
  induction m with
  | nil => rfl
  | cons e t ih =>
    obtain ⟨k, x⟩ := e
    by_cases hk : k = a
    · subst hk
      rw [List.filter_cons_of_pos (by simp; omega)]
      simp [Tab.get]
    · rw [List.filter_cons]
      split
      · simpa [Tab.get, hk] using ih
      · simpa [Tab.get, hk] using ih

end Sys2Proof.Machine
end

