-- ==== Sys2Proof/Laws/State.lean ====
section
/-! SUPPORT. What each update of the state leaves as it was, one lemma per field, and what it writes. -/
namespace Sys2Proof.Machine

/-! ## The device's fields after each update -/

section
variable (d : Dev) (o : Nat) (v : W64)
@[simp] theorem Dev.setReg_mem : (d.setReg o v).mem = d.mem := rfl
@[simp] theorem Dev.setReg_mesh : (d.setReg o v).mesh = d.mesh := rfl
@[simp] theorem Dev.setReg_poison : (d.setReg o v).poison = d.poison := rfl
@[simp] theorem Dev.setReg_parts : (d.setReg o v).parts = d.parts := rfl
@[simp] theorem Dev.setReg_coll : (d.setReg o v).coll = d.coll := rfl
@[simp] theorem Dev.setReg_mbFull : (d.setReg o v).mbFull = d.mbFull := rfl
@[simp] theorem Dev.setReg_journal : (d.setReg o v).journal = d.journal := rfl
@[simp] theorem Dev.setReg_macs : (d.setReg o v).macs = d.macs := rfl
@[simp] theorem Dev.setReg_deficit : (d.setReg o v).deficit = d.deficit := rfl
@[simp] theorem Dev.setReg_txq : (d.setReg o v).txq = d.txq := rfl
@[simp] theorem Dev.setReg_assoc : (d.setReg o v).assoc = d.assoc := rfl
@[simp] theorem Dev.setReg_flows : (d.setReg o v).flows = d.flows := rfl
@[simp] theorem Dev.setReg_flowNext : (d.setReg o v).flowNext = d.flowNext := rfl
@[simp] theorem Dev.setReg_winQ : (d.setReg o v).winQ = d.winQ := rfl
@[simp] theorem Dev.setReg_inj : (d.setReg o v).inj = d.inj := rfl
@[simp] theorem Dev.setReg_inc : (d.setReg o v).inc = d.inc := rfl
@[simp] theorem Dev.setReg_reports : (d.setReg o v).reports = d.reports := rfl
@[simp] theorem Dev.setReg_rub0 : (d.setReg o v).rub0 = d.rub0 := rfl
@[simp] theorem Dev.setReg_rub1 : (d.setReg o v).rub1 = d.rub1 := rfl
@[simp] theorem Dev.setReg_rubCopies : (d.setReg o v).rubCopies = d.rubCopies := rfl
@[simp] theorem Dev.setReg_meas : (d.setReg o v).meas = d.meas := rfl
@[simp] theorem Dev.setReg_stage : (d.setReg o v).stage = d.stage := rfl
@[simp] theorem Dev.setReg_boot : (d.setReg o v).boot = d.boot := rfl
@[simp] theorem Dev.setReg_dbg : (d.setReg o v).dbg = d.dbg := rfl
@[simp] theorem Dev.setReg_ethCycle : (d.setReg o v).ethCycle = d.ethCycle := rfl
@[simp] theorem Dev.setReg_readData : (d.setReg o v).readData = d.readData := rfl
@[simp] theorem Dev.setReg_freeCount : (d.setReg o v).freeCount = d.freeCount := rfl
@[simp] theorem Dev.setReg_part (t : PartId) : (d.setReg o v).part t = d.part t := rfl
@[simp] theorem Dev.setReg_port (t : PartId) (q' : Port) : (d.setReg o v).port t q' = d.port t q' := rfl
end

section
variable (d : Dev) (o hi lo v : Nat)
@[simp] theorem Dev.setFld_mem : (d.setFld o hi lo v).mem = d.mem := Dev.setReg_mem ..
@[simp] theorem Dev.setFld_mesh : (d.setFld o hi lo v).mesh = d.mesh := Dev.setReg_mesh ..
@[simp] theorem Dev.setFld_poison : (d.setFld o hi lo v).poison = d.poison := Dev.setReg_poison ..
@[simp] theorem Dev.setFld_parts : (d.setFld o hi lo v).parts = d.parts := Dev.setReg_parts ..
@[simp] theorem Dev.setFld_coll : (d.setFld o hi lo v).coll = d.coll := Dev.setReg_coll ..
@[simp] theorem Dev.setFld_mbFull : (d.setFld o hi lo v).mbFull = d.mbFull := Dev.setReg_mbFull ..
@[simp] theorem Dev.setFld_journal : (d.setFld o hi lo v).journal = d.journal := Dev.setReg_journal ..
@[simp] theorem Dev.setFld_macs : (d.setFld o hi lo v).macs = d.macs := Dev.setReg_macs ..
@[simp] theorem Dev.setFld_deficit : (d.setFld o hi lo v).deficit = d.deficit := Dev.setReg_deficit ..
@[simp] theorem Dev.setFld_txq : (d.setFld o hi lo v).txq = d.txq := Dev.setReg_txq ..
@[simp] theorem Dev.setFld_assoc : (d.setFld o hi lo v).assoc = d.assoc := Dev.setReg_assoc ..
@[simp] theorem Dev.setFld_flows : (d.setFld o hi lo v).flows = d.flows := Dev.setReg_flows ..
@[simp] theorem Dev.setFld_flowNext : (d.setFld o hi lo v).flowNext = d.flowNext := Dev.setReg_flowNext ..
@[simp] theorem Dev.setFld_winQ : (d.setFld o hi lo v).winQ = d.winQ := Dev.setReg_winQ ..
@[simp] theorem Dev.setFld_inj : (d.setFld o hi lo v).inj = d.inj := Dev.setReg_inj ..
@[simp] theorem Dev.setFld_inc : (d.setFld o hi lo v).inc = d.inc := Dev.setReg_inc ..
@[simp] theorem Dev.setFld_reports : (d.setFld o hi lo v).reports = d.reports := Dev.setReg_reports ..
@[simp] theorem Dev.setFld_rub0 : (d.setFld o hi lo v).rub0 = d.rub0 := Dev.setReg_rub0 ..
@[simp] theorem Dev.setFld_rub1 : (d.setFld o hi lo v).rub1 = d.rub1 := Dev.setReg_rub1 ..
@[simp] theorem Dev.setFld_rubCopies : (d.setFld o hi lo v).rubCopies = d.rubCopies := Dev.setReg_rubCopies ..
@[simp] theorem Dev.setFld_meas : (d.setFld o hi lo v).meas = d.meas := Dev.setReg_meas ..
@[simp] theorem Dev.setFld_stage : (d.setFld o hi lo v).stage = d.stage := Dev.setReg_stage ..
@[simp] theorem Dev.setFld_boot : (d.setFld o hi lo v).boot = d.boot := Dev.setReg_boot ..
@[simp] theorem Dev.setFld_dbg : (d.setFld o hi lo v).dbg = d.dbg := Dev.setReg_dbg ..
@[simp] theorem Dev.setFld_ethCycle : (d.setFld o hi lo v).ethCycle = d.ethCycle := Dev.setReg_ethCycle ..
@[simp] theorem Dev.setFld_readData : (d.setFld o hi lo v).readData = d.readData := Dev.setReg_readData ..
@[simp] theorem Dev.setFld_freeCount : (d.setFld o hi lo v).freeCount = d.freeCount := Dev.setReg_freeCount ..
@[simp] theorem Dev.setFld_part (t : PartId) : (d.setFld o hi lo v).part t = d.part t := Dev.setReg_part ..
@[simp] theorem Dev.setFld_port (t : PartId) (q' : Port) : (d.setFld o hi lo v).port t q' = d.port t q' := Dev.setReg_port ..
end

section
variable (d : Dev) (o i : Nat) (b : Bool)
@[simp] theorem Dev.setFlag_mem : (d.setFlag o i b).mem = d.mem := Dev.setReg_mem ..
@[simp] theorem Dev.setFlag_mesh : (d.setFlag o i b).mesh = d.mesh := Dev.setReg_mesh ..
@[simp] theorem Dev.setFlag_poison : (d.setFlag o i b).poison = d.poison := Dev.setReg_poison ..
@[simp] theorem Dev.setFlag_parts : (d.setFlag o i b).parts = d.parts := Dev.setReg_parts ..
@[simp] theorem Dev.setFlag_coll : (d.setFlag o i b).coll = d.coll := Dev.setReg_coll ..
@[simp] theorem Dev.setFlag_mbFull : (d.setFlag o i b).mbFull = d.mbFull := Dev.setReg_mbFull ..
@[simp] theorem Dev.setFlag_journal : (d.setFlag o i b).journal = d.journal := Dev.setReg_journal ..
@[simp] theorem Dev.setFlag_macs : (d.setFlag o i b).macs = d.macs := Dev.setReg_macs ..
@[simp] theorem Dev.setFlag_deficit : (d.setFlag o i b).deficit = d.deficit := Dev.setReg_deficit ..
@[simp] theorem Dev.setFlag_txq : (d.setFlag o i b).txq = d.txq := Dev.setReg_txq ..
@[simp] theorem Dev.setFlag_assoc : (d.setFlag o i b).assoc = d.assoc := Dev.setReg_assoc ..
@[simp] theorem Dev.setFlag_flows : (d.setFlag o i b).flows = d.flows := Dev.setReg_flows ..
@[simp] theorem Dev.setFlag_flowNext : (d.setFlag o i b).flowNext = d.flowNext := Dev.setReg_flowNext ..
@[simp] theorem Dev.setFlag_winQ : (d.setFlag o i b).winQ = d.winQ := Dev.setReg_winQ ..
@[simp] theorem Dev.setFlag_inj : (d.setFlag o i b).inj = d.inj := Dev.setReg_inj ..
@[simp] theorem Dev.setFlag_inc : (d.setFlag o i b).inc = d.inc := Dev.setReg_inc ..
@[simp] theorem Dev.setFlag_reports : (d.setFlag o i b).reports = d.reports := Dev.setReg_reports ..
@[simp] theorem Dev.setFlag_rub0 : (d.setFlag o i b).rub0 = d.rub0 := Dev.setReg_rub0 ..
@[simp] theorem Dev.setFlag_rub1 : (d.setFlag o i b).rub1 = d.rub1 := Dev.setReg_rub1 ..
@[simp] theorem Dev.setFlag_rubCopies : (d.setFlag o i b).rubCopies = d.rubCopies := Dev.setReg_rubCopies ..
@[simp] theorem Dev.setFlag_meas : (d.setFlag o i b).meas = d.meas := Dev.setReg_meas ..
@[simp] theorem Dev.setFlag_stage : (d.setFlag o i b).stage = d.stage := Dev.setReg_stage ..
@[simp] theorem Dev.setFlag_boot : (d.setFlag o i b).boot = d.boot := Dev.setReg_boot ..
@[simp] theorem Dev.setFlag_dbg : (d.setFlag o i b).dbg = d.dbg := Dev.setReg_dbg ..
@[simp] theorem Dev.setFlag_ethCycle : (d.setFlag o i b).ethCycle = d.ethCycle := Dev.setReg_ethCycle ..
@[simp] theorem Dev.setFlag_readData : (d.setFlag o i b).readData = d.readData := Dev.setReg_readData ..
@[simp] theorem Dev.setFlag_freeCount : (d.setFlag o i b).freeCount = d.freeCount := Dev.setReg_freeCount ..
@[simp] theorem Dev.setFlag_part (t : PartId) : (d.setFlag o i b).part t = d.part t := Dev.setReg_part ..
@[simp] theorem Dev.setFlag_port (t : PartId) (q' : Port) : (d.setFlag o i b).port t q' = d.port t q' := Dev.setReg_port ..
end

section
variable (d : Dev) (o hi lo n : Nat)
@[simp] theorem Dev.bump_mem : (d.bump o hi lo n).mem = d.mem := Dev.setFld_mem ..
@[simp] theorem Dev.bump_mesh : (d.bump o hi lo n).mesh = d.mesh := Dev.setFld_mesh ..
@[simp] theorem Dev.bump_poison : (d.bump o hi lo n).poison = d.poison := Dev.setFld_poison ..
@[simp] theorem Dev.bump_parts : (d.bump o hi lo n).parts = d.parts := Dev.setFld_parts ..
@[simp] theorem Dev.bump_coll : (d.bump o hi lo n).coll = d.coll := Dev.setFld_coll ..
@[simp] theorem Dev.bump_mbFull : (d.bump o hi lo n).mbFull = d.mbFull := Dev.setFld_mbFull ..
@[simp] theorem Dev.bump_journal : (d.bump o hi lo n).journal = d.journal := Dev.setFld_journal ..
@[simp] theorem Dev.bump_macs : (d.bump o hi lo n).macs = d.macs := Dev.setFld_macs ..
@[simp] theorem Dev.bump_deficit : (d.bump o hi lo n).deficit = d.deficit := Dev.setFld_deficit ..
@[simp] theorem Dev.bump_txq : (d.bump o hi lo n).txq = d.txq := Dev.setFld_txq ..
@[simp] theorem Dev.bump_assoc : (d.bump o hi lo n).assoc = d.assoc := Dev.setFld_assoc ..
@[simp] theorem Dev.bump_flows : (d.bump o hi lo n).flows = d.flows := Dev.setFld_flows ..
@[simp] theorem Dev.bump_flowNext : (d.bump o hi lo n).flowNext = d.flowNext := Dev.setFld_flowNext ..
@[simp] theorem Dev.bump_winQ : (d.bump o hi lo n).winQ = d.winQ := Dev.setFld_winQ ..
@[simp] theorem Dev.bump_inj : (d.bump o hi lo n).inj = d.inj := Dev.setFld_inj ..
@[simp] theorem Dev.bump_inc : (d.bump o hi lo n).inc = d.inc := Dev.setFld_inc ..
@[simp] theorem Dev.bump_reports : (d.bump o hi lo n).reports = d.reports := Dev.setFld_reports ..
@[simp] theorem Dev.bump_rub0 : (d.bump o hi lo n).rub0 = d.rub0 := Dev.setFld_rub0 ..
@[simp] theorem Dev.bump_rub1 : (d.bump o hi lo n).rub1 = d.rub1 := Dev.setFld_rub1 ..
@[simp] theorem Dev.bump_rubCopies : (d.bump o hi lo n).rubCopies = d.rubCopies := Dev.setFld_rubCopies ..
@[simp] theorem Dev.bump_meas : (d.bump o hi lo n).meas = d.meas := Dev.setFld_meas ..
@[simp] theorem Dev.bump_stage : (d.bump o hi lo n).stage = d.stage := Dev.setFld_stage ..
@[simp] theorem Dev.bump_boot : (d.bump o hi lo n).boot = d.boot := Dev.setFld_boot ..
@[simp] theorem Dev.bump_dbg : (d.bump o hi lo n).dbg = d.dbg := Dev.setFld_dbg ..
@[simp] theorem Dev.bump_ethCycle : (d.bump o hi lo n).ethCycle = d.ethCycle := Dev.setFld_ethCycle ..
@[simp] theorem Dev.bump_readData : (d.bump o hi lo n).readData = d.readData := Dev.setFld_readData ..
@[simp] theorem Dev.bump_freeCount : (d.bump o hi lo n).freeCount = d.freeCount := Dev.setFld_freeCount ..
@[simp] theorem Dev.bump_part (t : PartId) : (d.bump o hi lo n).part t = d.part t := Dev.setFld_part ..
@[simp] theorem Dev.bump_port (t : PartId) (q' : Port) : (d.bump o hi lo n).port t q' = d.port t q' := Dev.setFld_port ..
end

section
variable (d : Dev) (o hi lo n : Nat)
@[simp] theorem Dev.bumpWrap_mem : (d.bumpWrap o hi lo n).mem = d.mem := Dev.setFld_mem ..
@[simp] theorem Dev.bumpWrap_mesh : (d.bumpWrap o hi lo n).mesh = d.mesh := Dev.setFld_mesh ..
@[simp] theorem Dev.bumpWrap_poison : (d.bumpWrap o hi lo n).poison = d.poison := Dev.setFld_poison ..
@[simp] theorem Dev.bumpWrap_parts : (d.bumpWrap o hi lo n).parts = d.parts := Dev.setFld_parts ..
@[simp] theorem Dev.bumpWrap_coll : (d.bumpWrap o hi lo n).coll = d.coll := Dev.setFld_coll ..
@[simp] theorem Dev.bumpWrap_mbFull : (d.bumpWrap o hi lo n).mbFull = d.mbFull := Dev.setFld_mbFull ..
@[simp] theorem Dev.bumpWrap_journal : (d.bumpWrap o hi lo n).journal = d.journal := Dev.setFld_journal ..
@[simp] theorem Dev.bumpWrap_macs : (d.bumpWrap o hi lo n).macs = d.macs := Dev.setFld_macs ..
@[simp] theorem Dev.bumpWrap_deficit : (d.bumpWrap o hi lo n).deficit = d.deficit := Dev.setFld_deficit ..
@[simp] theorem Dev.bumpWrap_txq : (d.bumpWrap o hi lo n).txq = d.txq := Dev.setFld_txq ..
@[simp] theorem Dev.bumpWrap_assoc : (d.bumpWrap o hi lo n).assoc = d.assoc := Dev.setFld_assoc ..
@[simp] theorem Dev.bumpWrap_flows : (d.bumpWrap o hi lo n).flows = d.flows := Dev.setFld_flows ..
@[simp] theorem Dev.bumpWrap_flowNext : (d.bumpWrap o hi lo n).flowNext = d.flowNext := Dev.setFld_flowNext ..
@[simp] theorem Dev.bumpWrap_winQ : (d.bumpWrap o hi lo n).winQ = d.winQ := Dev.setFld_winQ ..
@[simp] theorem Dev.bumpWrap_inj : (d.bumpWrap o hi lo n).inj = d.inj := Dev.setFld_inj ..
@[simp] theorem Dev.bumpWrap_inc : (d.bumpWrap o hi lo n).inc = d.inc := Dev.setFld_inc ..
@[simp] theorem Dev.bumpWrap_reports : (d.bumpWrap o hi lo n).reports = d.reports := Dev.setFld_reports ..
@[simp] theorem Dev.bumpWrap_rub0 : (d.bumpWrap o hi lo n).rub0 = d.rub0 := Dev.setFld_rub0 ..
@[simp] theorem Dev.bumpWrap_rub1 : (d.bumpWrap o hi lo n).rub1 = d.rub1 := Dev.setFld_rub1 ..
@[simp] theorem Dev.bumpWrap_rubCopies : (d.bumpWrap o hi lo n).rubCopies = d.rubCopies := Dev.setFld_rubCopies ..
@[simp] theorem Dev.bumpWrap_meas : (d.bumpWrap o hi lo n).meas = d.meas := Dev.setFld_meas ..
@[simp] theorem Dev.bumpWrap_stage : (d.bumpWrap o hi lo n).stage = d.stage := Dev.setFld_stage ..
@[simp] theorem Dev.bumpWrap_boot : (d.bumpWrap o hi lo n).boot = d.boot := Dev.setFld_boot ..
@[simp] theorem Dev.bumpWrap_dbg : (d.bumpWrap o hi lo n).dbg = d.dbg := Dev.setFld_dbg ..
@[simp] theorem Dev.bumpWrap_ethCycle : (d.bumpWrap o hi lo n).ethCycle = d.ethCycle := Dev.setFld_ethCycle ..
@[simp] theorem Dev.bumpWrap_readData : (d.bumpWrap o hi lo n).readData = d.readData := Dev.setFld_readData ..
@[simp] theorem Dev.bumpWrap_freeCount : (d.bumpWrap o hi lo n).freeCount = d.freeCount := Dev.setFld_freeCount ..
@[simp] theorem Dev.bumpWrap_part (t : PartId) : (d.bumpWrap o hi lo n).part t = d.part t := Dev.setFld_part ..
@[simp] theorem Dev.bumpWrap_port (t : PartId) (q' : Port) : (d.bumpWrap o hi lo n).port t q' = d.port t q' := Dev.setFld_port ..
end

section
variable (d : Dev) (o : Nat) (v : W64)
@[simp] theorem Dev.writeReg_mem : (d.writeReg o v).mem = d.mem := Dev.setReg_mem ..
@[simp] theorem Dev.writeReg_mesh : (d.writeReg o v).mesh = d.mesh := Dev.setReg_mesh ..
@[simp] theorem Dev.writeReg_poison : (d.writeReg o v).poison = d.poison := Dev.setReg_poison ..
@[simp] theorem Dev.writeReg_parts : (d.writeReg o v).parts = d.parts := Dev.setReg_parts ..
@[simp] theorem Dev.writeReg_coll : (d.writeReg o v).coll = d.coll := Dev.setReg_coll ..
@[simp] theorem Dev.writeReg_mbFull : (d.writeReg o v).mbFull = d.mbFull := Dev.setReg_mbFull ..
@[simp] theorem Dev.writeReg_journal : (d.writeReg o v).journal = d.journal := Dev.setReg_journal ..
@[simp] theorem Dev.writeReg_macs : (d.writeReg o v).macs = d.macs := Dev.setReg_macs ..
@[simp] theorem Dev.writeReg_deficit : (d.writeReg o v).deficit = d.deficit := Dev.setReg_deficit ..
@[simp] theorem Dev.writeReg_txq : (d.writeReg o v).txq = d.txq := Dev.setReg_txq ..
@[simp] theorem Dev.writeReg_assoc : (d.writeReg o v).assoc = d.assoc := Dev.setReg_assoc ..
@[simp] theorem Dev.writeReg_flows : (d.writeReg o v).flows = d.flows := Dev.setReg_flows ..
@[simp] theorem Dev.writeReg_flowNext : (d.writeReg o v).flowNext = d.flowNext := Dev.setReg_flowNext ..
@[simp] theorem Dev.writeReg_winQ : (d.writeReg o v).winQ = d.winQ := Dev.setReg_winQ ..
@[simp] theorem Dev.writeReg_inj : (d.writeReg o v).inj = d.inj := Dev.setReg_inj ..
@[simp] theorem Dev.writeReg_inc : (d.writeReg o v).inc = d.inc := Dev.setReg_inc ..
@[simp] theorem Dev.writeReg_reports : (d.writeReg o v).reports = d.reports := Dev.setReg_reports ..
@[simp] theorem Dev.writeReg_rub0 : (d.writeReg o v).rub0 = d.rub0 := Dev.setReg_rub0 ..
@[simp] theorem Dev.writeReg_rub1 : (d.writeReg o v).rub1 = d.rub1 := Dev.setReg_rub1 ..
@[simp] theorem Dev.writeReg_rubCopies : (d.writeReg o v).rubCopies = d.rubCopies := Dev.setReg_rubCopies ..
@[simp] theorem Dev.writeReg_meas : (d.writeReg o v).meas = d.meas := Dev.setReg_meas ..
@[simp] theorem Dev.writeReg_stage : (d.writeReg o v).stage = d.stage := Dev.setReg_stage ..
@[simp] theorem Dev.writeReg_boot : (d.writeReg o v).boot = d.boot := Dev.setReg_boot ..
@[simp] theorem Dev.writeReg_dbg : (d.writeReg o v).dbg = d.dbg := Dev.setReg_dbg ..
@[simp] theorem Dev.writeReg_ethCycle : (d.writeReg o v).ethCycle = d.ethCycle := Dev.setReg_ethCycle ..
@[simp] theorem Dev.writeReg_readData : (d.writeReg o v).readData = d.readData := Dev.setReg_readData ..
@[simp] theorem Dev.writeReg_freeCount : (d.writeReg o v).freeCount = d.freeCount := Dev.setReg_freeCount ..
@[simp] theorem Dev.writeReg_part (t : PartId) : (d.writeReg o v).part t = d.part t := Dev.setReg_part ..
@[simp] theorem Dev.writeReg_port (t : PartId) (q' : Port) : (d.writeReg o v).port t q' = d.port t q' := Dev.setReg_port ..
end

section
variable (d : Dev) (keep : Nat → Bool)
@[simp] theorem Dev.resetRegs_mem : (d.resetRegs keep).mem = d.mem := rfl
@[simp] theorem Dev.resetRegs_mesh : (d.resetRegs keep).mesh = d.mesh := rfl
@[simp] theorem Dev.resetRegs_poison : (d.resetRegs keep).poison = d.poison := rfl
@[simp] theorem Dev.resetRegs_parts : (d.resetRegs keep).parts = d.parts := rfl
@[simp] theorem Dev.resetRegs_coll : (d.resetRegs keep).coll = d.coll := rfl
@[simp] theorem Dev.resetRegs_mbFull : (d.resetRegs keep).mbFull = d.mbFull := rfl
@[simp] theorem Dev.resetRegs_journal : (d.resetRegs keep).journal = d.journal := rfl
@[simp] theorem Dev.resetRegs_macs : (d.resetRegs keep).macs = d.macs := rfl
@[simp] theorem Dev.resetRegs_deficit : (d.resetRegs keep).deficit = d.deficit := rfl
@[simp] theorem Dev.resetRegs_txq : (d.resetRegs keep).txq = d.txq := rfl
@[simp] theorem Dev.resetRegs_assoc : (d.resetRegs keep).assoc = d.assoc := rfl
@[simp] theorem Dev.resetRegs_flows : (d.resetRegs keep).flows = d.flows := rfl
@[simp] theorem Dev.resetRegs_flowNext : (d.resetRegs keep).flowNext = d.flowNext := rfl
@[simp] theorem Dev.resetRegs_winQ : (d.resetRegs keep).winQ = d.winQ := rfl
@[simp] theorem Dev.resetRegs_inj : (d.resetRegs keep).inj = d.inj := rfl
@[simp] theorem Dev.resetRegs_inc : (d.resetRegs keep).inc = d.inc := rfl
@[simp] theorem Dev.resetRegs_reports : (d.resetRegs keep).reports = d.reports := rfl
@[simp] theorem Dev.resetRegs_rub0 : (d.resetRegs keep).rub0 = d.rub0 := rfl
@[simp] theorem Dev.resetRegs_rub1 : (d.resetRegs keep).rub1 = d.rub1 := rfl
@[simp] theorem Dev.resetRegs_rubCopies : (d.resetRegs keep).rubCopies = d.rubCopies := rfl
@[simp] theorem Dev.resetRegs_meas : (d.resetRegs keep).meas = d.meas := rfl
@[simp] theorem Dev.resetRegs_stage : (d.resetRegs keep).stage = d.stage := rfl
@[simp] theorem Dev.resetRegs_boot : (d.resetRegs keep).boot = d.boot := rfl
@[simp] theorem Dev.resetRegs_dbg : (d.resetRegs keep).dbg = d.dbg := rfl
@[simp] theorem Dev.resetRegs_ethCycle : (d.resetRegs keep).ethCycle = d.ethCycle := rfl
@[simp] theorem Dev.resetRegs_readData : (d.resetRegs keep).readData = d.readData := rfl
@[simp] theorem Dev.resetRegs_freeCount : (d.resetRegs keep).freeCount = d.freeCount := rfl
@[simp] theorem Dev.resetRegs_part (t : PartId) : (d.resetRegs keep).part t = d.part t := rfl
@[simp] theorem Dev.resetRegs_port (t : PartId) (q' : Port) : (d.resetRegs keep).port t q' = d.port t q' := rfl
end

section
variable (d : Dev) (p : PartId) (c : Nat) (v : BitVec 32)
@[simp] theorem Dev.setCtr_mem : (d.setCtr p c v).mem = d.mem := Dev.setReg_mem ..
@[simp] theorem Dev.setCtr_mesh : (d.setCtr p c v).mesh = d.mesh := Dev.setReg_mesh ..
@[simp] theorem Dev.setCtr_poison : (d.setCtr p c v).poison = d.poison := Dev.setReg_poison ..
@[simp] theorem Dev.setCtr_parts : (d.setCtr p c v).parts = d.parts := Dev.setReg_parts ..
@[simp] theorem Dev.setCtr_coll : (d.setCtr p c v).coll = d.coll := Dev.setReg_coll ..
@[simp] theorem Dev.setCtr_mbFull : (d.setCtr p c v).mbFull = d.mbFull := Dev.setReg_mbFull ..
@[simp] theorem Dev.setCtr_journal : (d.setCtr p c v).journal = d.journal := Dev.setReg_journal ..
@[simp] theorem Dev.setCtr_macs : (d.setCtr p c v).macs = d.macs := Dev.setReg_macs ..
@[simp] theorem Dev.setCtr_deficit : (d.setCtr p c v).deficit = d.deficit := Dev.setReg_deficit ..
@[simp] theorem Dev.setCtr_txq : (d.setCtr p c v).txq = d.txq := Dev.setReg_txq ..
@[simp] theorem Dev.setCtr_assoc : (d.setCtr p c v).assoc = d.assoc := Dev.setReg_assoc ..
@[simp] theorem Dev.setCtr_flows : (d.setCtr p c v).flows = d.flows := Dev.setReg_flows ..
@[simp] theorem Dev.setCtr_flowNext : (d.setCtr p c v).flowNext = d.flowNext := Dev.setReg_flowNext ..
@[simp] theorem Dev.setCtr_winQ : (d.setCtr p c v).winQ = d.winQ := Dev.setReg_winQ ..
@[simp] theorem Dev.setCtr_inj : (d.setCtr p c v).inj = d.inj := Dev.setReg_inj ..
@[simp] theorem Dev.setCtr_inc : (d.setCtr p c v).inc = d.inc := Dev.setReg_inc ..
@[simp] theorem Dev.setCtr_reports : (d.setCtr p c v).reports = d.reports := Dev.setReg_reports ..
@[simp] theorem Dev.setCtr_rub0 : (d.setCtr p c v).rub0 = d.rub0 := Dev.setReg_rub0 ..
@[simp] theorem Dev.setCtr_rub1 : (d.setCtr p c v).rub1 = d.rub1 := Dev.setReg_rub1 ..
@[simp] theorem Dev.setCtr_rubCopies : (d.setCtr p c v).rubCopies = d.rubCopies := Dev.setReg_rubCopies ..
@[simp] theorem Dev.setCtr_meas : (d.setCtr p c v).meas = d.meas := Dev.setReg_meas ..
@[simp] theorem Dev.setCtr_stage : (d.setCtr p c v).stage = d.stage := Dev.setReg_stage ..
@[simp] theorem Dev.setCtr_boot : (d.setCtr p c v).boot = d.boot := Dev.setReg_boot ..
@[simp] theorem Dev.setCtr_dbg : (d.setCtr p c v).dbg = d.dbg := Dev.setReg_dbg ..
@[simp] theorem Dev.setCtr_ethCycle : (d.setCtr p c v).ethCycle = d.ethCycle := Dev.setReg_ethCycle ..
@[simp] theorem Dev.setCtr_readData : (d.setCtr p c v).readData = d.readData := Dev.setReg_readData ..
@[simp] theorem Dev.setCtr_freeCount : (d.setCtr p c v).freeCount = d.freeCount := Dev.setReg_freeCount ..
@[simp] theorem Dev.setCtr_part (t : PartId) : (d.setCtr p c v).part t = d.part t := Dev.setReg_part ..
@[simp] theorem Dev.setCtr_port (t : PartId) (q' : Port) : (d.setCtr p c v).port t q' = d.port t q' := Dev.setReg_port ..
end

section
variable (d : Dev) (p : PartId) (c : Nat) (v : BitVec 32)
@[simp] theorem Dev.addCtr_mem : (d.addCtr p c v).mem = d.mem := Dev.setCtr_mem ..
@[simp] theorem Dev.addCtr_mesh : (d.addCtr p c v).mesh = d.mesh := Dev.setCtr_mesh ..
@[simp] theorem Dev.addCtr_poison : (d.addCtr p c v).poison = d.poison := Dev.setCtr_poison ..
@[simp] theorem Dev.addCtr_parts : (d.addCtr p c v).parts = d.parts := Dev.setCtr_parts ..
@[simp] theorem Dev.addCtr_coll : (d.addCtr p c v).coll = d.coll := Dev.setCtr_coll ..
@[simp] theorem Dev.addCtr_mbFull : (d.addCtr p c v).mbFull = d.mbFull := Dev.setCtr_mbFull ..
@[simp] theorem Dev.addCtr_journal : (d.addCtr p c v).journal = d.journal := Dev.setCtr_journal ..
@[simp] theorem Dev.addCtr_macs : (d.addCtr p c v).macs = d.macs := Dev.setCtr_macs ..
@[simp] theorem Dev.addCtr_deficit : (d.addCtr p c v).deficit = d.deficit := Dev.setCtr_deficit ..
@[simp] theorem Dev.addCtr_txq : (d.addCtr p c v).txq = d.txq := Dev.setCtr_txq ..
@[simp] theorem Dev.addCtr_assoc : (d.addCtr p c v).assoc = d.assoc := Dev.setCtr_assoc ..
@[simp] theorem Dev.addCtr_flows : (d.addCtr p c v).flows = d.flows := Dev.setCtr_flows ..
@[simp] theorem Dev.addCtr_flowNext : (d.addCtr p c v).flowNext = d.flowNext := Dev.setCtr_flowNext ..
@[simp] theorem Dev.addCtr_winQ : (d.addCtr p c v).winQ = d.winQ := Dev.setCtr_winQ ..
@[simp] theorem Dev.addCtr_inj : (d.addCtr p c v).inj = d.inj := Dev.setCtr_inj ..
@[simp] theorem Dev.addCtr_inc : (d.addCtr p c v).inc = d.inc := Dev.setCtr_inc ..
@[simp] theorem Dev.addCtr_reports : (d.addCtr p c v).reports = d.reports := Dev.setCtr_reports ..
@[simp] theorem Dev.addCtr_rub0 : (d.addCtr p c v).rub0 = d.rub0 := Dev.setCtr_rub0 ..
@[simp] theorem Dev.addCtr_rub1 : (d.addCtr p c v).rub1 = d.rub1 := Dev.setCtr_rub1 ..
@[simp] theorem Dev.addCtr_rubCopies : (d.addCtr p c v).rubCopies = d.rubCopies := Dev.setCtr_rubCopies ..
@[simp] theorem Dev.addCtr_meas : (d.addCtr p c v).meas = d.meas := Dev.setCtr_meas ..
@[simp] theorem Dev.addCtr_stage : (d.addCtr p c v).stage = d.stage := Dev.setCtr_stage ..
@[simp] theorem Dev.addCtr_boot : (d.addCtr p c v).boot = d.boot := Dev.setCtr_boot ..
@[simp] theorem Dev.addCtr_dbg : (d.addCtr p c v).dbg = d.dbg := Dev.setCtr_dbg ..
@[simp] theorem Dev.addCtr_ethCycle : (d.addCtr p c v).ethCycle = d.ethCycle := Dev.setCtr_ethCycle ..
@[simp] theorem Dev.addCtr_readData : (d.addCtr p c v).readData = d.readData := Dev.setCtr_readData ..
@[simp] theorem Dev.addCtr_freeCount : (d.addCtr p c v).freeCount = d.freeCount := Dev.setCtr_freeCount ..
@[simp] theorem Dev.addCtr_part (t : PartId) : (d.addCtr p c v).part t = d.part t := Dev.setCtr_part ..
@[simp] theorem Dev.addCtr_port (t : PartId) (q' : Port) : (d.addCtr p c v).port t q' = d.port t q' := Dev.setCtr_port ..
end

section
variable (d : Dev) (p : PartId) (x : Seq) (a : Nat)
@[simp] theorem Dev.setPc_mem : (d.setPc p x a).mem = d.mem := Dev.setFld_mem ..
@[simp] theorem Dev.setPc_mesh : (d.setPc p x a).mesh = d.mesh := Dev.setFld_mesh ..
@[simp] theorem Dev.setPc_poison : (d.setPc p x a).poison = d.poison := Dev.setFld_poison ..
@[simp] theorem Dev.setPc_parts : (d.setPc p x a).parts = d.parts := Dev.setFld_parts ..
@[simp] theorem Dev.setPc_coll : (d.setPc p x a).coll = d.coll := Dev.setFld_coll ..
@[simp] theorem Dev.setPc_mbFull : (d.setPc p x a).mbFull = d.mbFull := Dev.setFld_mbFull ..
@[simp] theorem Dev.setPc_journal : (d.setPc p x a).journal = d.journal := Dev.setFld_journal ..
@[simp] theorem Dev.setPc_macs : (d.setPc p x a).macs = d.macs := Dev.setFld_macs ..
@[simp] theorem Dev.setPc_deficit : (d.setPc p x a).deficit = d.deficit := Dev.setFld_deficit ..
@[simp] theorem Dev.setPc_txq : (d.setPc p x a).txq = d.txq := Dev.setFld_txq ..
@[simp] theorem Dev.setPc_assoc : (d.setPc p x a).assoc = d.assoc := Dev.setFld_assoc ..
@[simp] theorem Dev.setPc_flows : (d.setPc p x a).flows = d.flows := Dev.setFld_flows ..
@[simp] theorem Dev.setPc_flowNext : (d.setPc p x a).flowNext = d.flowNext := Dev.setFld_flowNext ..
@[simp] theorem Dev.setPc_winQ : (d.setPc p x a).winQ = d.winQ := Dev.setFld_winQ ..
@[simp] theorem Dev.setPc_inj : (d.setPc p x a).inj = d.inj := Dev.setFld_inj ..
@[simp] theorem Dev.setPc_inc : (d.setPc p x a).inc = d.inc := Dev.setFld_inc ..
@[simp] theorem Dev.setPc_reports : (d.setPc p x a).reports = d.reports := Dev.setFld_reports ..
@[simp] theorem Dev.setPc_rub0 : (d.setPc p x a).rub0 = d.rub0 := Dev.setFld_rub0 ..
@[simp] theorem Dev.setPc_rub1 : (d.setPc p x a).rub1 = d.rub1 := Dev.setFld_rub1 ..
@[simp] theorem Dev.setPc_rubCopies : (d.setPc p x a).rubCopies = d.rubCopies := Dev.setFld_rubCopies ..
@[simp] theorem Dev.setPc_meas : (d.setPc p x a).meas = d.meas := Dev.setFld_meas ..
@[simp] theorem Dev.setPc_stage : (d.setPc p x a).stage = d.stage := Dev.setFld_stage ..
@[simp] theorem Dev.setPc_boot : (d.setPc p x a).boot = d.boot := Dev.setFld_boot ..
@[simp] theorem Dev.setPc_dbg : (d.setPc p x a).dbg = d.dbg := Dev.setFld_dbg ..
@[simp] theorem Dev.setPc_ethCycle : (d.setPc p x a).ethCycle = d.ethCycle := Dev.setFld_ethCycle ..
@[simp] theorem Dev.setPc_readData : (d.setPc p x a).readData = d.readData := Dev.setFld_readData ..
@[simp] theorem Dev.setPc_freeCount : (d.setPc p x a).freeCount = d.freeCount := Dev.setFld_freeCount ..
@[simp] theorem Dev.setPc_part (t : PartId) : (d.setPc p x a).part t = d.part t := Dev.setFld_part ..
@[simp] theorem Dev.setPc_port (t : PartId) (q' : Port) : (d.setPc p x a).port t q' = d.port t q' := Dev.setFld_port ..
end

section
variable (d : Dev) (p : PartId) (x : Seq) (v : Nat)
@[simp] theorem Dev.setSeqState_mem : (d.setSeqState p x v).mem = d.mem := Dev.setFld_mem ..
@[simp] theorem Dev.setSeqState_mesh : (d.setSeqState p x v).mesh = d.mesh := Dev.setFld_mesh ..
@[simp] theorem Dev.setSeqState_poison : (d.setSeqState p x v).poison = d.poison := Dev.setFld_poison ..
@[simp] theorem Dev.setSeqState_parts : (d.setSeqState p x v).parts = d.parts := Dev.setFld_parts ..
@[simp] theorem Dev.setSeqState_coll : (d.setSeqState p x v).coll = d.coll := Dev.setFld_coll ..
@[simp] theorem Dev.setSeqState_mbFull : (d.setSeqState p x v).mbFull = d.mbFull := Dev.setFld_mbFull ..
@[simp] theorem Dev.setSeqState_journal : (d.setSeqState p x v).journal = d.journal := Dev.setFld_journal ..
@[simp] theorem Dev.setSeqState_macs : (d.setSeqState p x v).macs = d.macs := Dev.setFld_macs ..
@[simp] theorem Dev.setSeqState_deficit : (d.setSeqState p x v).deficit = d.deficit := Dev.setFld_deficit ..
@[simp] theorem Dev.setSeqState_txq : (d.setSeqState p x v).txq = d.txq := Dev.setFld_txq ..
@[simp] theorem Dev.setSeqState_assoc : (d.setSeqState p x v).assoc = d.assoc := Dev.setFld_assoc ..
@[simp] theorem Dev.setSeqState_flows : (d.setSeqState p x v).flows = d.flows := Dev.setFld_flows ..
@[simp] theorem Dev.setSeqState_flowNext : (d.setSeqState p x v).flowNext = d.flowNext := Dev.setFld_flowNext ..
@[simp] theorem Dev.setSeqState_winQ : (d.setSeqState p x v).winQ = d.winQ := Dev.setFld_winQ ..
@[simp] theorem Dev.setSeqState_inj : (d.setSeqState p x v).inj = d.inj := Dev.setFld_inj ..
@[simp] theorem Dev.setSeqState_inc : (d.setSeqState p x v).inc = d.inc := Dev.setFld_inc ..
@[simp] theorem Dev.setSeqState_reports : (d.setSeqState p x v).reports = d.reports := Dev.setFld_reports ..
@[simp] theorem Dev.setSeqState_rub0 : (d.setSeqState p x v).rub0 = d.rub0 := Dev.setFld_rub0 ..
@[simp] theorem Dev.setSeqState_rub1 : (d.setSeqState p x v).rub1 = d.rub1 := Dev.setFld_rub1 ..
@[simp] theorem Dev.setSeqState_rubCopies : (d.setSeqState p x v).rubCopies = d.rubCopies := Dev.setFld_rubCopies ..
@[simp] theorem Dev.setSeqState_meas : (d.setSeqState p x v).meas = d.meas := Dev.setFld_meas ..
@[simp] theorem Dev.setSeqState_stage : (d.setSeqState p x v).stage = d.stage := Dev.setFld_stage ..
@[simp] theorem Dev.setSeqState_boot : (d.setSeqState p x v).boot = d.boot := Dev.setFld_boot ..
@[simp] theorem Dev.setSeqState_dbg : (d.setSeqState p x v).dbg = d.dbg := Dev.setFld_dbg ..
@[simp] theorem Dev.setSeqState_ethCycle : (d.setSeqState p x v).ethCycle = d.ethCycle := Dev.setFld_ethCycle ..
@[simp] theorem Dev.setSeqState_readData : (d.setSeqState p x v).readData = d.readData := Dev.setFld_readData ..
@[simp] theorem Dev.setSeqState_freeCount : (d.setSeqState p x v).freeCount = d.freeCount := Dev.setFld_freeCount ..
@[simp] theorem Dev.setSeqState_part (t : PartId) : (d.setSeqState p x v).part t = d.part t := Dev.setFld_part ..
@[simp] theorem Dev.setSeqState_port (t : PartId) (q' : Port) : (d.setSeqState p x v).port t q' = d.port t q' := Dev.setFld_port ..
end

section
variable (d : Dev) (p : PartId) (x : Part)
@[simp] theorem Dev.setPart_mem : (d.setPart p x).mem = d.mem := rfl
@[simp] theorem Dev.setPart_mesh : (d.setPart p x).mesh = d.mesh := rfl
@[simp] theorem Dev.setPart_poison : (d.setPart p x).poison = d.poison := rfl
@[simp] theorem Dev.setPart_regs : (d.setPart p x).regs = d.regs := rfl
@[simp] theorem Dev.setPart_coll : (d.setPart p x).coll = d.coll := rfl
@[simp] theorem Dev.setPart_mbFull : (d.setPart p x).mbFull = d.mbFull := rfl
@[simp] theorem Dev.setPart_journal : (d.setPart p x).journal = d.journal := rfl
@[simp] theorem Dev.setPart_macs : (d.setPart p x).macs = d.macs := rfl
@[simp] theorem Dev.setPart_deficit : (d.setPart p x).deficit = d.deficit := rfl
@[simp] theorem Dev.setPart_txq : (d.setPart p x).txq = d.txq := rfl
@[simp] theorem Dev.setPart_assoc : (d.setPart p x).assoc = d.assoc := rfl
@[simp] theorem Dev.setPart_flows : (d.setPart p x).flows = d.flows := rfl
@[simp] theorem Dev.setPart_flowNext : (d.setPart p x).flowNext = d.flowNext := rfl
@[simp] theorem Dev.setPart_winQ : (d.setPart p x).winQ = d.winQ := rfl
@[simp] theorem Dev.setPart_inj : (d.setPart p x).inj = d.inj := rfl
@[simp] theorem Dev.setPart_inc : (d.setPart p x).inc = d.inc := rfl
@[simp] theorem Dev.setPart_reports : (d.setPart p x).reports = d.reports := rfl
@[simp] theorem Dev.setPart_rub0 : (d.setPart p x).rub0 = d.rub0 := rfl
@[simp] theorem Dev.setPart_rub1 : (d.setPart p x).rub1 = d.rub1 := rfl
@[simp] theorem Dev.setPart_rubCopies : (d.setPart p x).rubCopies = d.rubCopies := rfl
@[simp] theorem Dev.setPart_meas : (d.setPart p x).meas = d.meas := rfl
@[simp] theorem Dev.setPart_stage : (d.setPart p x).stage = d.stage := rfl
@[simp] theorem Dev.setPart_boot : (d.setPart p x).boot = d.boot := rfl
@[simp] theorem Dev.setPart_dbg : (d.setPart p x).dbg = d.dbg := rfl
@[simp] theorem Dev.setPart_ethCycle : (d.setPart p x).ethCycle = d.ethCycle := rfl
@[simp] theorem Dev.setPart_readData : (d.setPart p x).readData = d.readData := rfl
@[simp] theorem Dev.setPart_freeCount : (d.setPart p x).freeCount = d.freeCount := rfl
@[simp] theorem Dev.setPart_reg (i : Nat) : (d.setPart p x).reg i = d.reg i := rfl
@[simp] theorem Dev.setPart_fld (o i j : Nat) : (d.setPart p x).fld o i j = d.fld o i j := rfl
end

section
variable (d : Dev) (p : PartId) (f : Part → Part)
@[simp] theorem Dev.modPart_mem : (d.modPart p f).mem = d.mem := Dev.setPart_mem ..
@[simp] theorem Dev.modPart_mesh : (d.modPart p f).mesh = d.mesh := Dev.setPart_mesh ..
@[simp] theorem Dev.modPart_poison : (d.modPart p f).poison = d.poison := Dev.setPart_poison ..
@[simp] theorem Dev.modPart_regs : (d.modPart p f).regs = d.regs := Dev.setPart_regs ..
@[simp] theorem Dev.modPart_coll : (d.modPart p f).coll = d.coll := Dev.setPart_coll ..
@[simp] theorem Dev.modPart_mbFull : (d.modPart p f).mbFull = d.mbFull := Dev.setPart_mbFull ..
@[simp] theorem Dev.modPart_journal : (d.modPart p f).journal = d.journal := Dev.setPart_journal ..
@[simp] theorem Dev.modPart_macs : (d.modPart p f).macs = d.macs := Dev.setPart_macs ..
@[simp] theorem Dev.modPart_deficit : (d.modPart p f).deficit = d.deficit := Dev.setPart_deficit ..
@[simp] theorem Dev.modPart_txq : (d.modPart p f).txq = d.txq := Dev.setPart_txq ..
@[simp] theorem Dev.modPart_assoc : (d.modPart p f).assoc = d.assoc := Dev.setPart_assoc ..
@[simp] theorem Dev.modPart_flows : (d.modPart p f).flows = d.flows := Dev.setPart_flows ..
@[simp] theorem Dev.modPart_flowNext : (d.modPart p f).flowNext = d.flowNext := Dev.setPart_flowNext ..
@[simp] theorem Dev.modPart_winQ : (d.modPart p f).winQ = d.winQ := Dev.setPart_winQ ..
@[simp] theorem Dev.modPart_inj : (d.modPart p f).inj = d.inj := Dev.setPart_inj ..
@[simp] theorem Dev.modPart_inc : (d.modPart p f).inc = d.inc := Dev.setPart_inc ..
@[simp] theorem Dev.modPart_reports : (d.modPart p f).reports = d.reports := Dev.setPart_reports ..
@[simp] theorem Dev.modPart_rub0 : (d.modPart p f).rub0 = d.rub0 := Dev.setPart_rub0 ..
@[simp] theorem Dev.modPart_rub1 : (d.modPart p f).rub1 = d.rub1 := Dev.setPart_rub1 ..
@[simp] theorem Dev.modPart_rubCopies : (d.modPart p f).rubCopies = d.rubCopies := Dev.setPart_rubCopies ..
@[simp] theorem Dev.modPart_meas : (d.modPart p f).meas = d.meas := Dev.setPart_meas ..
@[simp] theorem Dev.modPart_stage : (d.modPart p f).stage = d.stage := Dev.setPart_stage ..
@[simp] theorem Dev.modPart_boot : (d.modPart p f).boot = d.boot := Dev.setPart_boot ..
@[simp] theorem Dev.modPart_dbg : (d.modPart p f).dbg = d.dbg := Dev.setPart_dbg ..
@[simp] theorem Dev.modPart_ethCycle : (d.modPart p f).ethCycle = d.ethCycle := Dev.setPart_ethCycle ..
@[simp] theorem Dev.modPart_readData : (d.modPart p f).readData = d.readData := Dev.setPart_readData ..
@[simp] theorem Dev.modPart_freeCount : (d.modPart p f).freeCount = d.freeCount := Dev.setPart_freeCount ..
@[simp] theorem Dev.modPart_reg (i : Nat) : (d.modPart p f).reg i = d.reg i := Dev.setPart_reg ..
@[simp] theorem Dev.modPart_fld (o i j : Nat) : (d.modPart p f).fld o i j = d.fld o i j := Dev.setPart_fld ..
end

section
variable (d : Dev) (p : PartId) (q : Port) (v : PortSt)
@[simp] theorem Dev.setPort_mem : (d.setPort p q v).mem = d.mem := Dev.setPart_mem ..
@[simp] theorem Dev.setPort_mesh : (d.setPort p q v).mesh = d.mesh := Dev.setPart_mesh ..
@[simp] theorem Dev.setPort_poison : (d.setPort p q v).poison = d.poison := Dev.setPart_poison ..
@[simp] theorem Dev.setPort_regs : (d.setPort p q v).regs = d.regs := Dev.setPart_regs ..
@[simp] theorem Dev.setPort_coll : (d.setPort p q v).coll = d.coll := Dev.setPart_coll ..
@[simp] theorem Dev.setPort_mbFull : (d.setPort p q v).mbFull = d.mbFull := Dev.setPart_mbFull ..
@[simp] theorem Dev.setPort_journal : (d.setPort p q v).journal = d.journal := Dev.setPart_journal ..
@[simp] theorem Dev.setPort_macs : (d.setPort p q v).macs = d.macs := Dev.setPart_macs ..
@[simp] theorem Dev.setPort_deficit : (d.setPort p q v).deficit = d.deficit := Dev.setPart_deficit ..
@[simp] theorem Dev.setPort_txq : (d.setPort p q v).txq = d.txq := Dev.setPart_txq ..
@[simp] theorem Dev.setPort_assoc : (d.setPort p q v).assoc = d.assoc := Dev.setPart_assoc ..
@[simp] theorem Dev.setPort_flows : (d.setPort p q v).flows = d.flows := Dev.setPart_flows ..
@[simp] theorem Dev.setPort_flowNext : (d.setPort p q v).flowNext = d.flowNext := Dev.setPart_flowNext ..
@[simp] theorem Dev.setPort_winQ : (d.setPort p q v).winQ = d.winQ := Dev.setPart_winQ ..
@[simp] theorem Dev.setPort_inj : (d.setPort p q v).inj = d.inj := Dev.setPart_inj ..
@[simp] theorem Dev.setPort_inc : (d.setPort p q v).inc = d.inc := Dev.setPart_inc ..
@[simp] theorem Dev.setPort_reports : (d.setPort p q v).reports = d.reports := Dev.setPart_reports ..
@[simp] theorem Dev.setPort_rub0 : (d.setPort p q v).rub0 = d.rub0 := Dev.setPart_rub0 ..
@[simp] theorem Dev.setPort_rub1 : (d.setPort p q v).rub1 = d.rub1 := Dev.setPart_rub1 ..
@[simp] theorem Dev.setPort_rubCopies : (d.setPort p q v).rubCopies = d.rubCopies := Dev.setPart_rubCopies ..
@[simp] theorem Dev.setPort_meas : (d.setPort p q v).meas = d.meas := Dev.setPart_meas ..
@[simp] theorem Dev.setPort_stage : (d.setPort p q v).stage = d.stage := Dev.setPart_stage ..
@[simp] theorem Dev.setPort_boot : (d.setPort p q v).boot = d.boot := Dev.setPart_boot ..
@[simp] theorem Dev.setPort_dbg : (d.setPort p q v).dbg = d.dbg := Dev.setPart_dbg ..
@[simp] theorem Dev.setPort_ethCycle : (d.setPort p q v).ethCycle = d.ethCycle := Dev.setPart_ethCycle ..
@[simp] theorem Dev.setPort_readData : (d.setPort p q v).readData = d.readData := Dev.setPart_readData ..
@[simp] theorem Dev.setPort_freeCount : (d.setPort p q v).freeCount = d.freeCount := Dev.setPart_freeCount ..
@[simp] theorem Dev.setPort_reg (i : Nat) : (d.setPort p q v).reg i = d.reg i := Dev.setPart_reg ..
@[simp] theorem Dev.setPort_fld (o i j : Nat) : (d.setPort p q v).fld o i j = d.fld o i j := Dev.setPart_fld ..
end

section
variable (d : Dev) (p : PartId) (q : Port) (f : PortSt → PortSt)
@[simp] theorem Dev.modPort_mem : (d.modPort p q f).mem = d.mem := Dev.setPort_mem ..
@[simp] theorem Dev.modPort_mesh : (d.modPort p q f).mesh = d.mesh := Dev.setPort_mesh ..
@[simp] theorem Dev.modPort_poison : (d.modPort p q f).poison = d.poison := Dev.setPort_poison ..
@[simp] theorem Dev.modPort_regs : (d.modPort p q f).regs = d.regs := Dev.setPort_regs ..
@[simp] theorem Dev.modPort_coll : (d.modPort p q f).coll = d.coll := Dev.setPort_coll ..
@[simp] theorem Dev.modPort_mbFull : (d.modPort p q f).mbFull = d.mbFull := Dev.setPort_mbFull ..
@[simp] theorem Dev.modPort_journal : (d.modPort p q f).journal = d.journal := Dev.setPort_journal ..
@[simp] theorem Dev.modPort_macs : (d.modPort p q f).macs = d.macs := Dev.setPort_macs ..
@[simp] theorem Dev.modPort_deficit : (d.modPort p q f).deficit = d.deficit := Dev.setPort_deficit ..
@[simp] theorem Dev.modPort_txq : (d.modPort p q f).txq = d.txq := Dev.setPort_txq ..
@[simp] theorem Dev.modPort_assoc : (d.modPort p q f).assoc = d.assoc := Dev.setPort_assoc ..
@[simp] theorem Dev.modPort_flows : (d.modPort p q f).flows = d.flows := Dev.setPort_flows ..
@[simp] theorem Dev.modPort_flowNext : (d.modPort p q f).flowNext = d.flowNext := Dev.setPort_flowNext ..
@[simp] theorem Dev.modPort_winQ : (d.modPort p q f).winQ = d.winQ := Dev.setPort_winQ ..
@[simp] theorem Dev.modPort_inj : (d.modPort p q f).inj = d.inj := Dev.setPort_inj ..
@[simp] theorem Dev.modPort_inc : (d.modPort p q f).inc = d.inc := Dev.setPort_inc ..
@[simp] theorem Dev.modPort_reports : (d.modPort p q f).reports = d.reports := Dev.setPort_reports ..
@[simp] theorem Dev.modPort_rub0 : (d.modPort p q f).rub0 = d.rub0 := Dev.setPort_rub0 ..
@[simp] theorem Dev.modPort_rub1 : (d.modPort p q f).rub1 = d.rub1 := Dev.setPort_rub1 ..
@[simp] theorem Dev.modPort_rubCopies : (d.modPort p q f).rubCopies = d.rubCopies := Dev.setPort_rubCopies ..
@[simp] theorem Dev.modPort_meas : (d.modPort p q f).meas = d.meas := Dev.setPort_meas ..
@[simp] theorem Dev.modPort_stage : (d.modPort p q f).stage = d.stage := Dev.setPort_stage ..
@[simp] theorem Dev.modPort_boot : (d.modPort p q f).boot = d.boot := Dev.setPort_boot ..
@[simp] theorem Dev.modPort_dbg : (d.modPort p q f).dbg = d.dbg := Dev.setPort_dbg ..
@[simp] theorem Dev.modPort_ethCycle : (d.modPort p q f).ethCycle = d.ethCycle := Dev.setPort_ethCycle ..
@[simp] theorem Dev.modPort_readData : (d.modPort p q f).readData = d.readData := Dev.setPort_readData ..
@[simp] theorem Dev.modPort_freeCount : (d.modPort p q f).freeCount = d.freeCount := Dev.setPort_freeCount ..
@[simp] theorem Dev.modPort_reg (i : Nat) : (d.modPort p q f).reg i = d.reg i := Dev.setPort_reg ..
@[simp] theorem Dev.modPort_fld (o i j : Nat) : (d.modPort p q f).fld o i j = d.fld o i j := Dev.setPort_fld ..
end

section
variable (d : Dev) (p : PartId) (q : Port)
@[simp] theorem Dev.unpairPort_mem : (d.unpairPort p q).mem = d.mem := by cases q <;> rfl
@[simp] theorem Dev.unpairPort_mesh : (d.unpairPort p q).mesh = d.mesh := by cases q <;> rfl
@[simp] theorem Dev.unpairPort_poison : (d.unpairPort p q).poison = d.poison := by cases q <;> rfl
@[simp] theorem Dev.unpairPort_regs : (d.unpairPort p q).regs = d.regs := by cases q <;> rfl
@[simp] theorem Dev.unpairPort_coll : (d.unpairPort p q).coll = d.coll := by cases q <;> rfl
@[simp] theorem Dev.unpairPort_mbFull : (d.unpairPort p q).mbFull = d.mbFull := by cases q <;> rfl
@[simp] theorem Dev.unpairPort_journal : (d.unpairPort p q).journal = d.journal := by cases q <;> rfl
@[simp] theorem Dev.unpairPort_macs : (d.unpairPort p q).macs = d.macs := by cases q <;> rfl
@[simp] theorem Dev.unpairPort_deficit : (d.unpairPort p q).deficit = d.deficit := by cases q <;> rfl
@[simp] theorem Dev.unpairPort_txq : (d.unpairPort p q).txq = d.txq := by cases q <;> rfl
@[simp] theorem Dev.unpairPort_assoc : (d.unpairPort p q).assoc = d.assoc := by cases q <;> rfl
@[simp] theorem Dev.unpairPort_flows : (d.unpairPort p q).flows = d.flows := by cases q <;> rfl
@[simp] theorem Dev.unpairPort_flowNext : (d.unpairPort p q).flowNext = d.flowNext := by cases q <;> rfl
@[simp] theorem Dev.unpairPort_winQ : (d.unpairPort p q).winQ = d.winQ := by cases q <;> rfl
@[simp] theorem Dev.unpairPort_inj : (d.unpairPort p q).inj = d.inj := by cases q <;> rfl
@[simp] theorem Dev.unpairPort_inc : (d.unpairPort p q).inc = d.inc := by cases q <;> rfl
@[simp] theorem Dev.unpairPort_reports : (d.unpairPort p q).reports = d.reports := by cases q <;> rfl
@[simp] theorem Dev.unpairPort_rub0 : (d.unpairPort p q).rub0 = d.rub0 := by cases q <;> rfl
@[simp] theorem Dev.unpairPort_rub1 : (d.unpairPort p q).rub1 = d.rub1 := by cases q <;> rfl
@[simp] theorem Dev.unpairPort_rubCopies : (d.unpairPort p q).rubCopies = d.rubCopies := by cases q <;> rfl
@[simp] theorem Dev.unpairPort_meas : (d.unpairPort p q).meas = d.meas := by cases q <;> rfl
@[simp] theorem Dev.unpairPort_stage : (d.unpairPort p q).stage = d.stage := by cases q <;> rfl
@[simp] theorem Dev.unpairPort_boot : (d.unpairPort p q).boot = d.boot := by cases q <;> rfl
@[simp] theorem Dev.unpairPort_dbg : (d.unpairPort p q).dbg = d.dbg := by cases q <;> rfl
@[simp] theorem Dev.unpairPort_ethCycle : (d.unpairPort p q).ethCycle = d.ethCycle := by cases q <;> rfl
@[simp] theorem Dev.unpairPort_readData : (d.unpairPort p q).readData = d.readData := by cases q <;> rfl
@[simp] theorem Dev.unpairPort_freeCount : (d.unpairPort p q).freeCount = d.freeCount := by cases q <;> rfl
@[simp] theorem Dev.unpairPort_reg (i : Nat) : (d.unpairPort p q).reg i = d.reg i := by cases q <;> rfl
@[simp] theorem Dev.unpairPort_fld (o i j : Nat) : (d.unpairPort p q).fld o i j = d.fld o i j := by cases q <;> rfl
end

section
variable (d : Dev) (p : PartId) (c : Fin 6) (x : Core)
@[simp] theorem Dev.setCore_mem : (d.setCore p c x).mem = d.mem := Dev.modPart_mem ..
@[simp] theorem Dev.setCore_mesh : (d.setCore p c x).mesh = d.mesh := Dev.modPart_mesh ..
@[simp] theorem Dev.setCore_poison : (d.setCore p c x).poison = d.poison := Dev.modPart_poison ..
@[simp] theorem Dev.setCore_regs : (d.setCore p c x).regs = d.regs := Dev.modPart_regs ..
@[simp] theorem Dev.setCore_coll : (d.setCore p c x).coll = d.coll := Dev.modPart_coll ..
@[simp] theorem Dev.setCore_mbFull : (d.setCore p c x).mbFull = d.mbFull := Dev.modPart_mbFull ..
@[simp] theorem Dev.setCore_journal : (d.setCore p c x).journal = d.journal := Dev.modPart_journal ..
@[simp] theorem Dev.setCore_macs : (d.setCore p c x).macs = d.macs := Dev.modPart_macs ..
@[simp] theorem Dev.setCore_deficit : (d.setCore p c x).deficit = d.deficit := Dev.modPart_deficit ..
@[simp] theorem Dev.setCore_txq : (d.setCore p c x).txq = d.txq := Dev.modPart_txq ..
@[simp] theorem Dev.setCore_assoc : (d.setCore p c x).assoc = d.assoc := Dev.modPart_assoc ..
@[simp] theorem Dev.setCore_flows : (d.setCore p c x).flows = d.flows := Dev.modPart_flows ..
@[simp] theorem Dev.setCore_flowNext : (d.setCore p c x).flowNext = d.flowNext := Dev.modPart_flowNext ..
@[simp] theorem Dev.setCore_winQ : (d.setCore p c x).winQ = d.winQ := Dev.modPart_winQ ..
@[simp] theorem Dev.setCore_inj : (d.setCore p c x).inj = d.inj := Dev.modPart_inj ..
@[simp] theorem Dev.setCore_inc : (d.setCore p c x).inc = d.inc := Dev.modPart_inc ..
@[simp] theorem Dev.setCore_reports : (d.setCore p c x).reports = d.reports := Dev.modPart_reports ..
@[simp] theorem Dev.setCore_rub0 : (d.setCore p c x).rub0 = d.rub0 := Dev.modPart_rub0 ..
@[simp] theorem Dev.setCore_rub1 : (d.setCore p c x).rub1 = d.rub1 := Dev.modPart_rub1 ..
@[simp] theorem Dev.setCore_rubCopies : (d.setCore p c x).rubCopies = d.rubCopies := Dev.modPart_rubCopies ..
@[simp] theorem Dev.setCore_meas : (d.setCore p c x).meas = d.meas := Dev.modPart_meas ..
@[simp] theorem Dev.setCore_stage : (d.setCore p c x).stage = d.stage := Dev.modPart_stage ..
@[simp] theorem Dev.setCore_boot : (d.setCore p c x).boot = d.boot := Dev.modPart_boot ..
@[simp] theorem Dev.setCore_dbg : (d.setCore p c x).dbg = d.dbg := Dev.modPart_dbg ..
@[simp] theorem Dev.setCore_ethCycle : (d.setCore p c x).ethCycle = d.ethCycle := Dev.modPart_ethCycle ..
@[simp] theorem Dev.setCore_readData : (d.setCore p c x).readData = d.readData := Dev.modPart_readData ..
@[simp] theorem Dev.setCore_freeCount : (d.setCore p c x).freeCount = d.freeCount := Dev.modPart_freeCount ..
@[simp] theorem Dev.setCore_reg (i : Nat) : (d.setCore p c x).reg i = d.reg i := Dev.modPart_reg ..
@[simp] theorem Dev.setCore_fld (o i j : Nat) : (d.setCore p c x).fld o i j = d.fld o i j := Dev.modPart_fld ..
end

section
variable (d : Dev) (p : PartId) (q : Port) (n : Nat)
@[simp] theorem Dev.complete_mem : (d.complete p q n).mem = d.mem := Dev.modPort_mem ..
@[simp] theorem Dev.complete_mesh : (d.complete p q n).mesh = d.mesh := Dev.modPort_mesh ..
@[simp] theorem Dev.complete_poison : (d.complete p q n).poison = d.poison := Dev.modPort_poison ..
@[simp] theorem Dev.complete_regs : (d.complete p q n).regs = d.regs := Dev.modPort_regs ..
@[simp] theorem Dev.complete_coll : (d.complete p q n).coll = d.coll := Dev.modPort_coll ..
@[simp] theorem Dev.complete_mbFull : (d.complete p q n).mbFull = d.mbFull := Dev.modPort_mbFull ..
@[simp] theorem Dev.complete_journal : (d.complete p q n).journal = d.journal := Dev.modPort_journal ..
@[simp] theorem Dev.complete_macs : (d.complete p q n).macs = d.macs := Dev.modPort_macs ..
@[simp] theorem Dev.complete_deficit : (d.complete p q n).deficit = d.deficit := Dev.modPort_deficit ..
@[simp] theorem Dev.complete_txq : (d.complete p q n).txq = d.txq := Dev.modPort_txq ..
@[simp] theorem Dev.complete_assoc : (d.complete p q n).assoc = d.assoc := Dev.modPort_assoc ..
@[simp] theorem Dev.complete_flows : (d.complete p q n).flows = d.flows := Dev.modPort_flows ..
@[simp] theorem Dev.complete_flowNext : (d.complete p q n).flowNext = d.flowNext := Dev.modPort_flowNext ..
@[simp] theorem Dev.complete_winQ : (d.complete p q n).winQ = d.winQ := Dev.modPort_winQ ..
@[simp] theorem Dev.complete_inj : (d.complete p q n).inj = d.inj := Dev.modPort_inj ..
@[simp] theorem Dev.complete_inc : (d.complete p q n).inc = d.inc := Dev.modPort_inc ..
@[simp] theorem Dev.complete_reports : (d.complete p q n).reports = d.reports := Dev.modPort_reports ..
@[simp] theorem Dev.complete_rub0 : (d.complete p q n).rub0 = d.rub0 := Dev.modPort_rub0 ..
@[simp] theorem Dev.complete_rub1 : (d.complete p q n).rub1 = d.rub1 := Dev.modPort_rub1 ..
@[simp] theorem Dev.complete_rubCopies : (d.complete p q n).rubCopies = d.rubCopies := Dev.modPort_rubCopies ..
@[simp] theorem Dev.complete_meas : (d.complete p q n).meas = d.meas := Dev.modPort_meas ..
@[simp] theorem Dev.complete_stage : (d.complete p q n).stage = d.stage := Dev.modPort_stage ..
@[simp] theorem Dev.complete_boot : (d.complete p q n).boot = d.boot := Dev.modPort_boot ..
@[simp] theorem Dev.complete_dbg : (d.complete p q n).dbg = d.dbg := Dev.modPort_dbg ..
@[simp] theorem Dev.complete_ethCycle : (d.complete p q n).ethCycle = d.ethCycle := Dev.modPort_ethCycle ..
@[simp] theorem Dev.complete_readData : (d.complete p q n).readData = d.readData := Dev.modPort_readData ..
@[simp] theorem Dev.complete_freeCount : (d.complete p q n).freeCount = d.freeCount := Dev.modPort_freeCount ..
@[simp] theorem Dev.complete_reg (i : Nat) : (d.complete p q n).reg i = d.reg i := Dev.modPort_reg ..
@[simp] theorem Dev.complete_fld (o i j : Nat) : (d.complete p q n).fld o i j = d.fld o i j := Dev.modPort_fld ..
end

section
variable (d : Dev) (a : Nat) (bs : List Byte)
@[simp] theorem Dev.wr_mesh : (d.wr a bs).mesh = d.mesh := rfl
@[simp] theorem Dev.wr_regs : (d.wr a bs).regs = d.regs := rfl
@[simp] theorem Dev.wr_parts : (d.wr a bs).parts = d.parts := rfl
@[simp] theorem Dev.wr_coll : (d.wr a bs).coll = d.coll := rfl
@[simp] theorem Dev.wr_mbFull : (d.wr a bs).mbFull = d.mbFull := rfl
@[simp] theorem Dev.wr_journal : (d.wr a bs).journal = d.journal := rfl
@[simp] theorem Dev.wr_macs : (d.wr a bs).macs = d.macs := rfl
@[simp] theorem Dev.wr_deficit : (d.wr a bs).deficit = d.deficit := rfl
@[simp] theorem Dev.wr_txq : (d.wr a bs).txq = d.txq := rfl
@[simp] theorem Dev.wr_assoc : (d.wr a bs).assoc = d.assoc := rfl
@[simp] theorem Dev.wr_flows : (d.wr a bs).flows = d.flows := rfl
@[simp] theorem Dev.wr_flowNext : (d.wr a bs).flowNext = d.flowNext := rfl
@[simp] theorem Dev.wr_winQ : (d.wr a bs).winQ = d.winQ := rfl
@[simp] theorem Dev.wr_inj : (d.wr a bs).inj = d.inj := rfl
@[simp] theorem Dev.wr_inc : (d.wr a bs).inc = d.inc := rfl
@[simp] theorem Dev.wr_reports : (d.wr a bs).reports = d.reports := rfl
@[simp] theorem Dev.wr_rub0 : (d.wr a bs).rub0 = d.rub0 := rfl
@[simp] theorem Dev.wr_rub1 : (d.wr a bs).rub1 = d.rub1 := rfl
@[simp] theorem Dev.wr_rubCopies : (d.wr a bs).rubCopies = d.rubCopies := rfl
@[simp] theorem Dev.wr_meas : (d.wr a bs).meas = d.meas := rfl
@[simp] theorem Dev.wr_stage : (d.wr a bs).stage = d.stage := rfl
@[simp] theorem Dev.wr_boot : (d.wr a bs).boot = d.boot := rfl
@[simp] theorem Dev.wr_dbg : (d.wr a bs).dbg = d.dbg := rfl
@[simp] theorem Dev.wr_ethCycle : (d.wr a bs).ethCycle = d.ethCycle := rfl
@[simp] theorem Dev.wr_readData : (d.wr a bs).readData = d.readData := rfl
@[simp] theorem Dev.wr_freeCount : (d.wr a bs).freeCount = d.freeCount := rfl
@[simp] theorem Dev.wr_reg (i : Nat) : (d.wr a bs).reg i = d.reg i := rfl
@[simp] theorem Dev.wr_fld (o i j : Nat) : (d.wr a bs).fld o i j = d.fld o i j := rfl
@[simp] theorem Dev.wr_part (t : PartId) : (d.wr a bs).part t = d.part t := rfl
@[simp] theorem Dev.wr_port (t : PartId) (q' : Port) : (d.wr a bs).port t q' = d.port t q' := rfl
end

section
variable (d : Dev) (m : Fin 8) (f : MacSt → MacSt)
@[simp] theorem Dev.modMac_mem : (d.modMac m f).mem = d.mem := rfl
@[simp] theorem Dev.modMac_mesh : (d.modMac m f).mesh = d.mesh := rfl
@[simp] theorem Dev.modMac_poison : (d.modMac m f).poison = d.poison := rfl
@[simp] theorem Dev.modMac_regs : (d.modMac m f).regs = d.regs := rfl
@[simp] theorem Dev.modMac_parts : (d.modMac m f).parts = d.parts := rfl
@[simp] theorem Dev.modMac_coll : (d.modMac m f).coll = d.coll := rfl
@[simp] theorem Dev.modMac_mbFull : (d.modMac m f).mbFull = d.mbFull := rfl
@[simp] theorem Dev.modMac_journal : (d.modMac m f).journal = d.journal := rfl
@[simp] theorem Dev.modMac_deficit : (d.modMac m f).deficit = d.deficit := rfl
@[simp] theorem Dev.modMac_txq : (d.modMac m f).txq = d.txq := rfl
@[simp] theorem Dev.modMac_assoc : (d.modMac m f).assoc = d.assoc := rfl
@[simp] theorem Dev.modMac_flows : (d.modMac m f).flows = d.flows := rfl
@[simp] theorem Dev.modMac_flowNext : (d.modMac m f).flowNext = d.flowNext := rfl
@[simp] theorem Dev.modMac_winQ : (d.modMac m f).winQ = d.winQ := rfl
@[simp] theorem Dev.modMac_inj : (d.modMac m f).inj = d.inj := rfl
@[simp] theorem Dev.modMac_inc : (d.modMac m f).inc = d.inc := rfl
@[simp] theorem Dev.modMac_reports : (d.modMac m f).reports = d.reports := rfl
@[simp] theorem Dev.modMac_rub0 : (d.modMac m f).rub0 = d.rub0 := rfl
@[simp] theorem Dev.modMac_rub1 : (d.modMac m f).rub1 = d.rub1 := rfl
@[simp] theorem Dev.modMac_rubCopies : (d.modMac m f).rubCopies = d.rubCopies := rfl
@[simp] theorem Dev.modMac_meas : (d.modMac m f).meas = d.meas := rfl
@[simp] theorem Dev.modMac_stage : (d.modMac m f).stage = d.stage := rfl
@[simp] theorem Dev.modMac_boot : (d.modMac m f).boot = d.boot := rfl
@[simp] theorem Dev.modMac_dbg : (d.modMac m f).dbg = d.dbg := rfl
@[simp] theorem Dev.modMac_ethCycle : (d.modMac m f).ethCycle = d.ethCycle := rfl
@[simp] theorem Dev.modMac_readData : (d.modMac m f).readData = d.readData := rfl
@[simp] theorem Dev.modMac_freeCount : (d.modMac m f).freeCount = d.freeCount := rfl
@[simp] theorem Dev.modMac_reg (i : Nat) : (d.modMac m f).reg i = d.reg i := rfl
@[simp] theorem Dev.modMac_fld (o i j : Nat) : (d.modMac m f).fld o i j = d.fld o i j := rfl
@[simp] theorem Dev.modMac_part (t : PartId) : (d.modMac m f).part t = d.part t := rfl
@[simp] theorem Dev.modMac_port (t : PartId) (q' : Port) : (d.modMac m f).port t q' = d.port t q' := rfl
end

section
variable (d : Dev) (m : Fin 8) (k n : Nat)
@[simp] theorem Dev.ethCount_mem : (d.ethCount m k n).mem = d.mem := Dev.setReg_mem ..
@[simp] theorem Dev.ethCount_mesh : (d.ethCount m k n).mesh = d.mesh := Dev.setReg_mesh ..
@[simp] theorem Dev.ethCount_poison : (d.ethCount m k n).poison = d.poison := Dev.setReg_poison ..
@[simp] theorem Dev.ethCount_parts : (d.ethCount m k n).parts = d.parts := Dev.setReg_parts ..
@[simp] theorem Dev.ethCount_coll : (d.ethCount m k n).coll = d.coll := Dev.setReg_coll ..
@[simp] theorem Dev.ethCount_mbFull : (d.ethCount m k n).mbFull = d.mbFull := Dev.setReg_mbFull ..
@[simp] theorem Dev.ethCount_journal : (d.ethCount m k n).journal = d.journal := Dev.setReg_journal ..
@[simp] theorem Dev.ethCount_macs : (d.ethCount m k n).macs = d.macs := Dev.setReg_macs ..
@[simp] theorem Dev.ethCount_deficit : (d.ethCount m k n).deficit = d.deficit := Dev.setReg_deficit ..
@[simp] theorem Dev.ethCount_txq : (d.ethCount m k n).txq = d.txq := Dev.setReg_txq ..
@[simp] theorem Dev.ethCount_assoc : (d.ethCount m k n).assoc = d.assoc := Dev.setReg_assoc ..
@[simp] theorem Dev.ethCount_flows : (d.ethCount m k n).flows = d.flows := Dev.setReg_flows ..
@[simp] theorem Dev.ethCount_flowNext : (d.ethCount m k n).flowNext = d.flowNext := Dev.setReg_flowNext ..
@[simp] theorem Dev.ethCount_winQ : (d.ethCount m k n).winQ = d.winQ := Dev.setReg_winQ ..
@[simp] theorem Dev.ethCount_inj : (d.ethCount m k n).inj = d.inj := Dev.setReg_inj ..
@[simp] theorem Dev.ethCount_inc : (d.ethCount m k n).inc = d.inc := Dev.setReg_inc ..
@[simp] theorem Dev.ethCount_reports : (d.ethCount m k n).reports = d.reports := Dev.setReg_reports ..
@[simp] theorem Dev.ethCount_rub0 : (d.ethCount m k n).rub0 = d.rub0 := Dev.setReg_rub0 ..
@[simp] theorem Dev.ethCount_rub1 : (d.ethCount m k n).rub1 = d.rub1 := Dev.setReg_rub1 ..
@[simp] theorem Dev.ethCount_rubCopies : (d.ethCount m k n).rubCopies = d.rubCopies := Dev.setReg_rubCopies ..
@[simp] theorem Dev.ethCount_meas : (d.ethCount m k n).meas = d.meas := Dev.setReg_meas ..
@[simp] theorem Dev.ethCount_stage : (d.ethCount m k n).stage = d.stage := Dev.setReg_stage ..
@[simp] theorem Dev.ethCount_boot : (d.ethCount m k n).boot = d.boot := Dev.setReg_boot ..
@[simp] theorem Dev.ethCount_dbg : (d.ethCount m k n).dbg = d.dbg := Dev.setReg_dbg ..
@[simp] theorem Dev.ethCount_ethCycle : (d.ethCount m k n).ethCycle = d.ethCycle := Dev.setReg_ethCycle ..
@[simp] theorem Dev.ethCount_readData : (d.ethCount m k n).readData = d.readData := Dev.setReg_readData ..
@[simp] theorem Dev.ethCount_freeCount : (d.ethCount m k n).freeCount = d.freeCount := Dev.setReg_freeCount ..
@[simp] theorem Dev.ethCount_part (t : PartId) : (d.ethCount m k n).part t = d.part t := Dev.setReg_part ..
@[simp] theorem Dev.ethCount_port (t : PartId) (q' : Port) : (d.ethCount m k n).port t q' = d.port t q' := Dev.setReg_port ..
end

section
variable (d : Dev) (k : Nat)
@[simp] theorem Dev.tpCount_mem : (d.tpCount k).mem = d.mem := Dev.setReg_mem ..
@[simp] theorem Dev.tpCount_mesh : (d.tpCount k).mesh = d.mesh := Dev.setReg_mesh ..
@[simp] theorem Dev.tpCount_poison : (d.tpCount k).poison = d.poison := Dev.setReg_poison ..
@[simp] theorem Dev.tpCount_parts : (d.tpCount k).parts = d.parts := Dev.setReg_parts ..
@[simp] theorem Dev.tpCount_coll : (d.tpCount k).coll = d.coll := Dev.setReg_coll ..
@[simp] theorem Dev.tpCount_mbFull : (d.tpCount k).mbFull = d.mbFull := Dev.setReg_mbFull ..
@[simp] theorem Dev.tpCount_journal : (d.tpCount k).journal = d.journal := Dev.setReg_journal ..
@[simp] theorem Dev.tpCount_macs : (d.tpCount k).macs = d.macs := Dev.setReg_macs ..
@[simp] theorem Dev.tpCount_deficit : (d.tpCount k).deficit = d.deficit := Dev.setReg_deficit ..
@[simp] theorem Dev.tpCount_txq : (d.tpCount k).txq = d.txq := Dev.setReg_txq ..
@[simp] theorem Dev.tpCount_assoc : (d.tpCount k).assoc = d.assoc := Dev.setReg_assoc ..
@[simp] theorem Dev.tpCount_flows : (d.tpCount k).flows = d.flows := Dev.setReg_flows ..
@[simp] theorem Dev.tpCount_flowNext : (d.tpCount k).flowNext = d.flowNext := Dev.setReg_flowNext ..
@[simp] theorem Dev.tpCount_winQ : (d.tpCount k).winQ = d.winQ := Dev.setReg_winQ ..
@[simp] theorem Dev.tpCount_inj : (d.tpCount k).inj = d.inj := Dev.setReg_inj ..
@[simp] theorem Dev.tpCount_inc : (d.tpCount k).inc = d.inc := Dev.setReg_inc ..
@[simp] theorem Dev.tpCount_reports : (d.tpCount k).reports = d.reports := Dev.setReg_reports ..
@[simp] theorem Dev.tpCount_rub0 : (d.tpCount k).rub0 = d.rub0 := Dev.setReg_rub0 ..
@[simp] theorem Dev.tpCount_rub1 : (d.tpCount k).rub1 = d.rub1 := Dev.setReg_rub1 ..
@[simp] theorem Dev.tpCount_rubCopies : (d.tpCount k).rubCopies = d.rubCopies := Dev.setReg_rubCopies ..
@[simp] theorem Dev.tpCount_meas : (d.tpCount k).meas = d.meas := Dev.setReg_meas ..
@[simp] theorem Dev.tpCount_stage : (d.tpCount k).stage = d.stage := Dev.setReg_stage ..
@[simp] theorem Dev.tpCount_boot : (d.tpCount k).boot = d.boot := Dev.setReg_boot ..
@[simp] theorem Dev.tpCount_dbg : (d.tpCount k).dbg = d.dbg := Dev.setReg_dbg ..
@[simp] theorem Dev.tpCount_ethCycle : (d.tpCount k).ethCycle = d.ethCycle := Dev.setReg_ethCycle ..
@[simp] theorem Dev.tpCount_readData : (d.tpCount k).readData = d.readData := Dev.setReg_readData ..
@[simp] theorem Dev.tpCount_freeCount : (d.tpCount k).freeCount = d.freeCount := Dev.setReg_freeCount ..
@[simp] theorem Dev.tpCount_part (t : PartId) : (d.tpCount k).part t = d.part t := Dev.setReg_part ..
@[simp] theorem Dev.tpCount_port (t : PartId) (q' : Port) : (d.tpCount k).port t q' = d.port t q' := Dev.setReg_port ..
end

section
variable (d : Dev) (n : Nat) (f : Flow)
@[simp] theorem Dev.setFlow_mem : (d.setFlow n f).mem = d.mem := rfl
@[simp] theorem Dev.setFlow_mesh : (d.setFlow n f).mesh = d.mesh := rfl
@[simp] theorem Dev.setFlow_poison : (d.setFlow n f).poison = d.poison := rfl
@[simp] theorem Dev.setFlow_regs : (d.setFlow n f).regs = d.regs := rfl
@[simp] theorem Dev.setFlow_parts : (d.setFlow n f).parts = d.parts := rfl
@[simp] theorem Dev.setFlow_coll : (d.setFlow n f).coll = d.coll := rfl
@[simp] theorem Dev.setFlow_mbFull : (d.setFlow n f).mbFull = d.mbFull := rfl
@[simp] theorem Dev.setFlow_journal : (d.setFlow n f).journal = d.journal := rfl
@[simp] theorem Dev.setFlow_macs : (d.setFlow n f).macs = d.macs := rfl
@[simp] theorem Dev.setFlow_deficit : (d.setFlow n f).deficit = d.deficit := rfl
@[simp] theorem Dev.setFlow_txq : (d.setFlow n f).txq = d.txq := rfl
@[simp] theorem Dev.setFlow_assoc : (d.setFlow n f).assoc = d.assoc := rfl
@[simp] theorem Dev.setFlow_flowNext : (d.setFlow n f).flowNext = d.flowNext := rfl
@[simp] theorem Dev.setFlow_winQ : (d.setFlow n f).winQ = d.winQ := rfl
@[simp] theorem Dev.setFlow_inj : (d.setFlow n f).inj = d.inj := rfl
@[simp] theorem Dev.setFlow_inc : (d.setFlow n f).inc = d.inc := rfl
@[simp] theorem Dev.setFlow_reports : (d.setFlow n f).reports = d.reports := rfl
@[simp] theorem Dev.setFlow_rub0 : (d.setFlow n f).rub0 = d.rub0 := rfl
@[simp] theorem Dev.setFlow_rub1 : (d.setFlow n f).rub1 = d.rub1 := rfl
@[simp] theorem Dev.setFlow_rubCopies : (d.setFlow n f).rubCopies = d.rubCopies := rfl
@[simp] theorem Dev.setFlow_meas : (d.setFlow n f).meas = d.meas := rfl
@[simp] theorem Dev.setFlow_stage : (d.setFlow n f).stage = d.stage := rfl
@[simp] theorem Dev.setFlow_boot : (d.setFlow n f).boot = d.boot := rfl
@[simp] theorem Dev.setFlow_dbg : (d.setFlow n f).dbg = d.dbg := rfl
@[simp] theorem Dev.setFlow_ethCycle : (d.setFlow n f).ethCycle = d.ethCycle := rfl
@[simp] theorem Dev.setFlow_readData : (d.setFlow n f).readData = d.readData := rfl
@[simp] theorem Dev.setFlow_freeCount : (d.setFlow n f).freeCount = d.freeCount := rfl
@[simp] theorem Dev.setFlow_reg (i : Nat) : (d.setFlow n f).reg i = d.reg i := rfl
@[simp] theorem Dev.setFlow_fld (o i j : Nat) : (d.setFlow n f).fld o i j = d.fld o i j := rfl
@[simp] theorem Dev.setFlow_part (t : PartId) : (d.setFlow n f).part t = d.part t := rfl
@[simp] theorem Dev.setFlow_port (t : PartId) (q' : Port) : (d.setFlow n f).port t q' = d.port t q' := rfl
end

section
variable (d : Dev) (n : Nat) (f : Flow)
@[simp] theorem Dev.putFlow_mem : (d.putFlow n f).mem = d.mem := rfl
@[simp] theorem Dev.putFlow_mesh : (d.putFlow n f).mesh = d.mesh := rfl
@[simp] theorem Dev.putFlow_poison : (d.putFlow n f).poison = d.poison := rfl
@[simp] theorem Dev.putFlow_regs : (d.putFlow n f).regs = d.regs := rfl
@[simp] theorem Dev.putFlow_parts : (d.putFlow n f).parts = d.parts := rfl
@[simp] theorem Dev.putFlow_coll : (d.putFlow n f).coll = d.coll := rfl
@[simp] theorem Dev.putFlow_mbFull : (d.putFlow n f).mbFull = d.mbFull := rfl
@[simp] theorem Dev.putFlow_journal : (d.putFlow n f).journal = d.journal := rfl
@[simp] theorem Dev.putFlow_macs : (d.putFlow n f).macs = d.macs := rfl
@[simp] theorem Dev.putFlow_deficit : (d.putFlow n f).deficit = d.deficit := rfl
@[simp] theorem Dev.putFlow_txq : (d.putFlow n f).txq = d.txq := rfl
@[simp] theorem Dev.putFlow_assoc : (d.putFlow n f).assoc = d.assoc := rfl
@[simp] theorem Dev.putFlow_winQ : (d.putFlow n f).winQ = d.winQ := rfl
@[simp] theorem Dev.putFlow_inj : (d.putFlow n f).inj = d.inj := rfl
@[simp] theorem Dev.putFlow_inc : (d.putFlow n f).inc = d.inc := rfl
@[simp] theorem Dev.putFlow_reports : (d.putFlow n f).reports = d.reports := rfl
@[simp] theorem Dev.putFlow_rub0 : (d.putFlow n f).rub0 = d.rub0 := rfl
@[simp] theorem Dev.putFlow_rub1 : (d.putFlow n f).rub1 = d.rub1 := rfl
@[simp] theorem Dev.putFlow_rubCopies : (d.putFlow n f).rubCopies = d.rubCopies := rfl
@[simp] theorem Dev.putFlow_meas : (d.putFlow n f).meas = d.meas := rfl
@[simp] theorem Dev.putFlow_stage : (d.putFlow n f).stage = d.stage := rfl
@[simp] theorem Dev.putFlow_boot : (d.putFlow n f).boot = d.boot := rfl
@[simp] theorem Dev.putFlow_dbg : (d.putFlow n f).dbg = d.dbg := rfl
@[simp] theorem Dev.putFlow_ethCycle : (d.putFlow n f).ethCycle = d.ethCycle := rfl
@[simp] theorem Dev.putFlow_readData : (d.putFlow n f).readData = d.readData := rfl
@[simp] theorem Dev.putFlow_freeCount : (d.putFlow n f).freeCount = d.freeCount := rfl
@[simp] theorem Dev.putFlow_reg (i : Nat) : (d.putFlow n f).reg i = d.reg i := rfl
@[simp] theorem Dev.putFlow_fld (o i j : Nat) : (d.putFlow n f).fld o i j = d.fld o i j := rfl
@[simp] theorem Dev.putFlow_part (t : PartId) : (d.putFlow n f).part t = d.part t := rfl
@[simp] theorem Dev.putFlow_port (t : PartId) (q' : Port) : (d.putFlow n f).port t q' = d.port t q' := rfl
end

section
variable (d : Dev) (n : Nat)
@[simp] theorem Dev.dropFlow_mem : (d.dropFlow n).mem = d.mem := rfl
@[simp] theorem Dev.dropFlow_mesh : (d.dropFlow n).mesh = d.mesh := rfl
@[simp] theorem Dev.dropFlow_poison : (d.dropFlow n).poison = d.poison := rfl
@[simp] theorem Dev.dropFlow_regs : (d.dropFlow n).regs = d.regs := rfl
@[simp] theorem Dev.dropFlow_parts : (d.dropFlow n).parts = d.parts := rfl
@[simp] theorem Dev.dropFlow_coll : (d.dropFlow n).coll = d.coll := rfl
@[simp] theorem Dev.dropFlow_mbFull : (d.dropFlow n).mbFull = d.mbFull := rfl
@[simp] theorem Dev.dropFlow_journal : (d.dropFlow n).journal = d.journal := rfl
@[simp] theorem Dev.dropFlow_macs : (d.dropFlow n).macs = d.macs := rfl
@[simp] theorem Dev.dropFlow_deficit : (d.dropFlow n).deficit = d.deficit := rfl
@[simp] theorem Dev.dropFlow_txq : (d.dropFlow n).txq = d.txq := rfl
@[simp] theorem Dev.dropFlow_assoc : (d.dropFlow n).assoc = d.assoc := rfl
@[simp] theorem Dev.dropFlow_flowNext : (d.dropFlow n).flowNext = d.flowNext := rfl
@[simp] theorem Dev.dropFlow_winQ : (d.dropFlow n).winQ = d.winQ := rfl
@[simp] theorem Dev.dropFlow_inj : (d.dropFlow n).inj = d.inj := rfl
@[simp] theorem Dev.dropFlow_inc : (d.dropFlow n).inc = d.inc := rfl
@[simp] theorem Dev.dropFlow_reports : (d.dropFlow n).reports = d.reports := rfl
@[simp] theorem Dev.dropFlow_rub0 : (d.dropFlow n).rub0 = d.rub0 := rfl
@[simp] theorem Dev.dropFlow_rub1 : (d.dropFlow n).rub1 = d.rub1 := rfl
@[simp] theorem Dev.dropFlow_rubCopies : (d.dropFlow n).rubCopies = d.rubCopies := rfl
@[simp] theorem Dev.dropFlow_meas : (d.dropFlow n).meas = d.meas := rfl
@[simp] theorem Dev.dropFlow_stage : (d.dropFlow n).stage = d.stage := rfl
@[simp] theorem Dev.dropFlow_boot : (d.dropFlow n).boot = d.boot := rfl
@[simp] theorem Dev.dropFlow_dbg : (d.dropFlow n).dbg = d.dbg := rfl
@[simp] theorem Dev.dropFlow_ethCycle : (d.dropFlow n).ethCycle = d.ethCycle := rfl
@[simp] theorem Dev.dropFlow_readData : (d.dropFlow n).readData = d.readData := rfl
@[simp] theorem Dev.dropFlow_freeCount : (d.dropFlow n).freeCount = d.freeCount := rfl
@[simp] theorem Dev.dropFlow_reg (i : Nat) : (d.dropFlow n).reg i = d.reg i := rfl
@[simp] theorem Dev.dropFlow_fld (o i j : Nat) : (d.dropFlow n).fld o i j = d.fld o i j := rfl
@[simp] theorem Dev.dropFlow_part (t : PartId) : (d.dropFlow n).part t = d.part t := rfl
@[simp] theorem Dev.dropFlow_port (t : PartId) (q' : Port) : (d.dropFlow n).port t q' = d.port t q' := rfl
end

section
variable (d : Dev) (f : Boot → Boot)
@[simp] theorem Dev.modBoot_mem : (d.modBoot f).mem = d.mem := rfl
@[simp] theorem Dev.modBoot_mesh : (d.modBoot f).mesh = d.mesh := rfl
@[simp] theorem Dev.modBoot_poison : (d.modBoot f).poison = d.poison := rfl
@[simp] theorem Dev.modBoot_regs : (d.modBoot f).regs = d.regs := rfl
@[simp] theorem Dev.modBoot_parts : (d.modBoot f).parts = d.parts := rfl
@[simp] theorem Dev.modBoot_coll : (d.modBoot f).coll = d.coll := rfl
@[simp] theorem Dev.modBoot_mbFull : (d.modBoot f).mbFull = d.mbFull := rfl
@[simp] theorem Dev.modBoot_journal : (d.modBoot f).journal = d.journal := rfl
@[simp] theorem Dev.modBoot_macs : (d.modBoot f).macs = d.macs := rfl
@[simp] theorem Dev.modBoot_deficit : (d.modBoot f).deficit = d.deficit := rfl
@[simp] theorem Dev.modBoot_txq : (d.modBoot f).txq = d.txq := rfl
@[simp] theorem Dev.modBoot_assoc : (d.modBoot f).assoc = d.assoc := rfl
@[simp] theorem Dev.modBoot_flows : (d.modBoot f).flows = d.flows := rfl
@[simp] theorem Dev.modBoot_flowNext : (d.modBoot f).flowNext = d.flowNext := rfl
@[simp] theorem Dev.modBoot_winQ : (d.modBoot f).winQ = d.winQ := rfl
@[simp] theorem Dev.modBoot_inj : (d.modBoot f).inj = d.inj := rfl
@[simp] theorem Dev.modBoot_inc : (d.modBoot f).inc = d.inc := rfl
@[simp] theorem Dev.modBoot_reports : (d.modBoot f).reports = d.reports := rfl
@[simp] theorem Dev.modBoot_rub0 : (d.modBoot f).rub0 = d.rub0 := rfl
@[simp] theorem Dev.modBoot_rub1 : (d.modBoot f).rub1 = d.rub1 := rfl
@[simp] theorem Dev.modBoot_rubCopies : (d.modBoot f).rubCopies = d.rubCopies := rfl
@[simp] theorem Dev.modBoot_meas : (d.modBoot f).meas = d.meas := rfl
@[simp] theorem Dev.modBoot_stage : (d.modBoot f).stage = d.stage := rfl
@[simp] theorem Dev.modBoot_dbg : (d.modBoot f).dbg = d.dbg := rfl
@[simp] theorem Dev.modBoot_ethCycle : (d.modBoot f).ethCycle = d.ethCycle := rfl
@[simp] theorem Dev.modBoot_readData : (d.modBoot f).readData = d.readData := rfl
@[simp] theorem Dev.modBoot_freeCount : (d.modBoot f).freeCount = d.freeCount := rfl
@[simp] theorem Dev.modBoot_reg (i : Nat) : (d.modBoot f).reg i = d.reg i := rfl
@[simp] theorem Dev.modBoot_fld (o i j : Nat) : (d.modBoot f).fld o i j = d.fld o i j := rfl
@[simp] theorem Dev.modBoot_part (t : PartId) : (d.modBoot f).part t = d.part t := rfl
@[simp] theorem Dev.modBoot_port (t : PartId) (q' : Port) : (d.modBoot f).port t q' = d.port t q' := rfl
end

section
variable (d : Dev) (x : CollOp)
@[simp] theorem Dev.putColl_mem : (d.putColl x).mem = d.mem := rfl
@[simp] theorem Dev.putColl_mesh : (d.putColl x).mesh = d.mesh := rfl
@[simp] theorem Dev.putColl_poison : (d.putColl x).poison = d.poison := rfl
@[simp] theorem Dev.putColl_regs : (d.putColl x).regs = d.regs := rfl
@[simp] theorem Dev.putColl_parts : (d.putColl x).parts = d.parts := rfl
@[simp] theorem Dev.putColl_mbFull : (d.putColl x).mbFull = d.mbFull := rfl
@[simp] theorem Dev.putColl_journal : (d.putColl x).journal = d.journal := rfl
@[simp] theorem Dev.putColl_macs : (d.putColl x).macs = d.macs := rfl
@[simp] theorem Dev.putColl_deficit : (d.putColl x).deficit = d.deficit := rfl
@[simp] theorem Dev.putColl_txq : (d.putColl x).txq = d.txq := rfl
@[simp] theorem Dev.putColl_assoc : (d.putColl x).assoc = d.assoc := rfl
@[simp] theorem Dev.putColl_flows : (d.putColl x).flows = d.flows := rfl
@[simp] theorem Dev.putColl_flowNext : (d.putColl x).flowNext = d.flowNext := rfl
@[simp] theorem Dev.putColl_winQ : (d.putColl x).winQ = d.winQ := rfl
@[simp] theorem Dev.putColl_inj : (d.putColl x).inj = d.inj := rfl
@[simp] theorem Dev.putColl_inc : (d.putColl x).inc = d.inc := rfl
@[simp] theorem Dev.putColl_reports : (d.putColl x).reports = d.reports := rfl
@[simp] theorem Dev.putColl_rub0 : (d.putColl x).rub0 = d.rub0 := rfl
@[simp] theorem Dev.putColl_rub1 : (d.putColl x).rub1 = d.rub1 := rfl
@[simp] theorem Dev.putColl_rubCopies : (d.putColl x).rubCopies = d.rubCopies := rfl
@[simp] theorem Dev.putColl_meas : (d.putColl x).meas = d.meas := rfl
@[simp] theorem Dev.putColl_stage : (d.putColl x).stage = d.stage := rfl
@[simp] theorem Dev.putColl_boot : (d.putColl x).boot = d.boot := rfl
@[simp] theorem Dev.putColl_dbg : (d.putColl x).dbg = d.dbg := rfl
@[simp] theorem Dev.putColl_ethCycle : (d.putColl x).ethCycle = d.ethCycle := rfl
@[simp] theorem Dev.putColl_readData : (d.putColl x).readData = d.readData := rfl
@[simp] theorem Dev.putColl_freeCount : (d.putColl x).freeCount = d.freeCount := rfl
@[simp] theorem Dev.putColl_reg (i : Nat) : (d.putColl x).reg i = d.reg i := rfl
@[simp] theorem Dev.putColl_fld (o i j : Nat) : (d.putColl x).fld o i j = d.fld o i j := rfl
@[simp] theorem Dev.putColl_part (t : PartId) : (d.putColl x).part t = d.part t := rfl
@[simp] theorem Dev.putColl_port (t : PartId) (q' : Port) : (d.putColl x).port t q' = d.port t q' := rfl
end

section
variable (d : Dev) (n : Nat)
@[simp] theorem Dev.dropColl_mem : (d.dropColl n).mem = d.mem := rfl
@[simp] theorem Dev.dropColl_mesh : (d.dropColl n).mesh = d.mesh := rfl
@[simp] theorem Dev.dropColl_poison : (d.dropColl n).poison = d.poison := rfl
@[simp] theorem Dev.dropColl_regs : (d.dropColl n).regs = d.regs := rfl
@[simp] theorem Dev.dropColl_parts : (d.dropColl n).parts = d.parts := rfl
@[simp] theorem Dev.dropColl_mbFull : (d.dropColl n).mbFull = d.mbFull := rfl
@[simp] theorem Dev.dropColl_journal : (d.dropColl n).journal = d.journal := rfl
@[simp] theorem Dev.dropColl_macs : (d.dropColl n).macs = d.macs := rfl
@[simp] theorem Dev.dropColl_deficit : (d.dropColl n).deficit = d.deficit := rfl
@[simp] theorem Dev.dropColl_txq : (d.dropColl n).txq = d.txq := rfl
@[simp] theorem Dev.dropColl_assoc : (d.dropColl n).assoc = d.assoc := rfl
@[simp] theorem Dev.dropColl_flows : (d.dropColl n).flows = d.flows := rfl
@[simp] theorem Dev.dropColl_flowNext : (d.dropColl n).flowNext = d.flowNext := rfl
@[simp] theorem Dev.dropColl_winQ : (d.dropColl n).winQ = d.winQ := rfl
@[simp] theorem Dev.dropColl_inj : (d.dropColl n).inj = d.inj := rfl
@[simp] theorem Dev.dropColl_inc : (d.dropColl n).inc = d.inc := rfl
@[simp] theorem Dev.dropColl_reports : (d.dropColl n).reports = d.reports := rfl
@[simp] theorem Dev.dropColl_rub0 : (d.dropColl n).rub0 = d.rub0 := rfl
@[simp] theorem Dev.dropColl_rub1 : (d.dropColl n).rub1 = d.rub1 := rfl
@[simp] theorem Dev.dropColl_rubCopies : (d.dropColl n).rubCopies = d.rubCopies := rfl
@[simp] theorem Dev.dropColl_meas : (d.dropColl n).meas = d.meas := rfl
@[simp] theorem Dev.dropColl_stage : (d.dropColl n).stage = d.stage := rfl
@[simp] theorem Dev.dropColl_boot : (d.dropColl n).boot = d.boot := rfl
@[simp] theorem Dev.dropColl_dbg : (d.dropColl n).dbg = d.dbg := rfl
@[simp] theorem Dev.dropColl_ethCycle : (d.dropColl n).ethCycle = d.ethCycle := rfl
@[simp] theorem Dev.dropColl_readData : (d.dropColl n).readData = d.readData := rfl
@[simp] theorem Dev.dropColl_freeCount : (d.dropColl n).freeCount = d.freeCount := rfl
@[simp] theorem Dev.dropColl_reg (i : Nat) : (d.dropColl n).reg i = d.reg i := rfl
@[simp] theorem Dev.dropColl_fld (o i j : Nat) : (d.dropColl n).fld o i j = d.fld o i j := rfl
@[simp] theorem Dev.dropColl_part (t : PartId) : (d.dropColl n).part t = d.part t := rfl
@[simp] theorem Dev.dropColl_port (t : PartId) (q' : Port) : (d.dropColl n).port t q' = d.port t q' := rfl
end

@[simp] theorem Dev.free_regs (d : Dev) : d.free.2.regs = d.regs := rfl
@[simp] theorem Dev.free_mem (d : Dev) : d.free.2.mem = d.mem := rfl
@[simp] theorem Dev.free_parts (d : Dev) : d.free.2.parts = d.parts := rfl
@[simp] theorem Dev.free_part (d : Dev) (p : PartId) : d.free.2.part p = d.part p := rfl
@[simp] theorem Dev.free_reg (d : Dev) (o : Nat) : d.free.2.reg o = d.reg o := rfl

/-! ## The state around the device -/

@[simp] theorem State.onDev_dev (s : State) (f : Dev → Dev) : (s.onDev f).dev = f s.dev := rfl
@[simp] theorem State.onDev_fuse (s : State) (f : Dev → Dev) : (s.onDev f).fuse = s.fuse := rfl
@[simp] theorem State.onDev_flash (s : State) (f : Dev → Dev) : (s.onDev f).flash = s.flash := rfl
@[simp] theorem State.onDev_fru (s : State) (f : Dev → Dev) : (s.onDev f).fru = s.fru := rfl
@[simp] theorem State.onDev_pending (s : State) (f : Dev → Dev) : (s.onDev f).pending = s.pending := rfl

/-- A command on the device alone always answers, and leaves the fuses, the flash, the FRU area and the queue. -/
theorem onDev_spec (f : Dev → Dev) (s : State) :
    ∃ t, onDev f s = .next t ∧ t.dev = f s.dev ∧ t.fuse = s.fuse ∧ t.flash = s.flash ∧ t.fru = s.fru ∧ t.pending = s.pending :=
  ⟨_, rfl, rfl, rfl, rfl, rfl, rfl⟩

theorem onDev_eq (f : Dev → Dev) (s : State) (D : Dev) (h : f s.dev = D) : onDev f s = .next { s with dev := D } := by
  subst h
  rfl

theorem onState_eq (f : State → State) (s t : State) (h : f s = t) : onState f s = .next t := by
  subst h
  rfl

/-! ## Registers -/

@[simp] theorem Dev.reg_setReg_same (d : Dev) (o : Nat) (v : W64) : (d.setReg o v).reg o = v := Tab.get_set_same _ _ _ _

theorem Dev.reg_setReg_other (d : Dev) (o k : Nat) (v : W64) (h : k ≠ o) : (d.setReg o v).reg k = d.reg k :=
  Tab.get_set_other _ _ _ _ _ h

theorem Dev.fld_setReg_other (d : Dev) (o k hi lo : Nat) (v : W64) (h : k ≠ o) : (d.setReg o v).fld k hi lo = d.fld k hi lo := by
  unfold Dev.fld
  rw [Dev.reg_setReg_other d o k v h]

theorem Dev.reg_setFld_same (d : Dev) (o hi lo v : Nat) : (d.setFld o hi lo v).reg o = putBits (d.reg o) hi lo v := Dev.reg_setReg_same ..

theorem Dev.reg_setFld_other (d : Dev) (o hi lo v k : Nat) (h : k ≠ o) : (d.setFld o hi lo v).reg k = d.reg k :=
  Dev.reg_setReg_other _ _ _ _ h

theorem Dev.fld_setFld_same (d : Dev) (o hi lo v : Nat) (h : lo ≤ hi) (h64 : hi < 64) :
    (d.setFld o hi lo v).fld o hi lo = v % 2 ^ (hi + 1 - lo) := by
  unfold Dev.fld
  rw [Dev.reg_setFld_same, bits_putBits_same _ _ _ _ h h64]

/-- Another field of the same register stays. -/
theorem Dev.fld_setFld_field (d : Dev) (o hi lo v h2 l2 : Nat) (h : lo ≤ hi) (h64 : hi < 64) (hl : l2 ≤ h2) (hd : hi < l2 ∨ h2 < lo) :
    (d.setFld o hi lo v).fld o h2 l2 = d.fld o h2 l2 := by
  unfold Dev.fld
  rw [Dev.reg_setFld_same, bits_putBits_other _ _ _ _ _ _ h h64 hl hd]

theorem Dev.fld_setFld_other (d : Dev) (o hi lo v k h2 l2 : Nat) (h : k ≠ o) : (d.setFld o hi lo v).fld k h2 l2 = d.fld k h2 l2 :=
  Dev.fld_setReg_other _ _ _ _ _ _ h

theorem Dev.reg_setFlag_same (d : Dev) (o i : Nat) (b : Bool) : (d.setFlag o i b).reg o = putBit (d.reg o) i b := Dev.reg_setReg_same ..

theorem Dev.reg_setFlag_other (d : Dev) (o i k : Nat) (b : Bool) (h : k ≠ o) : (d.setFlag o i b).reg k = d.reg k :=
  Dev.reg_setReg_other _ _ _ _ h

theorem Dev.fld_setFlag_field (d : Dev) (o i hi lo : Nat) (b : Bool) (h : i < 64) (hl : lo ≤ hi) (hd : i < lo ∨ hi < i) :
    (d.setFlag o i b).fld o hi lo = d.fld o hi lo := by
  unfold Dev.fld
  rw [Dev.reg_setFlag_same, bits_putBit_other _ _ _ _ _ h hl hd]

theorem Dev.fld_setFlag_other (d : Dev) (o i k hi lo : Nat) (b : Bool) (h : k ≠ o) : (d.setFlag o i b).fld k hi lo = d.fld k hi lo :=
  Dev.fld_setReg_other _ _ _ _ _ _ h

@[simp] theorem Dev.ctr_setCtr_same (d : Dev) (p : PartId) (c : Nat) (v : BitVec 32) : (d.setCtr p c v).ctr p c = v := by
  unfold Dev.ctr Dev.setCtr
  rw [Dev.reg_setReg_same]
  apply BitVec.eq_of_toNat_eq
  simp [BitVec.truncate_eq_setWidth, BitVec.toNat_setWidth]
  exact v.isLt

theorem R.syncCnt_inj (p t : PartId) (c k : Nat) (hc : c < 512) (hk : k < 512) (h : R.syncCnt p c = R.syncCnt t k) : p = t ∧ c = k := by
  unfold R.syncCnt R.part at h
  have := p.isLt
  have := t.isLt
  rw [Nat.mod_eq_of_lt hc, Nat.mod_eq_of_lt hk] at h
  exact ⟨Fin.ext (by omega), by omega⟩

theorem Dev.ctr_setCtr_other (d : Dev) (p t : PartId) (c k : Nat) (v : BitVec 32) (hc : c < 512) (hk : k < 512) (h : ¬(t = p ∧ k = c)) :
    (d.setCtr p c v).ctr t k = d.ctr t k := by
  unfold Dev.ctr Dev.setCtr
  rw [Dev.reg_setReg_other]
  intro e
  exact h (R.syncCnt_inj t p k c hk hc e)

/-! ## Partitions and ports -/

@[simp] theorem Dev.part_setPart_same (d : Dev) (p : PartId) (x : Part) : (d.setPart p x).part p = x := by
  simp [Dev.part, Dev.setPart]

theorem Dev.part_setPart_other (d : Dev) (p t : PartId) (x : Part) (h : t ≠ p) : (d.setPart p x).part t = d.part t := by
  simp only [Dev.part, Dev.setPart]
  have : p.val ≠ t.val := fun e => h (Fin.ext e.symm)
  simp [this]

@[simp] theorem Dev.part_modPart_same (d : Dev) (p : PartId) (f : Part → Part) : (d.modPart p f).part p = f (d.part p) :=
  Dev.part_setPart_same d p _

theorem Dev.part_modPart_other (d : Dev) (p t : PartId) (f : Part → Part) (h : t ≠ p) : (d.modPart p f).part t = d.part t :=
  Dev.part_setPart_other d p t _ h

@[simp] theorem Dev.port_modPart_same (d : Dev) (p : PartId) (f : Part → Part) (q : Port) : (d.modPart p f).port p q = (f (d.part p)).port q := by
  unfold Dev.port
  rw [Dev.part_modPart_same]

@[simp] theorem Part.port_a0 (x : Part) (a : ArraySt) (q : Port) : ({ x with a0 := a } : Part).port q = x.port q := by cases q <;> rfl
@[simp] theorem Part.port_cores (x : Part) (a : Vector Core 6) (n : Nat) (q : Port) :
    ({ x with cores := a, coreRR := n } : Part).port q = x.port q := by cases q <;> rfl
@[simp] theorem Part.port_vq (x : Part) (l : List VIns) (q : Port) : ({ x with vq := l } : Part).port q = x.port q := by cases q <;> rfl
@[simp] theorem Part.port_mq (x : Part) (l : List MIns) (q : Port) : ({ x with mq := l } : Part).port q = x.port q := by cases q <;> rfl
@[simp] theorem Part.port_told (x : Part) (l : List (UnitKind × Nat)) (q : Port) : ({ x with told := l } : Part).port q = x.port q := by cases q <;> rfl

@[simp] theorem Dev.part_setPort_same (d : Dev) (p : PartId) (q : Port) (v : PortSt) : (d.setPort p q v).part p = (d.part p).setPort q v :=
  Dev.part_setPart_same d p _

@[simp] theorem Dev.part_modPort_same (d : Dev) (p : PartId) (q : Port) (f : PortSt → PortSt) :
    (d.modPort p q f).part p = (d.part p).setPort q (f (d.port p q)) := Dev.part_setPart_same d p _

theorem Dev.part_modPort_other (d : Dev) (p t : PartId) (q : Port) (f : PortSt → PortSt) (h : t ≠ p) :
    (d.modPort p q f).part t = d.part t := Dev.part_setPart_other d p t _ h

@[simp] theorem Part.port_setPort_same (x : Part) (q : Port) (v : PortSt) : (x.setPort q v).port q = v := by cases q <;> rfl

/-- Two ports that are not both the scalar port and not the same keep their own states. -/
theorem Part.port_setPort_other (x : Part) (q k : Port) (v : PortSt) (h : k.num ≠ q.num) : (x.setPort q v).port k = x.port k := by
  cases q <;> cases k <;> first | rfl | exact absurd rfl h

@[simp] theorem Dev.port_setPort_same (d : Dev) (p : PartId) (q : Port) (v : PortSt) : (d.setPort p q v).port p q = v := by
  unfold Dev.port
  rw [Dev.part_setPort_same, Part.port_setPort_same]

@[simp] theorem Dev.port_modPort_same (d : Dev) (p : PartId) (q : Port) (f : PortSt → PortSt) : (d.modPort p q f).port p q = f (d.port p q) := by
  unfold Dev.port
  rw [Dev.part_modPort_same, Part.port_setPort_same]
  rfl

section
variable (x : Part) (q : Port) (v : PortSt)
@[simp] theorem Part.setPort_a0 : (x.setPort q v).a0 = x.a0 := by cases q <;> rfl
@[simp] theorem Part.setPort_a1 : (x.setPort q v).a1 = x.a1 := by cases q <;> rfl
@[simp] theorem Part.setPort_in0 : (x.setPort q v).in0 = x.in0 := by cases q <;> rfl
@[simp] theorem Part.setPort_in1 : (x.setPort q v).in1 = x.in1 := by cases q <;> rfl
@[simp] theorem Part.setPort_vq : (x.setPort q v).vq = x.vq := by cases q <;> rfl
@[simp] theorem Part.setPort_vLast : (x.setPort q v).vLast = x.vLast := by cases q <;> rfl
@[simp] theorem Part.setPort_mq : (x.setPort q v).mq = x.mq := by cases q <;> rfl
@[simp] theorem Part.setPort_sfu : (x.setPort q v).sfu = x.sfu := by cases q <;> rfl
@[simp] theorem Part.setPort_sfuImage : (x.setPort q v).sfuImage = x.sfuImage := by cases q <;> rfl
@[simp] theorem Part.setPort_slots : (x.setPort q v).slots = x.slots := by cases q <;> rfl
@[simp] theorem Part.setPort_sets : (x.setPort q v).sets = x.sets := by cases q <;> rfl
@[simp] theorem Part.setPort_units : (x.setPort q v).units = x.units := by cases q <;> rfl
@[simp] theorem Part.setPort_cores : (x.setPort q v).cores = x.cores := by cases q <;> rfl
@[simp] theorem Part.setPort_coreRR : (x.setPort q v).coreRR = x.coreRR := by cases q <;> rfl
@[simp] theorem Part.setPort_fill : (x.setPort q v).fill = x.fill := by cases q <;> rfl
@[simp] theorem Part.setPort_queues : (x.setPort q v).queues = x.queues := by cases q <;> rfl
@[simp] theorem Part.setPort_qLast : (x.setPort q v).qLast = x.qLast := by cases q <;> rfl
@[simp] theorem Part.setPort_cast : (x.setPort q v).cast = x.cast := by cases q <;> rfl
@[simp] theorem Part.setPort_maq : (x.setPort q v).maq = x.maq := by cases q <;> rfl
@[simp] theorem Part.setPort_restored : (x.setPort q v).restored = x.restored := by cases q <;> rfl
@[simp] theorem Part.setPort_trainQ : (x.setPort q v).trainQ = x.trainQ := by cases q <;> rfl
@[simp] theorem Part.setPort_rst : (x.setPort q v).rst = x.rst := by cases q <;> rfl
@[simp] theorem Part.setPort_told : (x.setPort q v).told = x.told := by cases q <;> rfl
@[simp] theorem Part.setPort_logOwes : (x.setPort q v).logOwes = x.logOwes := by cases q <;> rfl
@[simp] theorem Part.setPort_refresh : (x.setPort q v).refresh = x.refresh := by cases q <;> rfl
@[simp] theorem Part.setPort_image : (x.setPort q v).image = x.image := by cases q <;> rfl
@[simp] theorem Part.setPort_microcode : (x.setPort q v).microcode = x.microcode := by cases q <;> rfl
@[simp] theorem Part.setPort_microPending : (x.setPort q v).microPending = x.microPending := by cases q <;> rfl
@[simp] theorem Part.setPort_heartbeats : (x.setPort q v).heartbeats = x.heartbeats := by cases q <;> rfl
end

end Sys2Proof.Machine
end

