-- ==== Sys2Proof/Laws/Issue.lean ====
section
/-! SUPPORT. What an issue port does with a word it takes, and what its advance is. -/
namespace Sys2Proof.Machine

/-- A port that takes a word does what the instruction says. -/
theorem Dev.issue_go (d d' : Dev) (p : PartId) (q : Port) (w0 : W64) (w1 : Option W64) (body : Dev → Iss)
    (h : d.takes p q w0 w1 = true) (hb : body d = .go d') : d.issue p q w0 w1 body = d' := by
  cases q with
  | s c =>
    have h : d.portHead p c w0 w1 = true := h
    simp [Dev.issue, Dev.portIssue, h, hb]
  | _ =>
    simp only [Dev.takes, Bool.and_eq_true] at h
    simp [Dev.issue, Dev.seqIssue, h.1, h.2, hb]

/-- A control instruction of a ready sequencer does what it says. -/
theorem Dev.ctl_go (d d' : Dev) (p : PartId) (x : Seq) (body : Dev → Iss)
    (two : Bool) (h1 : d.seqReady p x = true) (h2 : fetchOk p (d.pc p x) two = true) (hb : body d = .go d') : d.ctl p x two true body = d' := by
  simp [Dev.ctl, Dev.seqIssue, h1, h2, hb]

theorem R.seqPc_ne_seqStatus (p t : PartId) (x y : Seq) : R.seqPc p x ≠ R.seqStatus t y := by
  have := p.isLt
  have := t.isLt
  cases x <;> cases y <;> simp only [R.seqPc, R.seqStatus, R.part, Seq.num] <;> omega

theorem R.seqStatus_ne_seqPc (p t : PartId) (x y : Seq) : R.seqStatus p x ≠ R.seqPc t y := (R.seqPc_ne_seqStatus t p y x).symm

/-! ## The advance of a sequencer -/

section
variable (d : Dev) (p : PartId) (x : Seq) (len : Nat)

theorem Dev.adv_seq : d.adv p x.port len = (d.unpairPort p x.port).seqAdv p x len := by cases x <;> rfl

theorem Dev.unpairPort_part_other (q : Port) (u : PartId) (h : u ≠ p) : (d.unpairPort p q).part u = d.part u := by
  cases q <;> simp [Dev.unpairPort, Dev.part_modPart_other _ _ _ _ h, Dev.part_modPort_other _ _ _ _ _ h]

/-- It leaves the words that wait for the scalar issue port. -/
theorem Dev.unpairPort_queue (q : Port) (c : Fin 6) : ((d.unpairPort p q).part p).cores[c].queue = (d.part p).cores[c].queue := by
  cases q with
  | s k =>
    simp only [Dev.unpairPort, Dev.part_modPart_same]
    by_cases h : k = c
    · subst h; simp
    · rw [Fin.getElem_fin, Vector.getElem_set_ne _ _ (fun e => h (Fin.ext e))]
      rfl
  | _ => simp [Dev.unpairPort]

theorem Dev.unpairPort_coreRR (q : Port) : ((d.unpairPort p q).part p).coreRR = (d.part p).coreRR := by
  cases q <;> simp [Dev.unpairPort]

theorem Dev.unpairPort_port (q : Port) : (d.unpairPort p q).port p q
    = { d.port p q with pairCand := if q.seq?.isSome then none else (d.port p q).pairCand } := by
  cases q with
  | s c =>
    simp only [Dev.unpairPort, Dev.port_modPart_same, Part.port_cores]
    show (d.modPart p _).port p (.s c) = _
    rw [Dev.port_modPart_same, Part.port_a0]
    rfl
  | _ =>
    simp only [Dev.unpairPort, Dev.port_modPort_same, Dev.port_modPart_same, Part.port_a0]
    rfl

theorem Dev.seqResume_reg_other (o : Nat) (h : o ≠ R.seqStatus p x) : (d.seqResume p x).reg o = d.reg o := by
  unfold Dev.seqResume
  split
  · rw [Dev.setSeqState, Dev.reg_setFld_other _ _ _ _ _ _ h]; simp
  · rw [Dev.setSeqState, Dev.reg_setFld_other _ _ _ _ _ _ h]

theorem Dev.seqResume_state : (d.seqResume p x).seqState p x = if (d.port p x.port).haltReq then 4 else 1 := by
  unfold Dev.seqResume Dev.seqState Dev.setSeqState
  split <;> simp [Dev.fld_setFld_same]

theorem Dev.seqResume_issued : (d.seqResume p x).fld (R.seqStatus p x) 27 1 = d.fld (R.seqStatus p x) 27 1 := by
  unfold Dev.seqResume Dev.setSeqState
  split <;> rw [Dev.fld_setFld_field _ _ _ _ _ _ _ (by omega) (by omega) (by omega) (by omega)] <;> simp

theorem Dev.seqResume_port : (d.seqResume p x).port p x.port = { d.port p x.port with haltReq := false } := by
  unfold Dev.seqResume
  split
  · simp
  · next h => simp only [Dev.setSeqState_port]; cases hp : d.port p x.port; simp_all

theorem Dev.seqResume_part_other (u : PartId) (h : u ≠ p) : (d.seqResume p x).part u = d.part u := by
  unfold Dev.seqResume
  split <;> simp [Dev.part_modPort_other _ _ _ _ _ h]

theorem Dev.seqAdv_reg_other (o : Nat) (h1 : o ≠ R.seqPc p x) (h2 : o ≠ R.seqStatus p x) : (d.seqAdv p x len).reg o = d.reg o := by
  unfold Dev.seqAdv
  rw [Dev.seqResume_reg_other _ _ _ _ h2, Dev.bumpWrap, Dev.reg_setFld_other _ _ _ _ _ _ h2, Dev.setPc, Dev.reg_setFld_other _ _ _ _ _ _ h1]

theorem Dev.seqAdv_pc : (d.seqAdv p x len).pc p x = (d.pc p x + 8 * len) % 2 ^ 48 := by
  unfold Dev.seqAdv Dev.pc
  have h := R.seqPc_ne_seqStatus p p x x
  have e : ∀ D : Dev, D.fld (R.seqPc p x) 47 3 = bits (D.reg (R.seqPc p x)) 47 3 := fun _ => rfl
  rw [e, Dev.seqResume_reg_other _ _ _ _ h, Dev.bumpWrap, Dev.reg_setFld_other _ _ _ _ _ _ h, ← e, Dev.setPc,
    Dev.fld_setFld_same _ _ _ _ _ (by omega) (by omega)]
  omega

theorem Dev.seqAdv_issued : (d.seqAdv p x len).fld (R.seqStatus p x) 27 1 = (d.fld (R.seqStatus p x) 27 1 + 1) % 2 ^ 27 := by
  unfold Dev.seqAdv
  have h := R.seqStatus_ne_seqPc p p x x
  rw [Dev.seqResume_issued, Dev.bumpWrap, Dev.fld_setFld_same _ _ _ _ _ (by omega) (by omega), Dev.setPc, Dev.fld_setFld_other _ _ _ _ _ _ _ _ h]

theorem Dev.seqAdv_state : (d.seqAdv p x len).seqState p x = if (d.port p x.port).haltReq then 4 else 1 := by
  unfold Dev.seqAdv
  rw [Dev.seqResume_state]
  simp

theorem Dev.seqAdv_port : (d.seqAdv p x len).port p x.port = { d.port p x.port with haltReq := false } := by
  unfold Dev.seqAdv
  rw [Dev.seqResume_port]
  simp

theorem Dev.seqAdv_part_other (u : PartId) (h : u ≠ p) : (d.seqAdv p x len).part u = d.part u := by
  unfold Dev.seqAdv
  rw [Dev.seqResume_part_other _ _ _ _ h]
  simp

/-- An advance changes registers and partitions alone. -/
theorem Dev.seqAdv_only : d.seqAdv p x len = { d with regs := (d.seqAdv p x len).regs, parts := (d.seqAdv p x len).parts } := by
  unfold Dev.seqAdv Dev.seqResume
  split <;> (ext1 <;> simp)

end

/-! ## The advance of any port -/

section
variable (d : Dev) (p : PartId) (q : Port) (len : Nat)

theorem Dev.adv_only : d.adv p q len = { d with regs := (d.adv p q len).regs, parts := (d.adv p q len).parts } := by
  cases q with
  | s c => unfold Dev.adv Dev.portAdv; ext1 <;> simp
  | _ =>
    simp only [Dev.adv]
    rw [Dev.seqAdv_only]
    ext1 <;> simp

theorem Dev.adv_reg_other (o : Nat) (h : o ∉ issueRegs p q) : (d.adv p q len).reg o = d.reg o := by
  cases q with
  | s c => simp [Dev.adv, Dev.portAdv]
  | _ =>
    simp only [issueRegs, Port.seq?, List.mem_cons, List.not_mem_nil, or_false, not_or] at h
    simp only [Dev.adv]
    rw [Dev.seqAdv_reg_other _ _ _ _ _ h.1 h.2]
    simp

theorem Dev.adv_part_other (u : PartId) (h : u ≠ p) : (d.adv p q len).part u = d.part u := by
  cases q with
  | s c => simp [Dev.adv, Dev.portAdv, Dev.part_modPart_other _ _ _ _ h, Dev.unpairPort_part_other _ _ _ _ h]
  | _ =>
    simp only [Dev.adv]
    rw [Dev.seqAdv_part_other _ _ _ _ _ h, Dev.unpairPort_part_other _ _ _ _ h]

theorem issueRegs_port (x : Seq) : issueRegs p x.port = [R.seqPc p x, R.seqStatus p x] := by cases x <;> rfl

/-- What an advance leaves of the port's own state. -/
theorem Dev.adv_port : (d.adv p q len).port p q
    = { d.port p q with haltReq := (if q.seq?.isSome then false else (d.port p q).haltReq),
                        pairCand := (if q.seq?.isSome then none else (d.port p q).pairCand) } := by
  have seq : ∀ x : Seq, (d.adv p x.port len).port p x.port = { d.port p x.port with haltReq := false, pairCand := none } := by
    intro x
    rw [Dev.adv_seq, Dev.seqAdv_port, Dev.unpairPort_port]
    cases x <;> rfl
  cases q with
  | s c =>
    simp only [Dev.adv, Dev.portAdv, Dev.port_modPart_same, Part.port_cores]
    show (d.unpairPort p (.s c)).port p (.s c) = _
    rw [Dev.unpairPort_port]
    rfl
  | f => exact seq .f
  | b => exact seq .b
  | u => exact seq .u

theorem Dev.adv_pc (x : Seq) : (d.adv p x.port len).pc p x = (d.pc p x + 8 * len) % 2 ^ 48 := by
  rw [Dev.adv_seq, Dev.seqAdv_pc]
  simp [Dev.pc]

theorem Dev.adv_issued (x : Seq) :
    (d.adv p x.port len).fld (R.seqStatus p x) 27 1 = (d.fld (R.seqStatus p x) 27 1 + 1) % 2 ^ 27 := by
  rw [Dev.adv_seq, Dev.seqAdv_issued]
  simp

theorem Dev.adv_state (x : Seq) : (d.adv p x.port len).seqState p x = if (d.port p x.port).haltReq then 4 else 1 := by
  rw [Dev.adv_seq, Dev.seqAdv_state, Dev.unpairPort_port]

/-- The scalar issue port has taken the head of its core's queue. -/
theorem Dev.adv_queue (c : Fin 6) : ((d.adv p (.s c) len).part p).cores[c].queue = (d.part p).cores[c].queue.tail
    ∧ ((d.adv p (.s c) len).part p).coreRR = c.val + 1 := by
  have h : (d.adv p (.s c) len) = (d.unpairPort p (.s c)).portAdv p c := rfl
  rw [h, Dev.portAdv, Dev.part_modPart_same]
  refine ⟨?_, rfl⟩
  rw [← Dev.unpairPort_queue d p (.s c) c]
  simp

/-- A state that agrees with the advance on the port's registers, and whose core has lost the head of its queue, has moved past the
instruction. -/
theorem movedPast_of (s : State) (D : Dev) (hr : ∀ o ∈ issueRegs p q, D.reg o = (s.dev.adv p q len).reg o)
    (hc : ∀ c : Fin 6, q = .s c → (D.part p).cores[c].queue = (s.dev.part p).cores[c].queue.tail ∧ (D.part p).coreRR = c.val + 1) :
    movedPast p q len s { s with dev := D } := by
  have key : ∀ x : Seq, q = x.port → movedPast.seqMoved p len s { s with dev := D } x := by
    rintro x rfl
    rw [issueRegs_port] at hr
    have h1 := hr (R.seqPc p x) (by simp)
    have h2 := hr (R.seqStatus p x) (by simp)
    refine ⟨?_, ?_, ?_⟩
    · rw [← Dev.adv_pc]; unfold Dev.pc Dev.fld; rw [h1]
    · rw [← Dev.adv_issued]; unfold Dev.fld; rw [h2]
    · rw [← Dev.adv_state (len := len)]; unfold Dev.seqState Dev.fld; rw [h2]
  cases q with
  | s c => exact hc c rfl
  | f => exact key .f rfl
  | b => exact key .b rfl
  | u => exact key .u rfl

theorem onlyPart_of (l : List Nat) (s : State) (D : Dev) (h : D = { s.dev with regs := D.regs, parts := D.parts })
    (hr : ∀ o, o ∉ l → D.reg o = s.dev.reg o) (hp : ∀ u, u ≠ p → D.part u = s.dev.part u) : onlyPart l p s { s with dev := D } := by
  refine ⟨?_, hr, hp⟩
  show ({ s with dev := D } : State) = { s with dev := { s.dev with regs := D.regs, parts := D.parts } }
  rw [← h]

theorem onlyRegs_of (l : List Nat) (s : State) (D : Dev) (h : D = { s.dev with regs := D.regs })
    (hr : ∀ o, o ∉ l → D.reg o = s.dev.reg o) : onlyRegs l s { s with dev := D } := by
  refine ⟨?_, hr⟩
  show ({ s with dev := D } : State) = { s with dev := { s.dev with regs := D.regs } }
  rw [← h]

/-- An advance followed by a change of the port's state. -/
theorem Dev.adv_modPort_spec (s : State) (f : PortSt → PortSt) :
    let D := (s.dev.adv p q len).modPort p q f
    movedPast p q len s { s with dev := D } ∧ onlyPart (issueRegs p q) p s { s with dev := D }
      ∧ D.port p q = f ((s.dev.adv p q len).port p q) := by
  refine ⟨movedPast_of p q len s _ (fun o _ => by simp) ?_, ?_, by simp⟩
  · rintro c rfl
    rw [Dev.part_modPort_same, Part.setPort_cores, Part.setPort_coreRR]
    exact Dev.adv_queue s.dev p len c
  refine onlyPart_of p _ s _ ?_ ?_ ?_
  · rw [Dev.adv_only]; ext1 <;> simp
  · intro o h
    rw [Dev.modPort_reg, Dev.adv_reg_other _ _ _ _ _ h]
  · intro u h
    rw [Dev.part_modPort_other _ _ _ _ _ h, Dev.adv_part_other _ _ _ _ _ h]

/-- A bare advance. -/
theorem Dev.adv_spec (s : State) :
    movedPast p q len s { s with dev := s.dev.adv p q len } ∧ onlyPart (issueRegs p q) p s { s with dev := s.dev.adv p q len } :=
  ⟨movedPast_of p q len s _ (fun _ _ => rfl) (fun c e => e ▸ Dev.adv_queue s.dev p len c),
    onlyPart_of p _ s _ (Dev.adv_only ..) (fun o h => Dev.adv_reg_other _ _ _ _ o h) (fun u h => Dev.adv_part_other _ _ _ _ u h)⟩

end

section
variable (d : Dev) (p : PartId) (x : Seq)

theorem Dev.pc_setPc (a : Nat) : (d.setPc p x a).pc p x = a / 8 % 2 ^ 45 * 8 := by
  unfold Dev.pc Dev.setPc
  rw [Dev.fld_setFld_same _ _ _ _ _ (by omega) (by omega)]

theorem Dev.pc_setSeqState (v : Nat) : (d.setSeqState p x v).pc p x = d.pc p x := by
  unfold Dev.pc Dev.setSeqState
  rw [Dev.fld_setFld_other _ _ _ _ _ _ _ _ (R.seqPc_ne_seqStatus p p x x)]

theorem Dev.pc_mod (x : Seq) : d.pc p x % 8 = 0 := by unfold Dev.pc; omega

theorem Dev.pc_lt : d.pc p x < 2 ^ 48 := by
  unfold Dev.pc Dev.fld
  have := bits_lt (d.reg (R.seqPc p x)) 47 3
  omega

end

/-! ## Entering the scoreboard -/

section
variable (d : Dev) (p : PartId) (q : Port) (cls : UCls) (r w : List Extent) (len : Nat)

theorem Dev.launch_only : (d.launch p q cls r w).2 = { d with parts := (d.launch p q cls r w).2.parts } := by
  unfold Dev.launch; ext1 <;> simp

theorem Dev.launch_reg (o : Nat) : (d.launch p q cls r w).2.reg o = d.reg o := by
  unfold Dev.launch; simp

theorem Dev.launch_part_other (u : PartId) (h : u ≠ p) : (d.launch p q cls r w).2.part u = d.part u := by
  exact Dev.part_setPart_other d p u _ h

theorem Dev.launch_port : (d.launch p q cls r w).2.port p q =
    { d.port p q with
      nextId := (d.port p q).nextId + 1
      flights := (d.port p q).flights ++ [⟨(d.port p q).nextId, cls, d.portPc p q, r, w⟩] } := by
  exact Dev.port_setPort_same ..

theorem Dev.launch_part : (d.launch p q cls r w).2.part p =
    (d.part p).setPort q ((d.launch p q cls r w).2.port p q) := by
  rw [Dev.launch_port]
  exact Dev.part_setPort_same ..

/-- What a sequencer's or the scalar port's advance reads of the device. -/
theorem Dev.adv_of_regs (e : Dev) (he : ∀ o, e.reg o = d.reg o) (hh : (e.port p q).haltReq = (d.port p q).haltReq) (o : Nat)
    (h : o ∈ issueRegs p q) : (e.adv p q len).reg o = (d.adv p q len).reg o := by
  have key : ∀ (a b : Dev) (x : Seq), (∀ o, a.reg o = b.reg o) → (a.port p x.port).haltReq = (b.port p x.port).haltReq →
      (a.seqAdv p x len).reg o = (b.seqAdv p x len).reg o := by
    intro a b x hab hp
    have hf : ∀ (D E : Dev) (o k hi lo v : Nat), (∀ o, D.reg o = E.reg o) → (D.setFld o hi lo v).reg k = (E.setFld o hi lo v).reg k := by
      intro D E o k hi lo v h
      by_cases hk : k = o
      · subst hk; simp only [Dev.setFld, Dev.reg_setReg_same, h]
      · rw [Dev.reg_setFld_other _ _ _ _ _ _ hk, Dev.reg_setFld_other _ _ _ _ _ _ hk, h]
    have h1 : ∀ o, (a.setPc p x (a.pc p x + 8 * len)).reg o = (b.setPc p x (b.pc p x + 8 * len)).reg o := by
      intro o
      unfold Dev.setPc Dev.pc Dev.fld
      rw [hab]
      exact hf _ _ _ _ _ _ _ hab
    have h2 : ∀ o, ((a.setPc p x (a.pc p x + 8 * len)).bumpWrap (R.seqStatus p x) 27 1 1).reg o
        = ((b.setPc p x (b.pc p x + 8 * len)).bumpWrap (R.seqStatus p x) 27 1 1).reg o := by
      intro o
      unfold Dev.bumpWrap Dev.fld
      rw [h1]
      exact hf _ _ _ _ _ _ _ h1
    unfold Dev.seqAdv Dev.seqResume
    simp only [Dev.bumpWrap_port, Dev.setPc_port, hp]
    split
    · unfold Dev.setSeqState
      refine hf _ _ _ _ _ _ _ ?_
      intro o
      simp only [Dev.modPort_reg]
      exact h2 o
    · exact hf _ _ _ _ _ _ _ h2
  cases q with
  | s c => simp [issueRegs, Port.seq?] at h
  | f => exact key _ _ .f (fun o => by rw [Dev.unpairPort_reg, Dev.unpairPort_reg, he]) (by
      show ((e.unpairPort p .f).port p .f).haltReq = ((d.unpairPort p .f).port p .f).haltReq
      rw [Dev.unpairPort_port, Dev.unpairPort_port]; exact hh)
  | b => exact key _ _ .b (fun o => by rw [Dev.unpairPort_reg, Dev.unpairPort_reg, he]) (by
      show ((e.unpairPort p .b).port p .b).haltReq = ((d.unpairPort p .b).port p .b).haltReq
      rw [Dev.unpairPort_port, Dev.unpairPort_port]; exact hh)
  | u => exact key _ _ .u (fun o => by rw [Dev.unpairPort_reg, Dev.unpairPort_reg, he]) (by
      show ((e.unpairPort p .u).port p .u).haltReq = ((d.unpairPort p .u).port p .u).haltReq
      rw [Dev.unpairPort_port, Dev.unpairPort_port]; exact hh)

/-- An instruction that enters the scoreboard and past which its port moves. -/
theorem Dev.launch_adv_spec (s : State) :
    let D := (s.dev.launch p q cls r w).2.adv p q len
    movedPast p q len s { s with dev := D } ∧ onlyPart (issueRegs p q) p s { s with dev := D }
      ∧ inFlight p q cls (r, w) s { s with dev := D } := by
  refine ⟨?_, ?_, ?_⟩
  · refine movedPast_of p q len s _ ?_ ?_
    · intro o h
      refine Dev.adv_of_regs s.dev p q len _ (Dev.launch_reg s.dev p q cls r w) ?_ o h
      rw [Dev.launch_port]
    · rintro c rfl
      have h := Dev.adv_queue (s.dev.launch p (.s c) cls r w).2 p len c
      rw [Dev.launch_part, Part.setPort_cores] at h
      exact h
  · refine onlyPart_of p _ s _ ?_ ?_ ?_
    · rw [Dev.adv_only, Dev.launch_only]
    · intro o h
      rw [Dev.adv_reg_other _ _ _ _ _ h, Dev.launch_reg]
    · intro u h
      rw [Dev.adv_part_other _ _ _ _ _ h, Dev.launch_part_other _ _ _ _ _ _ _ h]
  · show (Dev.port _ p q).flights = _
    rw [Dev.adv_port, Dev.launch_port]

end

/-! ## A held instruction that is presented again (R119, R400) -/

theorem portCmd_cases {opc : Nat} {p : PartId} {q : Port} {w w1 : W64} {i : Instr} (h : portCmd opc p q w w1 = some i) (s : State) :
    present i s = exec i s ∧ ∃ t, exec i s = .next t := by
  unfold portCmd at h
  split at h <;> first | (obtain rfl := Option.some.inj h; exact ⟨rfl, _, rfl⟩) | cases h

/-- What holds a sequencer is presented as `exec` runs it, and answers a next state. -/
theorem Dev.present_held {d : Dev} {p : PartId} {x : Seq} {i : Instr} (h : d.heldInstr p x = some i) (s : State) :
    present i s = exec i s ∧ ∃ t, exec i s = .next t := by
  unfold Dev.heldInstr at h
  cases hw : (d.port p x.port).heldWord with
  | none => rw [hw] at h; cases h
  | some w => rw [hw] at h; exact portCmd_cases h s

end Sys2Proof.Machine
end

