-- ==== Sys2Proof/Laws/Regs.lean ====
section
/-! SUPPORT. Commands that write registers: what an accepted or a refused one does, and what a run of field writes leaves. -/
namespace Sys2Proof.Machine

/-- A register command of an agent that reaches the register does what the register's rule says. -/
theorem onAgent_eq (a : Agent) (o : Nat) (f : Dev → WOut) (s : State) (h : s.dev.accepts a o) :
    onAgent a o f s = .next { s with dev := (f s.dev).1 } := by
  unfold onAgent onDev
  simp [h.1, h.2]

/-- One of an agent that does not reach it has no effect. -/
theorem onAgent_no (a : Agent) (o : Nat) (f : Dev → WOut) (s : State) (h : ¬s.dev.accepts a o) : onAgent a o f s = .next s := by
  unfold onAgent onDev
  have : (s.dev.running && s.dev.agentMay a true o) = false := by
    cases h1 : s.dev.running <;> cases h2 : s.dev.agentMay a true o <;> simp_all [Dev.accepts]
  simp [this]

/-- A run of writes to fields (high bit, low bit, value) of one register. -/
def Dev.setFlds (d : Dev) (o : Nat) (l : List (Nat × Nat × Nat)) : Dev := l.foldl (fun d f => d.setFld o f.1 f.2.1 f.2.2) d

/-- Fields inside a word, no two of which share a bit, with values that fit. -/
def fldsOk : List (Nat × Nat × Nat) → Bool
  | [] => true
  | f :: t => decide (f.2.1 ≤ f.1) && decide (f.1 < 64) && t.all (fun g => decide (f.1 < g.2.1) || decide (g.1 < f.2.1)) && fldsOk t

theorem Dev.bit_setFld_other (d : Dev) (o hi lo v i : Nat) (h : lo ≤ hi) (h64 : hi < 64) (hn : hi < i ∨ i < lo) :
    bit ((d.setFld o hi lo v).reg o) i = bit (d.reg o) i := by
  rw [Dev.setFld, Dev.reg_setReg_same]
  exact bit_putBits_other _ _ _ _ _ h h64 hn

theorem Dev.setFlds_only (d : Dev) (o : Nat) (l : List (Nat × Nat × Nat)) : d.setFlds o l = { d with regs := (d.setFlds o l).regs } := by
  induction l generalizing d with
  | nil => rfl
  | cons f t ih =>
    show (d.setFld o f.1 f.2.1 f.2.2).setFlds o t = _
    rw [ih]
    rfl

theorem Dev.reg_setFlds_other (d : Dev) (o k : Nat) (l : List (Nat × Nat × Nat)) (h : k ≠ o) : (d.setFlds o l).reg k = d.reg k := by
  induction l generalizing d with
  | nil => rfl
  | cons f t ih =>
    show ((d.setFld o f.1 f.2.1 f.2.2).setFlds o t).reg k = _
    rw [ih, Dev.reg_setFld_other _ _ _ _ _ _ h]

theorem Dev.bit_setFlds_other (d : Dev) (o i : Nat) (l : List (Nat × Nat × Nat)) (hl : fldsOk l = true)
    (h : ∀ f ∈ l, ¬(f.2.1 ≤ i ∧ i ≤ f.1)) : bit ((d.setFlds o l).reg o) i = bit (d.reg o) i := by
  induction l generalizing d with
  | nil => rfl
  | cons f t ih =>
    simp only [fldsOk, Bool.and_eq_true, decide_eq_true_eq] at hl
    have hf := h f (by simp)
    show bit (((d.setFld o f.1 f.2.1 f.2.2).setFlds o t).reg o) i = _
    rw [ih _ hl.2 (fun g hg => h g (by simp [hg])), Dev.bit_setFld_other _ _ _ _ _ _ hl.1.1.1 hl.1.1.2 (by omega)]

theorem Dev.fld_setFlds_other (d : Dev) (o h2 l2 : Nat) (l : List (Nat × Nat × Nat)) (hl : fldsOk l = true) (h : l2 ≤ h2)
    (hd : ∀ f ∈ l, f.1 < l2 ∨ h2 < f.2.1) : (d.setFlds o l).fld o h2 l2 = d.fld o h2 l2 := by
  induction l generalizing d with
  | nil => rfl
  | cons f t ih =>
    simp only [fldsOk, Bool.and_eq_true, decide_eq_true_eq] at hl
    have hf := hd f (by simp)
    show (((d.setFld o f.1 f.2.1 f.2.2).setFlds o t).fld o h2 l2) = _
    rw [ih _ hl.2 (fun g hg => hd g (by simp [hg])), Dev.fld_setFld_field _ _ _ _ _ _ _ hl.1.1.1 hl.1.1.2 h (by omega)]

theorem Dev.fld_setFlds (d : Dev) (o : Nat) (l : List (Nat × Nat × Nat)) (hl : fldsOk l = true) (f : Nat × Nat × Nat) (hf : f ∈ l) :
    (d.setFlds o l).fld o f.1 f.2.1 = f.2.2 % 2 ^ (f.1 + 1 - f.2.1) := by
  induction l generalizing d with
  | nil => simp at hf
  | cons g t ih =>
    have hl' := hl
    simp only [fldsOk, Bool.and_eq_true, decide_eq_true_eq, List.all_eq_true, Bool.or_eq_true] at hl
    show (((d.setFld o g.1 g.2.1 g.2.2).setFlds o t).fld o f.1 f.2.1) = _
    rcases List.mem_cons.mp hf with rfl | hf
    · rw [Dev.fld_setFlds_other _ _ _ _ _ hl.2 hl.1.1.1, Dev.fld_setFld_same _ _ _ _ _ hl.1.1.1 hl.1.1.2]
      intro g hg
      have := hl.1.2 g hg
      omega
    · exact ih _ hl.2 hf

/-- A run of writes to fields of one register sets those fields and nothing else. -/
theorem setsFields_setFlds (o : Nat) (l : List (Nat × Nat × Nat)) (s : State) (hl : fldsOk l = true)
    (hv : ∀ f ∈ l, f.2.2 < 2 ^ (f.1 + 1 - f.2.1)) : setsFields o l s { s with dev := s.dev.setFlds o l } := by
  refine ⟨onlyRegs_of _ s _ (Dev.setFlds_only ..) ?_, ?_, ?_⟩
  · intro k hk
    exact Dev.reg_setFlds_other _ _ _ _ (by simpa using hk)
  · intro f hf
    show (s.dev.setFlds o l).fld o f.1 f.2.1 = f.2.2
    rw [Dev.fld_setFlds _ _ _ hl f hf, Nat.mod_eq_of_lt (hv f hf)]
  · intro i _ h
    exact Dev.bit_setFlds_other _ _ _ _ hl h

theorem Dev.setFlag_eq (d : Dev) (o i : Nat) (b : Bool) : d.setFlag o i b = d.setFld o i i (if b then 1 else 0) := rfl

end Sys2Proof.Machine
end

