-- ==== Sys2Proof/WellFormed.lean ====
section
/-! DEFINITION. What a command's operands must be before its own rule is read: the bounds that the operand's type does not
state. A command that breaks them is no event of this module; the meanings below are total and do not rely on the check. -/
namespace Sys2Proof

/-- A Paldal payload fits the largest frame (R320). -/
def Req.wellFormed (r : Req) : Bool := decide (r.payload.length ≤ 9082)

/-- A frame is at most the largest the MAC can count (R300). -/
def Frame.wellFormed (f : Frame) : Bool :=
  decide (f.payload.length + 8 ≤ f.length) && decide (f.pauseTimes.length ≤ 8)

/-- An acknowledgement carries at most 8 SACK blocks and 16 credit records (R326). -/
def AckMsg.wellFormed (m : AckMsg) : Bool :=
  decide (m.sacks.length ≤ 8) && decide (m.credits.length ≤ 16)

/-- The operands of a command are within what the rules state for its event. -/
def Instr.wellFormed : Instr → Bool
  | .collSeg r | .kvBlock r | .enqueue r | .doorbell r | .mboxWrite r | .mboxRead r | .winRead r | .winWrite r
  | .regRead r | .regWrite r | .journalRead r | .attestReport r | .attestOwnerResponse r | .attestClaim r
  | .attestRotation r | .attestIdentityCert r | .faultReport r | .close r => r.wellFormed
  | .ack m => m.wellFormed
  | .ethRxFrame f => f.wellFormed
  | .pfcReceive _ _ qs => decide (qs.length ≤ 8)
  | .supplyDroop _ n => decide (0 < n)
  | _ => true

end Sys2Proof
end

