-- ==== Sys2Proof/Tests/Slice0.lean ====
section
/-! SUPPORT. Tests: ill-formed commands are refused, the encodings of the specification's worked example, a witness for the hypotheses of each
statement, and single commands on small states. Expected values come from the rules that the names and comments cite. -/
namespace Sys2Proof.Machine

/-- A change of port F of partition 0. -/
def State.onPort (s : State) (f : PortSt → PortSt) : State := s.onDev (fun d => d.modPort 0 .f f)

/-- A change of partition 0. -/
def State.onPart (s : State) (f : Part → Part) : State := s.onDev (fun d => d.modPart 0 f)

end Sys2Proof.Machine

namespace Sys2Proof.Tests
open Sys2Proof.Machine
set_option Elab.async false

/-! ## Helpers -/

/-- The state after a command. -/
def nx (i : Instr) (s : State) : State :=
  match exec i s with
  | .next t => t
  | _ => State.reset

/-- A running module with some registers. -/
def up (l : List (Nat × W64)) : State :=
  { State.reset with
    dev := { Dev.reset with regs := l, boot := { Boot.reset with ph := .up, standby := true, pwrEn := true, pwrGood := true } } }

/-- Tenant 0 holds partitions 0 and 1, each with 32 GiB of LPDDR5X. -/
def tenant : List (Nat × W64) :=
  [ (R.tenCfg 0, BitVec.ofNat 64 (2 ^ 63 + 3 * 2 ^ 32 + 16 * 2 ^ 7)), (R.memPin 0, 32), (R.memPin 1, 32) ]

/-- Sequencer F of partition 0 runs at the first word of its bonded SRAM slice. -/
def run (l : List (Nat × W64)) : State :=
  up (tenant ++ [(R.seqPc 0 .f, BitVec.ofNat 64 (sramBase 0)), (R.seqStatus 0 .f, BitVec.ofNat 64 (2 ^ 52))] ++ l)

/-- A descriptor word from its fields (low bit, value). -/
def dword (l : List (Nat × Nat)) : BitVec 512 := BitVec.ofNat 512 ((l.map (fun e => e.2 * 2 ^ e.1)).foldl (· + ·) 0)

/-- A dense FP32 vector of `n` elements at `a`, without recipe. -/
def vec (a n : Nat) : BitVec 512 := dword [(0, a), (128, n), (256, 1), (404, 1), (407, 1)]

/-- A dense matrix of format `f` with rows of `c` elements, without recipe. -/
def mat (f a r c : Nat) : BitVec 512 := dword [(0, a), (128, c), (160, r), (256, 1), (288, c), (420, 1), (412, f), (404, 1), (407, 1)]

/-! ## Streams -/

theorem wit_stepRuns : ({ State.reset with pending := [Instr.fence 0 0 ⟨false, 0, 0, 0, 0, 0, 0⟩] } : State).pending
    = Instr.fence 0 0 ⟨false, 0, 0, 0, 0, 0, 0⟩ :: [] := rfl

def bare : CWord := ⟨false, 0, 0, 0, 0, 0⟩

theorem wit_stream : (run []).dev.seqReady 0 .f = true ∧ pcOk 0 ((run []).dev.pc 0 .f) = true
    ∧ (((run []).dev.port 0 .f).past (Seq.port .f)).loops.length < 4 ∧ (∀ w ∈ [(⟨false, 0, 0, 0, 5, 0⟩ : CWord), ⟨false, 64, 0, 15, 0, 0⟩],
      w.x = false ∧ bits w.mod 5 0 = 0 ∧ w.rsv = 0 ∧ (if bit w.mod 6 then w.imm = 0 else w.pw = 0)) := by decide +kernel

/-- R138: SEQx_PC holds the address 8 bytes beyond the HALT, the stream is halted. -/
theorem test_halt : (nx (.halt 0 .f bare) (run [])).dev.pc 0 .f = sramBase 0 + 8 ∧ (nx (.halt 0 .f bare) (run [])).dev.seqState 0 .f = 4 := by decide +kernel

/-- R123: BR by -1 word from the second word. -/
theorem test_br : (nx (.br 0 .f ⟨false, 0, 0, 0, 0xFFFFFFFF, 0⟩) (nx (.nop 0 .f bare) (run []))).dev.pc 0 .f = sramBase 0 := by decide +kernel

def looped (n : Option Nat) : State := (run []).onPort (fun t => { t with loops := [⟨sramBase 0 - 8, n⟩] })

theorem wit_endl : (∀ n ∈ [none, some 1, some 2], (((looped n).dev.port 0 .f).past (Seq.port .f)).loops = ⟨sramBase 0 - 8, n⟩ :: []
    ∧ (looped n).dev.seqReady 0 .f = true) ∧ sramBase 0 - 8 < 2 ^ 48 ∧ (sramBase 0 - 8) % 8 = 0 := by decide +kernel

/-- R123: ENDL goes back to the body while a round is left, and else falls out. -/
theorem test_endl : (nx (.endl 0 .f bare) (looped (some 2))).dev.pc 0 .f = sramBase 0 - 8
    ∧ (nx (.endl 0 .f bare) (looped (some 1))).dev.pc 0 .f = sramBase 0 + 8 := by decide +kernel

/-- R136: a fifth open loop is refused. -/
theorem test_loop_nesting : (nx (.loop 0 .f bare) ((run []).onPort (fun t => { t with loops := List.replicate 4 ⟨sramBase 0, none⟩ }))).dev.seqState 0 .f = 5 := by decide +kernel

def cw (i : BitVec 4) (v : W64) : CWord := ⟨true, 0, 0, i, 0, v⟩

/-- A scalar core's port queue with one instruction at its head, and its turn. -/
def issued (w : W64) (u : Option W64) : State := (run []).onPart (fun x => { x with cores := x.cores.set 2 { x.cores[2] with queue := [(w, u)] } })

theorem wit_portState : (run []).dev.takes 0 .f (encC 0x05 (cw 3 7)) (some 7) = true ∧ (run []).dev.takes 0 .f (encC 0x06 (cw 0 7)) (some 7) = true
    ∧ (issued (encC 0x05 (cw 3 7)) (some 7)).dev.takes 0 (.s 2) (encC 0x05 (cw 3 7)) (some 7) = true
    ∧ (issued (encC 0x07 (cw 0 7)) (some 7)).dev.takes 0 (.s 2) (encC 0x07 (cw 0 7)) (some 7) = true := by decide +kernel

theorem test_setpw : (((nx (.setpw 0 .f (cw 3 7)) (run [])).dev.port 0 .f).pwAt 3) = 7 := by decide +kernel
theorem test_setstep : ((nx (.setstep 0 .f (cw 0 7)) (run [])).dev.port 0 .f).step = 7 := by decide +kernel
theorem test_setepoch : ((nx (.setepoch 0 (.s 2) (cw 0 0x300000004)) (issued (encC 0x07 (cw 0 0x300000004)) (some 0x300000004))).dev.port 0 (.s 2)).armEp = 3 := by decide +kernel

def dloadW : TWord := ⟨true, 0, 1, 0, 0, 0, 2, BitVec.ofNat 64 (sramBase 0 + 0x100)⟩

theorem wit_dload : let s := run []
    let a := sramBase 0 + 0x100
    s.dev.takes 0 .f (encT 0x08 dloadW) (some dloadW.w1) = true ∧ s.dev.reachMem 0 Reach.move false ((a : Int), (a : Int) + 64 * 2) = none
      ∧ s.dev.held 0 .f (s.dev.ownExts 0 [⟨a, a + 64 * 2⟩]) [] = false ∧ s.dev.chanBusy a (a + 64 * 2) = false ∧ s.dev.bad a (64 * 2) = false ∧ dloadW.imm.toNat = 2 ∧ dloadW.w1.toNat = a ∧ a < 2 ^ 48 ∧ a % 64 = 0 := by decide +kernel

theorem test_dload : Tab.get (fun _ => 0) ((nx (.dload 0 .f dloadW) ((run []).onDev (fun d => d.wr (sramBase 0 + 0x140) [9]))).dev.port 0 .f).desc 2 = 9 := by decide +kernel

/-- An earlier move of the port still writes the descriptors' place. -/
def dloadHeld : State :=
  (run []).onDev (fun d => d.modPort 0 .f (fun t => { t with flights := [⟨9, .move, 0, [], [⟨sramBase 0 + 0x100, sramBase 0 + 0x180⟩]⟩] }))

/-- DLOAD of the first descriptors in channel 0. -/
def dloadC : TWord := { dloadW with w1 := BitVec.ofNat 64 (dramBase 0) }

/-- R134, R119, R165: a DLOAD of such a place, or of a channel that retrains, waits, in STATE 3 or at the head of its core's queue. -/
theorem wit_dloadHeld : let s := dloadHeld
    let u := (issued (encT 0x08 dloadC) (some dloadC.w1)).onPart (fun x => { x with trainQ := [0] })
    let a := sramBase 0 + 0x100
    s.dev.takes 0 .f (encT 0x08 dloadW) (some dloadW.w1) = true ∧ s.dev.held 0 .f (s.dev.ownExts 0 [⟨a, a + 64 * 2⟩]) [] = true
      ∧ u.dev.takes 0 (.s 2) (encT 0x08 dloadC) (some dloadC.w1) = true ∧ u.dev.chanBusy (dramBase 0) (dramBase 0 + 64 * 2) = true
      ∧ (nx (.dload 0 .f dloadW) s).dev.seqState 0 .f = 3 ∧ nx (.dload 0 (.s 2) dloadC) u = u := by decide +kernel

/-- R26, R400: the watchdog of a held stream stops it while the hold lasts and lets it go on once it has ended; R165: a channel that retrains lets no
watchdog expire. -/
theorem wit_watchdogHeld : let s := nx (.dload 0 .f dloadW) dloadHeld
    let free := s.onPort (fun t => { t with flights := [] })
    let w := dloadC
    let c := (run []).onPart (fun x => { x with trainQ := [0] })
    let h := nx (.dload 0 .f w) c
    s.dev.seqState 0 .f = 3 ∧ s.dev.fenced 0 = false ∧ bit (s.dev.reg (R.seqStatus 0 .f)) 0 = false
      ∧ s.dev.heldInstr 0 .f = some (.dload 0 .f dloadW) ∧ (nx (.seqWatchdogExpire 0 .f) s).dev.seqState 0 .f = 5
      ∧ free.dev.heldInstr 0 .f = some (.dload 0 .f dloadW) ∧ (nx (.seqWatchdogExpire 0 .f) free).dev.seqState 0 .f = 1
      ∧ c.dev.chanBusy (dramBase 0) (dramBase 0 + 64 * 2) = true ∧ c.dev.reachMem 0 Reach.move false ((dramBase 0 : Int), (dramBase 0 : Int) + 64 * 2) = none
      ∧ h.dev.seqState 0 .f = 3 ∧ h.dev.heldInstr 0 .f = some (.dload 0 .f w) ∧ (nx (.dload 0 .f w) h).dev.seqState 0 .f = 3
      ∧ (nx (.dload 0 .f w) { h with dev := h.dev.allTrained }).dev.seqState 0 .f = 1
      ∧ (nx (.seqWatchdogExpire 0 .f) h).dev.seqState 0 .f = 3 := by decide +kernel

def dstepW : TWord := ⟨false, 0, 1, 1, 4, 0, 0x0102, 0⟩

theorem wit_dstep : (run []).dev.takes 0 .f (encT 0x09 dstepW) none = true ∧ dstepW.d ≠ 0 ∧ dstepW.d.toNat + dstepW.s1.toNat ≤ 255 := by decide +kernel

/-- R128: base and scale base move by the halves of the parameter word, a scale base of 0 stays, LAYER and TENSOR_ID by IMM16's. -/
theorem test_dstep :
    let s := (run []).onPort (fun t => { t with desc := [(1, vec 0x1000 4), (2, dword [(0, 0x1000), (64, 0x2000), (422, 1023)])], pw := [(4, 0xFFFFFFFF00000010)] })
    let u := (nx (.dstep 0 .f dstepW) s).dev.port 0 .f
    (descOf (Tab.get (fun _ => 0) u.desc 1)).base = 0xFFF ∧ (descOf (Tab.get (fun _ => 0) u.desc 1)).scaleBase = 0
      ∧ (descOf (Tab.get (fun _ => 0) u.desc 2)).scaleBase = 0x2010 ∧ (descOf (Tab.get (fun _ => 0) u.desc 2)).layer = 0
      ∧ (descOf (Tab.get (fun _ => 0) u.desc 2)).tensorId = 2 := by decide +kernel

def sw (ctr : BitVec 9) (v : BitVec 32) : SWord := ⟨false, 0, ctr, 0, v, 0⟩

theorem wit_wait : let s := run [(R.syncCnt 0 5, 3)]
    (0 ≤ (s.dev.ctr 0 5 - (3 : BitVec 32)).toInt) ∧ ((s.dev.ctr 0 5 - (4 : BitVec 32)).toInt < 0) ∧ ((s.dev.ctr 0 5 - (0x80000003 : BitVec 32)).toInt < 0)
      ∧ bits (sw 5 3).mod 3 0 = 0 ∧ bits (0x00020001 : BitVec 32) 15 4 = 0 ∧ s.dev.seqReady 0 .f = true ∧ pcOk 0 (s.dev.pc 0 .f) = true := by decide +kernel

/-- R129: reached at a difference of 0, not at -1 nor at -2^31. -/
theorem test_wait : let s := run [(R.syncCnt 0 5, 3)]
    (nx (.wait 0 .f (sw 5 3)) s).dev.seqState 0 .f = 1 ∧ (nx (.wait 0 .f (sw 5 4)) s).dev.seqState 0 .f = 2
      ∧ (nx (.wait 0 .f (sw 5 0x80000003)) s).dev.seqState 0 .f = 2 := by decide +kernel

theorem wit_waitPass : let s := (nx (.wait 0 .f (sw 5 4)) (run [(R.syncCnt 0 5, 3)])).onDev (fun d => d.setCtr 0 5 4)
    (s.dev.port 0 .f).waiting = some ⟨5, 4, false⟩ ∧ s.dev.fenced 0 = false ∧ s.dev.seqState 0 .f = 2 ∧ 0 ≤ (s.dev.ctr 0 5 - (4 : BitVec 32)).toInt
      ∧ (nx (.waitPass 0 .f) s).dev.seqState 0 .f = 1 := by decide +kernel

/-- R130: an IND wait that passes advances its parameter word. -/
theorem test_wait_ind : let s := (run [(R.syncCnt 0 5, 3)]).onPort (fun t => { t with pw := [(1, 3)] })
    ((nx (.wait 0 .f ⟨false, 16, 5, 0, 0x00020001, 0⟩) s).dev.port 0 .f).pwAt 1 = 5 := by decide +kernel

def posting : State := (run []).onPort (fun t => { t with posts := [⟨5, 2, none, [], 0⟩] })

theorem wit_post : (run []).dev.takes 0 .f (encS 0x11 (sw 5 2)) (sw 5 2).snd = true ∧ (((run []).dev.port 0 .f).past .f).posts = []
    ∧ (run []).dev.takes 0 .f (encS 0x11 ⟨true, 0, 5, 0, 2, 0⟩) (SWord.snd ⟨true, 0, 5, 0, 2, 0⟩) = true ∧ fenceIds 0 ((run []).dev.port 0 .f).flights = [] ∧ (posting.dev.port 0 .f).posts ≠ [] ∧ (posting.dev.port 0 .f).posts.length < 8
    ∧ posting.dev.takes 0 .f (encS 0x11 (sw 6 2)) none = true := by decide +kernel

/-- R131: an unfenced post does not overtake an earlier one. -/
theorem test_post : (nx (.post 0 .f (sw 5 2)) (run [])).dev.ctr 0 5 = 2 ∧ (nx (.post 0 .f (sw 6 2)) posting).dev.ctr 0 6 = 0 := by decide +kernel

theorem wit_postRemote : let w : SWord := ⟨true, 0, 5, 0, 2, 17⟩
    let x : PendPost := ⟨5, 2, some 1, [], 0⟩
    let s := (run []).onPort (fun t => { t with posts := [x] })
    (s.dev.port 0 .f).posts = x :: [] ∧ (nx (.postTakesEffect 0 .f) s).dev.mesh.length = 1
      ∧ (run []).dev.sameTenant 0 1 = true ∧ (run []).dev.takes 0 .f (encS 0x11 w) (some 17) = true ∧ bits w.w1 63 5 = 0 ∧ bit w.w1 4 = true
      ∧ (nx (.post 0 .f w) (run [])).dev.mesh.length = 1 := by decide +kernel

/-- R131: a REMOTE post waits behind an earlier one. -/
theorem wit_postRemoteWaits : let w : SWord := ⟨true, 0, 5, 0, 2, 17⟩
    posting.dev.takes 0 .f (encS 0x11 w) (some 17) = true ∧ posting.dev.sameTenant 0 1 = true ∧ bits w.w1 63 5 = 0 ∧ bit w.w1 4 = true
      ∧ ((posting.dev.port 0 .f).past (Seq.port .f)).posts ≠ [] ∧ ((posting.dev.port 0 .f).past (Seq.port .f)).posts.length < 8
      ∧ ((nx (.post 0 .f w) posting).dev.port 0 .f).posts.map (·.remote) = [none, some 1] ∧ (nx (.post 0 .f w) posting).dev.mesh = [] := by decide +kernel

theorem wit_postTakesEffect : (posting.dev.port 0 .f).posts = ⟨5, 2, none, [], 0⟩ :: [] ∧ (nx (.postTakesEffect 0 .f) posting).dev.ctr 0 5 = 2 := by decide +kernel

theorem wit_remotePost : let s := (run []).onDev (fun d => { d with mesh := [⟨1, .f, 0, 0, 5, 2, 0⟩] })
    s.dev.meshNext 0 5 2 = some ⟨1, .f, 0, 0, 5, 2, 0⟩ ∧ s.dev.fenced 0 = false ∧ s.dev.sameTenant 1 0 = true
      ∧ (nx (.remotePostArrive 0 5 2) s).dev.ctr 0 5 = 2 := by decide +kernel

theorem wit_cset : (run []).dev.takes 0 .f (encS 0x12 (sw 5 9)) none = true ∧ (nx (.cset 0 .f (sw 5 9)) (run [])).dev.ctr 0 5 = 9 := by decide +kernel

/-! ## Units -/

/-- Bonded SRAM of partition 0 at an offset. -/
def at0 (o : Nat) : Nat := sramBase 0 + o

/-- Descriptors of port F: vectors of 4 in entries 1 to 4, an image in the operand cache in 5, vectors of 1 and 2 in 6 and 8, a 32 by 32
FP32 matrix in 7, two INT32 offsets in 9, BF16 matrices of two rows of four in 10 and 11. -/
def descs : Tab (BitVec 512) :=
  [ (1, vec (at0 0x1000) 4), (2, vec (at0 0x2000) 4), (3, vec (at0 0x3000) 4), (4, vec (at0 0x4000) 4), (5, vec (cacheBase 0) 4), (6, vec (at0 0x5000) 1),
    (7, mat 0 (at0 0x6000) 32 32), (8, vec (at0 0x8000) 2), (9, vec (at0 0x9000) 2 + dword [(412, 0xD)]), (10, mat 1 (at0 0xA000) 2 4),
    (11, mat 1 (at0 0xB000) 2 4) ]

def loaded : State := (run []).onPort (fun t => { t with desc := descs })

def tw (m : BitVec 7) (d s1 s2 s3 : BitVec 8) (imm : BitVec 16) : TWord := ⟨false, m, d, s1, s2, s3, imm, 0⟩

/-- MMUL of entries 10 and 11 on array 0. -/
def mmulW : TWord := tw 0 0 10 11 0 7

theorem wit_matrix : let s := loaded
    let ad := descOf (Tab.get (fun _ => 0) descs 10)
    let bd := descOf (Tab.get (fun _ => 0) descs 11)
    (s.dev.port 0 .f).descAt 10 = some ad ∧ (s.dev.port 0 .f).descAt 11 = some bd ∧ s.dev.checkSrc 0 Reach.own ad = none
      ∧ s.dev.checkSrc 0 Reach.own bd = none ∧ matShape ad bd false false = none ∧ (s.dev.arr 0 0).full .f = false
      ∧ s.dev.held 0 .f (ad.exts ++ bd.exts) [] = false ∧ s.dev.takes 0 .f (encT 0x20 mmulW) none = true
      ∧ s.dev.takes 0 .f (encT 0x21 mmulW) none = true ∧ opO ad false ≤ 32 ∧ opO bd false ≤ 32 ∧ (s.dev.arr 0 0).cur = none ∧ (s.dev.arr 0 0).ins = []
      ∧ (s.dev.arr 0 0).draining 0 = false ∧ s.dev.held 0 .f [] [] = false ∧ s.dev.takes 0 .f (encT 0x21 (tw 8 0 0 0 0 0)) none = true := by decide +kernel

/-- R65: an MMULH with DISCARD empties its context. -/
theorem test_discard : let s := loaded.onPart (fun x => { x with a0 := { x.a0 with ctx0 := { Ctx.empty with count := 3 } } })
    (s.dev.arr 0 0).ctx 0 ≠ Ctx.empty ∧ ((nx (.mmulh 0 .f (tw 8 0 0 0 0 0)) s).dev.arr 0 0).ctx 0 = Ctx.empty := by decide +kernel

/-- A top-k MMUL at its largest list, and the second array. -/
theorem wit_matrix_topk : let w : TWord := ⟨true, 4 + 64, 0, 10, 11, 0, 7, BitVec.ofNat 64 (64 + 2 ^ 32 * 0xFFFFFFFE)⟩
    let bd := descOf (Tab.get (fun _ => 0) descs 11)
    bits w.w1 6 0 = 64 ∧ bit w.mod 2 = true ∧ bit w.mod 6 = true ∧ bits w.w1 31 7 = 0 ∧ bits w.w1 63 32 + opO bd false - 1 ≤ 0xFFFFFFFF
      ∧ loaded.dev.takes 0 .f (encT 0x20 w) (some w.w1) = true ∧ (loaded.dev.arr 0 1).full .f = false := by decide +kernel

/-- R69, R74: a drain token behind the product of zeros by zeros, and after the drain a buffered tile with its status word. -/
theorem test_mmul : let t := nx (.mmul 0 .f mmulW) loaded
    (t.dev.arr 0 0).toks.length = 1 ∧ ((nx (.drain 0 0) t).dev.part 0).in0.status.isSome = true := by decide +kernel

/-- A word for each vector instruction in the order of `vectorRows`. -/
def vecWords : List TWord :=
  List.replicate 6 (tw 0 1 2 3 0 0) ++ [tw 0 1 2 3 0 0, tw 0 1 2 3 4 0, tw 0 1 2 3 0 0, tw 0 1 2 0 0 0, tw 0 1 2 3 0 0, tw 0 1 2 0 0 0, tw 0 1 2 3 0 0,
    tw 0 0 5 0 0 0, tw 0 6 2 0 0 0, tw 0 1 2 0 0 0, tw 0 1 2 3 0 2, ⟨true, 0, 7, 0, 0, 0, 0, 0⟩, tw 0 1 2 8 6 0, tw 0 1 2 8 6 0, tw 0 1 2 3 8 0,
    tw 0 1 2 9 0 0, tw 0 1 2 9 0 0]

def vecWord (k : Nat) : TWord := if k = 3 then tw 0 1 2 3 4 0 else vecWords.getD k (tw 0 0 0 0 0 0)

def vecRow (k : Nat) : Instr × VForm := (vectorRows 0 .f (vecWord k)).getD k (.vadd 0 .f (vecWord k), binForm 0x30 (vecWord k))

def vecOk (k : Nat) : Bool :=
  let w := vecWord k
  let f := (vecRow k).2
  loaded.dev.takes 0 .f (encT f.opc.toNat w) w.snd && f.wordOk && (loaded.dev.vecRefuse 0 w f (loaded.dev.port 0 .f)).isNone
    && !(loaded.dev.part 0).vecFull .f && !loaded.dev.held 0 .f (f.ext (captureArgs (loaded.dev.port 0 .f) w)).1 (f.ext (captureArgs (loaded.dev.port 0 .f) w)).2

/-- Every vector instruction has a word and operands that enter the engine. -/
theorem wit_vector : (List.range 23).all vecOk = true ∧ (vectorRows 0 .f (vecWord 0)).length = 23 := by decide +kernel

/-- A hold of the second kind whose context waits to be drained. -/
def drained : State := (run []).onPart (fun x => { x with a0 := { x.a0 with toks := [⟨0, .f, 0, 7, 2, 2, none, 0, false, false, true⟩] } })

theorem wit_drain : (drained.dev.arr 0 0).cur = none ∧ (drained.dev.arr 0 0).ins = []
    ∧ (drained.dev.arr 0 0).toks = ⟨0, .f, 0, 7, 2, 2, none, 0, false, false, true⟩ :: [] ∧ ((drained.dev.part 0).inp 0).free = true
    ∧ (drained.dev.arr 0 0).emit = [] ∧ drained.dev.fenced 0 = false ∧ ((nx (.drain 0 0) drained).dev.part 0).in0.status.isSome = true := by decide +kernel

def matIns (p : Nat) : MatIns :=
  ⟨0, .f, 0, false, 0, false, false, descOf (mat 1 (at0 0xA000) 2 4), descOf (mat 1 (at0 0xB000) 2 4), false, false, 0, none, 0, 0, 0, p⟩

def pairOf (i : Nat) (busy : List DrainTok) : State :=
  (run []).onPart (fun x => { x with a0 := { x.a0 with cur := some (matIns i) }, a1 := { x.a1 with cur := some (matIns 2), toks := busy } })

def paired : State := pairOf 2 []

/-- Both contexts of array 1 wait to be drained. -/
def pairWaits : State := pairOf 2 [⟨0, .f, 0, 7, 2, 2, none, 0, false, false, false⟩, ⟨0, .f, 1, 7, 2, 2, none, 0, false, false, true⟩]

theorem wit_pair : (paired.dev.arr 0 0).cur = some (matIns 2) ∧ (paired.dev.arr 0 1).cur = some (matIns 2) ∧ (matIns 2).paired = 2
    ∧ paired.dev.pairState 0 0 = .ready ∧ paired.dev.pairState 0 1 = .ready ∧ pairWaits.dev.pairState 0 1 = .wait ∧ (pairWaits.dev.arr 0 0).cur = some (matIns 2)
    ∧ (pairWaits.dev.arr 0 1).cur = some (matIns 2) ∧ ((nx (.pairStart 0) paired).dev.arr 0 0).cur = none := by decide +kernel

/-- A word for each move instruction in the order of `moveRows`; the peer of the last two is rank 1 of group 5. -/
def moveWord (k : Nat) : TWord :=
  [tw 0 1 2 0 0 0, ⟨true, 0, 1, 0, 0, 0, 0, 7⟩, tw 0 8 12 13 0 0, tw 0 12 8 13 0 0, ⟨true, 0, 1, 2, 0, 0, 0, BitVec.ofNat 64 (5 * 2 ^ 52 + 2 ^ 36)⟩,
    ⟨true, 0, 1, 2, 0, 0, 0, BitVec.ofNat 64 (5 * 2 ^ 52 + 2 ^ 36)⟩].getD k (tw 0 0 0 0 0 0)

/-- Group 5 of tenant 0: this module's partition 0 and a partition of another module; ring, one segment size. -/
def rankOf (ip : Nat) (p : PartId) (m : BitVec 32) (self : Bool) : Rank := ⟨BitVec.ofNat 128 ip, 2, p, self, false, 0, 51430, m⟩
def group : Group :=
  { tenant := 0, ranks := [rankOf 1 0 0 true, rankOf 2 0 1 false], own := 0, topo := 0, degree := 1, window := 16, segElems := 1024, lif := 0,
    tclass := 0, order := [0, 1], buddies := [none, none], relays := [[], []], wdog := 24, entry := [] }

/-- Entries 12 and 13 hold a matrix of three rows of two and the row numbers 0; interface 0 belongs to tenant 0. -/
def moving : State :=
  ((run [(R.tenLif 0, BitVec.ofNat 64 (2 ^ 56))]).onPort (fun t => { t with desc := descs ++ [(12, mat 0 (at0 0xC000) 3 2),
    (13, vec (at0 0xD000) 1 + dword [(412, 0xD)])] })).onDev (fun d => { d with coll := { d.coll with groups := [(5, group)] } })

def moveRow (k : Nat) : Instr × MForm := (moveRows 0 .f (moveWord k)).getD k (.move 0 .f (moveWord k), moveForm 0 (moveWord k))

def moveOk (k : Nat) : Bool :=
  let w := moveWord k
  let f := (moveRow k).2
  let ps := moving.dev.port 0 .f
  let e := moving.dev.tracked 0 (f.ext (ps.descAt w.d) (ps.descAt w.s1) (ps.descAt w.s2))
  moving.dev.takes 0 .f (encT f.opc w) w.snd && f.wordOk && (f.shape moving.dev (ps.descAt w.d) (ps.descAt w.s1) (ps.descAt w.s2)).isNone
    && !(moving.dev.part 0).moveFull .f && !moving.dev.held 0 .f e.1 e.2

theorem wit_move : (List.range 6).all moveOk = true ∧ (moveRows 0 .f (moveWord 0)).length = 6 := by decide +kernel

/-- R475: MFILL stores the value in every element. -/
theorem test_mfill : (nx (moveRow 1).1 moving).dev.rdN (at0 0x100C) 4 = 7 := by decide +kernel

/-! ## Collectives -/

/-- Working-shard entries 0 and 1 of partition 0 cover a page of bonded SRAM each; entries 20 to 27: TAGCHK vectors of 64 and 32 elements
there, a CRS destination of 32 elements, a vector of 64, two INT32 values per rank twice, a ring map and the tensor it moves, five maps and
a permutation table. -/
def collDescs : Tab (BitVec 512) :=
  [ (20, dword [(0, at0 0x10000), (128, 64), (256, 1), (405, 1), (407, 1), (412, 1)]), (21, dword [(0, at0 0x11000), (128, 32), (256, 1), (405, 1), (407, 1), (412, 1)]),
    (22, dword [(0, at0 0x12000), (128, 32), (256, 1), (407, 1), (408, 5), (412, 1)]), (23, vec (at0 0x13000) 64), (24, vec (at0 0x14000) 64),
    (25, vec (at0 0x15000) 2 + dword [(412, 0xD)]), (26, vec (at0 0x15100) 2 + dword [(412, 0xD)]), (27, vec (at0 0x16000) 64 + dword [(412, 0xB)]),
    (28, vec (at0 0x17000) 128 + dword [(412, 0xB)]), (29, vec (at0 0x18000) 320 + dword [(412, 0xB)]), (30, vec (at0 0x19000) 8 + dword [(412, 0xB)]) ]

/-- A ring map of two slots of 128 bytes. -/
def ringImage : List Byte := leBytes 8 (at0 0x1A000) ++ leBytes 8 (at0 0x1B000) ++ leBytes 16 0 ++ leBytes 8 128 ++ leBytes 2 5 ++ [0, 2]

/-- Groups 5 (ring) and 6 (mesh) of tenant 0. -/
def collDev : State :=
  ((run [(R.tenLif 0, BitVec.ofNat 64 (2 ^ 56)), (R.tenLim 0, BitVec.ofNat 64 (2 ^ 44 + 2 ^ 31)), (R.wsbBase 0 0, BitVec.ofNat 64 (at0 0x10000)), (R.wsbCtrl 0 0, BitVec.ofNat 64 (2 ^ 32)), (R.wsbBase 0 1, BitVec.ofNat 64 (at0 0x11000)), (R.wsbCtrl 0 1, BitVec.ofNat 64 (2 ^ 32))]).onPort (fun t =>
    { t with desc := collDescs, layEp := 0 })).onDev (fun d =>
      { (d.wr (at0 0x16000) ringImage) with coll := { d.coll with groups := [(5, group), (6, { group with topo := 3 })] } })

def collWord' (d s1 s2 : BitVec 8) (g aux param : Nat) : TWord := ⟨true, 0, d, s1, s2, 0, 0, BitVec.ofNat 64 (g * 2 ^ 52 + 3 * 2 ^ 43 + aux * 2 ^ 24 + param)⟩

def collWordOf (k : Nat) : TWord :=
  [collWord' 22 23 0 5 0 0, collWord' 20 21 0 5 0 0, collWord' 24 23 0 5 0 0, collWord' 24 23 25 5 26 0, collWord' 24 23 0 5 0 0, collWord' 29 29 30 6 0 1,
    collWord' 27 28 0 5 0 0].getD k (tw 0 0 0 0 0 0)

def collRow (k : Nat) : Instr × CForm := (collRows 0 .f (collWordOf k)).getD k (.crs 0 .f (collWordOf k), crsForm 0 .f (collWordOf k))

def collOk (k : Nat) : Bool :=
  let s := collDev
  let w := collWordOf k
  let f := (collRow k).2
  let a := collArgs (s.dev.port 0 .f) w f.aux
  let m := f.maps s.dev a
  let e := collExts (f.opc - 0x70) a m.1 m.2.1
  s.dev.takes 0 .f (encT f.opc w) w.snd && f.wordOk && s.dev.tenantOf 0 == some 0 && (match s.dev.groupOf 0 (cGrp w) with
    | some g => (f.check s.dev a g).isNone
    | none => false) && !s.dev.collFull 0 .f && !s.dev.held 0 .f e.1 e.2 && !s.dev.held 0 .f a.atIssue [] && !s.dev.extsBusy a.atIssue
    && (s.dev.mapBad (f.opc - 0x70) a (s.dev.port 0 .f).step).isNone

theorem wit_coll : (List.range 7).all collOk = true ∧ (collRows 0 .f (collWordOf 0)).length = 7 := by decide +kernel

/-- R217: a CAR of two ranks starts and sends its contribution. -/
theorem test_car : let s := nx (collRow 2).1 collDev
    s.dev.coll.ops.map (fun x => (x.phase == .running, x.op)) = [(true, 2)] ∧ (s.dev.port 0 .f).flights.length = 1 := by decide +kernel
/-! ## Partition registers -/

/-- `accepts`, as a Bool. -/
def okW (s : State) (a : Agent) (o : Nat) : Bool := s.dev.running && s.dev.agentMay a true o

theorem okW_accepts {s : State} {a : Agent} {o : Nat} (h : okW s a o = true) : s.dev.accepts a o := by
  unfold okW at h
  exact (Bool.and_eq_true _ _).mp h

def st (n : Nat) : State := up (tenant ++ [(R.seqStatus 0 .f, BitVec.ofNat 64 (n * 2 ^ 52))])

theorem wit_seqRegs : okW (st 0) .owner (R.seqCtrl 0 .f) = true ∧ (st 0).dev.fenced 0 = false ∧ (st 0).dev.seqState 0 .f = 0
    ∧ (st 4).dev.seqState 0 .f = 4 ∧ okW (st 4) .mgmtFw (R.seqCtrl 0 .f) = true ∧ okW (st 1) (.partFw 0) (R.seqCtrl 0 .f) = true
    ∧ (st 1).dev.seqState 0 .f = 1 ∧ (st 2).dev.seqState 0 .f = 2 ∧ (st 3).dev.seqState 0 .f = 3 ∧ bit ((st 0).dev.reg (R.seqStatus 0 .f)) 0 = false
    ∧ okW (st 2) (.tenantCode 0) (R.seqCtrl 0 .f) = true ∧ okW (st 5) .owner (R.seqPc 0 .f) = true ∧ (st 5).dev.seqState 0 .f = 5 := by decide +kernel

def faulted : State := up (tenant ++ [(R.seqStatus 0 .f, BitVec.ofNat 64 (0x0C * 2 ^ 56 + 5 * 2 ^ 52 + 1))])

theorem wit_seqFault : okW faulted .owner (R.seqStatus 0 .f) = true ∧ bit (faulted.dev.reg (R.seqStatus 0 .f)) 0 = true
    ∧ (nx (.seqFaultClear .owner 0 .f) faulted).dev.reg (R.seqStatus 0 .f) = BitVec.ofNat 64 (4 * 2 ^ 52) := by decide +kernel

/-- R139: the PC of a running sequencer does not change; bits 63:48 and 2:0 are not written. -/
theorem test_seqPc : (nx (.seqPcWrite .owner 0 .f 0xFFFFFFFFFFFFFFFF) (st 0)).dev.reg (R.seqPc 0 .f) = 0xFFFFFFFFFFF8
    ∧ (nx (.seqPcWrite .owner 0 .f 0xFFFFFFFFFFFFFFFF) (st 1)).dev.reg (R.seqPc 0 .f) = 0 := by decide +kernel

theorem wit_memPin : let s := up tenant
    let l := up ((R.memPin 0, BitVec.ofNat 64 (2 ^ 32 + 32)) :: tenant)
    okW s .owner (R.syncCnt 0 511) = true ∧ okW s .owner (R.memPin 0) = true ∧ l.dev.locked 0 = true ∧ l.dev.pinBusy 0 = false
      ∧ s.dev.locked 0 = false ∧ s.dev.fld (R.memPin 0) 7 0 = 32 ∧ s.dev.fld (R.memPin 0) 47 40 = 0
      ∧ ∀ x : Seq, s.dev.seqState 0 x ≠ 1 ∧ s.dev.seqState 0 x ≠ 2 := by
  refine ⟨by decide +kernel, by decide +kernel, by decide +kernel, by decide +kernel, by decide +kernel, by decide +kernel, by decide +kernel, ?_⟩
  intro x
  cases x <;> decide +kernel

/-- R150: PIN_BASE up to CAP, in steps of 4 GiB. -/
theorem test_memPin : let s := up tenant
    let f := fun (n : Nat) => (nx (.memPinWrite .owner 0 (BitVec.ofNat 64 (n * 2 ^ 40))) s).dev.fld (R.memPin 0) 47 40
    f 32 = 32 ∧ f 36 = 0 ∧ f 30 = 0 ∧ f 28 = 28 := by decide +kernel

/-- R150: a running sequencer, a value above CAP and LOCK refuse PIN_BASE, a UPD in progress the clearing of LOCK. -/
theorem wit_memPinRefused : let s := run []
    let l := up ((R.memPin 0, BitVec.ofNat 64 (2 ^ 32 + 32)) :: tenant)
    let b := l.onPart (fun x => { x with cast := [⟨0, 0, 0, [], [], [], []⟩] })
    s.dev.seqState 0 .f = 1 ∧ nx (.memPinWrite .owner 0 (BitVec.ofNat 64 (28 * 2 ^ 40))) s = s ∧ l.dev.locked 0 = true
      ∧ nx (.memPinWrite .owner 0 (BitVec.ofNat 64 (28 * 2 ^ 40 + 2 ^ 32))) l = l ∧ b.dev.pinBusy 0 = true
      ∧ nx (.memPinWrite .owner 0 0) b = b ∧ (nx (.memPinWrite .owner 0 0) l).dev.locked 0 = false := by decide +kernel

/-- Entry 63 without an extent; the page at `k` of bonded SRAM. -/
def page (k : Nat) : W64 := BitVec.ofNat 64 (sramBase 0 + 4096 * k)

theorem wit_wsb : let s := up (tenant ++ [(R.wsbBase 0 63, page 8)])
    let p := sramBase 0 / 4096
    okW s .owner (R.wsbBase 0 63) = true ∧ okW s .owner (R.wsbCtrl 0 63) = true ∧ s.dev.wsbState 0 63 = 0 ∧ s.dev.wsbRef 0 63 = 0
      ∧ bits (page 9) 47 12 = p + 9 ∧ s.dev.wsbPlace 0 63 ⟨(p + 9) * 4096, (p + 9 + s.dev.fld (R.wsbCtrl 0 63) 63 32) * 4096⟩ = true
      ∧ s.dev.wsbPlace 0 63 ⟨s.dev.fld (R.wsbBase 0 63) 47 12 * 4096, (s.dev.fld (R.wsbBase 0 63) 47 12 + 1) * 4096⟩ = true := by decide +kernel

/-- R160: SIZE 0 frees a valid entry without references; with a reference, or while it fills, it is refused. -/
theorem wit_wsbFree : let e := fun (n : Nat) => up (tenant ++ [(R.wsbBase 0 63, page 8), (R.wsbCtrl 0 63, BitVec.ofNat 64 (2 ^ 32 + n)), (R.wsbTag 0 63, 5)])
    let f := fun (s : State) => nx (.wsbConfigWrite .owner 0 63 true 0) s
    let s := e (2 * 2 ^ 24)
    okW s .owner (R.wsbCtrl 0 63) = true ∧ s.dev.wsbState 0 63 = 2 ∧ s.dev.wsbRef 0 63 = 0 ∧ (f s).dev.wsbState 0 63 = 0
      ∧ (f s).dev.reg (R.wsbTag 0 63) = 0xFFFFFFFFFFFFFFFF ∧ (f s).dev.fld (R.wsbCtrl 0 63) 63 32 = 0
      ∧ f (e (2 * 2 ^ 24 + 1)) = e (2 * 2 ^ 24 + 1) ∧ f (e (2 ^ 24)) = e (2 ^ 24) := by decide +kernel

/-- R161: REFADJ stops at 0 and at 65,535. -/
theorem test_refadj : let f := fun (r d : Nat) => let t := nx (.wsbRefadj .owner 0 0 (BitVec.ofNat 64 d)) (up (tenant ++ [(R.wsbCtrl 0 0, BitVec.ofNat 64 r)]))
      (t.dev.wsbRef 0 0, bits (t.dev.reg (R.eccStatus 0)) 7 6)
    f 1 0xFFFF = (0, 0) ∧ f 0 0xFFFF = (0, 1) := by decide +kernel

def training : State := (up tenant).onPart (fun x => { x with trainQ := [2, 3] })

theorem wit_train : okW training .owner (R.memTrain 0) = true ∧ (training.dev.part 0).trainQ = 2 :: [3] ∧ training.dev.prstState 0 = 0
    ∧ (training.dev.part 0).rst = none ∧ ([3] : List (Fin 4)).Pairwise (· < ·) ∧ ((up tenant).dev.part 0).trainQ = [] := by decide +kernel

/-- Channel 2 trains in the last step of partition 0's reset; `f` are the channels that have failed once. -/
def retrained (q : List (Fin 4)) (f : BitVec 4) : State :=
  (up (tenant ++ [(R.prstStatus 0, BitVec.ofNat 64 (4 * 2 ^ 48 + 2 ^ 40))])).onPart (fun x => { x with rst := some ⟨false, 4, f, 0, 0, []⟩, trainQ := q })

/-- R404: given up once a channel is trained again, given up twice it is RETRAINED and LOST; behind the last the firmware starts. -/
theorem wit_trainReset : let s := retrained [2, 3] 0
    let u := retrained [2, 3] 4
    (s.dev.part 0).rst = some ⟨false, 4, 0, 0, 0, []⟩ ∧ s.dev.prstState 0 = 4 ∧ (s.dev.part 0).trainQ = 2 :: [3] ∧ (u.dev.part 0).rst = some ⟨false, 4, 4, 0, 0, []⟩
      ∧ ((nx (.retrainAbandon 0 2) s).dev.part 0).trainQ = [2, 3] ∧ ((nx (.retrainAbandon 0 2) u).dev.part 0).trainQ = [3]
      ∧ ((retrained [2] 0).dev.part 0).trainQ = 2 :: [] ∧ bit ((nx (.retrainDone 0 2 0) (retrained [2] 0)).dev.reg (R.scalarStatus 0)) 34 = true
      ∧ bit ((nx (.retrainDone 0 2 0) s).dev.reg (R.scalarStatus 0)) 34 = false := by decide +kernel

/-- R165, R404: a channel that is given up stays in self-refresh until its partition's reset trains it, at the fence of a reset too. -/
theorem wit_abandon : let s := training
    let f := (up (tenant ++ [(R.prstStatus 0, BitVec.ofNat 64 (2 ^ 48 + 2 ^ 40))])).onPart (fun x => { x with rst := some ⟨false, 0, 0, 0, 0, []⟩, trainQ := [2] })
    let a := nx (.retrainAbandon 0 2) s
    (s.dev.part 0).trainQ = 2 :: [3] ∧ (s.dev.part 0).rst = none ∧ (a.dev.part 0).refresh = [2] ∧ a.dev.chanBusy (dramBase 0 + 2 ^ 34) (dramBase 0 + 2 ^ 34 + 1) = true
      ∧ (f.dev.part 0).rst = some ⟨false, 0, 0, 0, 0, []⟩ ∧ f.dev.prstState 0 ≠ 4 ∧ ((nx (.retrainAbandon 0 2) f).dev.part 0).refresh = [2]
      ∧ bit ((nx (.retrainAbandon 0 2) f).dev.reg (R.prstStatus 0)) 39 = true := by decide +kernel

/-- R166: a request while channels 2 and 3 wait; R165: LAST counts 1,024 cycles and stops at 0xFFFF. -/
theorem test_train : ((nx (.memTrainReq .owner 0 (BitVec.ofNat 64 (3 * 2 ^ 28))) training).dev.part 0).trainQ = [2, 0, 1, 3]
    ∧ (nx (.retrainDone 0 2 2047) training).dev.fld (R.memTrain 0) 15 0 = 1 ∧ (nx (.retrainDone 0 2 (2 ^ 30)) training).dev.fld (R.memTrain 0) 15 0 = 0xFFFF
    ∧ (nx (.retrainAbandon 0 2) training).dev.prstState 0 = 1 := by decide +kernel

theorem wit_updRegs : okW (up tenant) .owner (R.updOpen 0 3) = true ∧ okW (up tenant) .owner (R.updStatus 0 3) = true ∧ okW (up tenant) .owner (R.updWatch 0) = true
    ∧ okW (up tenant) .owner (R.collNoise 0) = true ∧ okW (up tenant) (.tenantCode 0) (R.mbPolicy 0) = true
    ∧ bits (page (2 ^ 16 - 8)) 47 15 * 2 ^ 15 + 2 ^ 15 = sramBase 0 + 2 ^ 28 ∧ isTenant (.tenantCode 0) = true := by decide +kernel

/-- R248: FLOOR is at least 1; the tenant writes CUR between FLOOR and CEIL. -/
theorem test_mbPolicy : let v := BitVec.ofNat 64 (8 * 2 ^ 48 + 1 * 2 ^ 32 + 8 * 2 ^ 16 + 1)
    let s := nx (.mbPolicyWrite .owner 0 v) (up tenant)
    s.dev.fld (R.mbPolicy 0) 31 16 = 8 ∧ (nx (.mbPolicyWrite (.tenantCode 0) 0 (BitVec.ofNat 64 (8 * 2 ^ 48 + 1 * 2 ^ 32 + 1 * 2 ^ 16))) s).dev.fld (R.mbPolicy 0) 31 16 = 1
      ∧ (nx (.mbPolicyWrite .owner 0 (BitVec.ofNat 64 (8 * 2 ^ 48 + 8 * 2 ^ 16))) s).dev.fld (R.mbPolicy 0) 47 32 = 1 := by decide +kernel
/-! ## Update units -/

/-- Images of an element program and of a row program in BF16: W stored as it is. -/
def elemImage : List Byte := leBytes 4 0 ++ [1, 0, 0, 0, 0, 1] ++ leBytes 54 0 ++ leBytes 4 (0x1A * 2 ^ 26 + 17 * 2 ^ 17) ++ leBytes 252 0
def rowImage : List Byte := leBytes 4 0 ++ [1, 0x40, 0, 0, 1, 1] ++ leBytes 54 0 ++ leBytes 4 (0x1B * 2 ^ 26 + 16 * 2 ^ 17) ++ leBytes 4 (0x1A * 2 ^ 26 + 17 * 2 ^ 17)
  ++ leBytes 248 0

def chan (c o : Nat) : Nat := dramBase 0 + c * 2 ^ 33 + o

def rowMapImage : List Byte := (List.range 4).flatMap (fun c => leBytes 8 (chan c 0x100000)) ++ leBytes 4 8 ++ leBytes 2 32 ++ [1, 0] ++ leBytes 14 0 ++ [1] ++ leBytes 9 0

/-- Entries 1 to 3: working weights under entry 0, a gradient slot and a state block in channel 0; 4, 5: a row map and row numbers; 6: a row
of gradients; 7: an image. -/
def updDescs : Tab (BitVec 512) :=
  [ (1, dword [(0, at0' 0x10000), (128, 4096), (256, 1), (405, 1), (407, 1), (412, 1)]),
    (2, dword [(0, chan 0 0x40000), (128, 4096), (256, 1), (403, 1), (407, 1), (408, 5), (412, 1)]),
    (3, dword [(0, chan 0 0x80000), (128, 4096), (256, 1), (403, 1), (407, 1), (408, 8), (412, 1)]),
    (4, vec (at0' 0x20000) 64 + dword [(412, 0xB)]), (5, vec (at0' 0x21000) 1 + dword [(412, 0xD)]),
    (6, dword [(0, at0' 0x22000), (128, 32), (256, 1), (407, 1), (408, 5), (412, 1)]), (7, vec (at0' 0x23000) 320 + dword [(412, 0xB)]) ]
where at0' (o : Nat) : Nat := sramBase 0 + o

def updating : State :=
  (((run [(R.wsbBase 0 0, BitVec.ofNat 64 (sramBase 0 + 0x10000)), (R.wsbCtrl 0 0, BitVec.ofNat 64 (2 * 2 ^ 32))]).onPort (fun t => { t with desc := updDescs })).onPart
    (fun x => { x with slots := [(0, elemImage), (1, rowImage)] })).onDev (fun d => (d.wr (sramBase 0 + 0x20000) rowMapImage).wr (sramBase 0 + 0x23000) elemImage)

def wUpd : TWord := tw' 0 1 2 3 0 0
where tw' (m : BitVec 7) (d s1 s2 s3 : BitVec 8) (imm : BitVec 16) : TWord := ⟨false, m, d, s1, s2, s3, imm, 0⟩
def wUroute : TWord := ⟨false, 0, 4, 6, 5, 0, 0, 0⟩
def wUload (n : BitVec 16) : TWord := ⟨false, 0, 0, 7, 0, 0, n, 0⟩

def de (n : Nat) : Desc := descOf (Tab.get (fun _ => 0) updDescs n)

theorem wit_upd : let s := updating
    (s.dev.port 0 .f).descAt 1 = some (de 1) ∧ (s.dev.port 0 .f).descAt 2 = some (de 2) ∧ (s.dev.port 0 .f).descAt 3 = some (de 3)
      ∧ s.dev.takes 0 .f (encT 0x80 wUpd) none = true ∧ s.dev.updRefuse 0 .f wUpd (de 1) (de 2) (de 3) ((s.dev.port 0 .f).descAt 0) = none
      ∧ s.dev.chanOf 0 (de 3).base = 0 ∧ (s.dev.part 0).updFull 0 .f = false ∧ bits wUpd.mod 4 0 = 0 ∧ wUpd.x = false
      ∧ s.dev.held 0 .f (updExts (de 1) (de 2) (de 3) ((s.dev.port 0 .f).descAt 0) 1).1 (updExts (de 1) (de 2) (de 3) ((s.dev.port 0 .f).descAt 0) 1).2 = false := by
  decide +kernel

/-- R165, R210: a UPD of a channel that retrains waits with STATE 4, its block unchanged. -/
theorem test_updTraining : let t := nx (.upd 0 .f wUpd) (updating.onPart (fun x => { x with trainQ := [0] }))
    ((t.dev.part 0).units[(0 : Fin 4)]).q.length = 1 ∧ t.dev.fld (R.updStatus 0 0) 55 52 = 4 ∧ t.dev.mem = updating.dev.mem := by decide +kernel

theorem wit_uload : let s := updating
    let y := de 7
    let e := toExtent (imageExt y 320)
    (s.dev.port 0 .f).descAt 7 = some y ∧ s.dev.checkImage 0 y 320 = none ∧ s.dev.takes 0 .f (encT 0x82 (wUload 15)) none = true ∧ (wUload 15).imm.toNat = 15
      ∧ (s.dev.part 0).anyUpdFull .f = false ∧ s.dev.tagOk y (s.dev.port 0 .f).step = true ∧ s.dev.held 0 .f [e] [] = false ∧ s.dev.chanBusy e.lo e.hi = false
      ∧ s.dev.bad y.base 320 = false ∧ progRefuse (s.dev.rd y.base 320) = none ∧ progRefuse rowImage = none ∧ (s.dev.part 0).uops = []
      ∧ (∀ c : Fin 4, ((s.dev.part 0).units[c]).q = [] ∧ ((s.dev.part 0).units[c]).slotQ = [])
      ∧ Tab.find ((nx (.uload 0 .f (wUload 15)) s).dev.part 0).slots 15 = some elemImage ∧ ((nx (.uload 0 .f (wUload 15)) s).dev.port 0 .f).flights = [] := by decide +kernel

/-- R121 to R124, words written out from the rules: MMUL with S1 = 1, S2 = 2 and D[7] from bits 56, 40, 32 and 24; WAIT on counter 3 for 5;
IALU x1 = x2 + x3; a sequencer has no IALU, a core no WAIT, and 0xFF is no opcode. -/
theorem test_decodeLimia : decodeLimia 0 .f 0x2000800102000000 0 = some (.mmul 0 .f ⟨false, 0, 0x80, 1, 2, 0, 0, 0⟩)
    ∧ decodeLimia 0 .b 0x1000060000000005 0 = some (.wait 0 .b ⟨false, 0, 3, 0, 5, 0⟩)
    ∧ decodeLimia 0 (.s 2) 0x9004430000000000 0 = some (.ialu 0 2 ⟨false, 1, 2, 3, 0, 0, 0⟩)
    ∧ decodeLimia 0 .f 0x9004430000000000 0 = none ∧ decodeLimia 0 (.s 2) 0x1000060000000005 0 = none
    ∧ decodeLimia 0 .u 0xFF00000000000000 0 = none := by decide +kernel

/-- R31, R189: a master format 0xF is FORMAT_INVALID; M2FMT of a plane that is not kept is BAD_DESCRIPTOR. -/
theorem test_progRefuse : progRefuse (elemImage.set 4 0xF) = some St.formatInvalid ∧ progRefuse (elemImage.set 7 5) = some St.badDescriptor
    ∧ progRefuse (rowImage.set 4 0) = some St.formatInvalid := by decide +kernel

/-- A scalar set of zeros. -/
def scaling : State := updating.onDev (fun d => d.wr (sramBase 0 + 0x23000) (List.replicate 320 0))

theorem wit_uscal : let s := scaling
    let y := de 7
    let e := toExtent (imageExt y 128)
    s.dev.takes 0 .f (encT 0x83 (wUload 255)) none = true ∧ s.dev.checkImage 0 y 128 = none ∧ (s.dev.part 0).anyUpdFull .f = false
      ∧ s.dev.held 0 .f [e] [] = false ∧ s.dev.chanBusy e.lo e.hi = false ∧ s.dev.bad y.base 128 = false ∧ setRefuse (s.dev.rd y.base 128) = none
      ∧ (Tab.find ((nx (.uscal 0 .f (wUload 255)) s).dev.part 0).sets 255).isSome = true
      ∧ (Tab.find ((nx (.uload 0 .f (wUload 15)) s).dev.part 0).slots 15) = none := by decide +kernel

theorem wit_uroute : let s := updating
    let e := toExtent (imageExt (de 4) 64)
    let reads := e :: (de 6).exts ++ (de 5).exts
    let u : RowIns := ⟨rowMapOf (s.dev.rd (de 4).base 64), de 6, de 5, updPhase wUroute, (s.dev.port 0 .f).step, (s.dev.port 0 .f).pwAt 14⟩
    (s.dev.port 0 .f).descAt 4 = some (de 4) ∧ (s.dev.port 0 .f).descAt 6 = some (de 6) ∧ (s.dev.port 0 .f).descAt 5 = some (de 5)
      ∧ s.dev.takes 0 .f (encT 0x81 wUroute) none = true ∧ s.dev.uroutePre 0 (de 4) (de 6) (de 5) = none
      ∧ s.dev.urouteCheck 0 .f wUroute (de 6) (de 5) (rowMapOf (s.dev.rd (de 4).base 64)) = none ∧ (s.dev.part 0).anyUpdFull .f = false
      ∧ s.dev.held 0 .f reads [] = false ∧ s.dev.held 0 .f reads (s.dev.rowWrites u) = false ∧ s.dev.rowWrites u ≠ []
      ∧ s.dev.chanBusy e.lo e.hi = false ∧ s.dev.tagOk (de 4) (s.dev.port 0 .f).step = true ∧ s.dev.bad e.lo 64 = false := by
  decide +kernel

/-- R205: UROUTE writes the record of row 0, whose VERSION stays even. -/
theorem test_uroute : let t := nx (.uroute 0 .f wUroute) updating
    t.dev.rdN (chan 0 0x100004) 4 = 2 ∧ (t.dev.port 0 .f).flights = [] := by decide +kernel

def slotting : State := (up tenant).onPart (fun x => x.setUnit 0 { (x.units[0]) with slotQ := [(chan 0 0x40000, [7, 8])] })

theorem wit_slot : ((slotting.dev.part 0).units[(0 : Fin 4)]).slotQ = (chan 0 0x40000, [7, 8]) :: []
    ∧ slotting.dev.chanShut 0 0 = false ∧ (nx (.gradSlotWrite 0 0) slotting).dev.rd (chan 0 0x40000) 2 = [7, 8] := by decide +kernel
/-! ## Armature, pointing log, queues, mailboxes, windows -/

def armImage : State := (up tenant).onDev (fun d => d.wr (sramBase 0 + 0x1000) [1])
def armV : W64 := BitVec.ofNat 64 (2 ^ 63 + sramBase 0 + 0x1000)
def noGroups : Install := ⟨0, 0, 1, []⟩

theorem wit_install : let s := armImage
    let i := sramBase 0 + 0x1000
    okW s .owner (R.armInstall 0) = true ∧ bit armV 63 = true ∧ bit armV 62 = false ∧ i = bits armV 47 6 * 64 ∧ s.dev.tenantOf 0 = some 0
      ∧ (s.dev.writeReg (R.armInstall 0) armV).installCheck 0 0 i = none
      ∧ (nx (.armInstallGo .owner 0 armV) s).dev.coll.installs = [noGroups] := by decide +kernel

theorem wit_installApply : let s := nx (.armInstallGo .owner 0 armV) armImage
    s.dev.coll.installs.find? (fun i => i.tenant == 0) = some noGroups ∧ s.dev.installStops noGroups = []
      ∧ (noGroups.groups.map (·.1)).Nodup ∧ (nx (.armInstallApply 0) s).dev.armEpoch 0 = 1 := by decide +kernel

/-- A ring of 1,024 records, HEAD 1,023 and no mirror. -/
def logging : State := up (tenant ++ [(R.plogRing 0, BitVec.ofNat 64 (10 * 2 ^ 58 + sramBase 0)), (R.plogPos 0, BitVec.ofNat 64 (1023 * 2 ^ 32 + 1023))])

theorem wit_plog : let s := logging
    let v := BitVec.ofNat 64 (1024 * 2 ^ 32)
    let n := (bits v 63 32 + 2 ^ 32 - s.dev.fld (R.plogPos 0) 63 32) % 2 ^ 32
    okW s .owner (R.plogRing 0) = true ∧ okW s .owner (R.plogMirror 0) = true ∧ okW s .owner (R.plogPos 0) = true ∧ okW s .owner (R.plogCtrl 0) = true
      ∧ bit (s.dev.reg (R.plogCtrl 0)) 63 = false ∧ n = 1 ∧ ringLen (s.dev.plogRing 0 false).1 = 1024 ∧ s.dev.fld (R.plogCtrl 0) 31 0 = 0
      ∧ s.dev.plogBuddy 0 = none ∧ s.dev.plogAt 0 false 1023 = some (sramBase 0 + 0xFFC0)
      ∧ (s.dev.writeReg (R.plogCtrl 0) 0).plogBuddy 0 = none := by decide +kernel

/-- A mirror at rank 1 of group 5 of tenant 0 has refused a record. -/
def mirroring : State :=
  (up (tenant ++ [(R.tenLif 0, BitVec.ofNat 64 (2 ^ 56)), (R.plogRing 0, BitVec.ofNat 64 (10 * 2 ^ 58 + sramBase 0)), (R.plogPos 0, BitVec.ofNat 64 (2 ^ 33)), (R.plogCtrl 0, BitVec.ofNat 64 (2 ^ 63 + 2 ^ 33 + 5 * 2 ^ 51))])).onDev
    (fun d => { d with coll := { d.coll with groups := [(5, { group with buddies := [some 1, none] })] } })

theorem wit_plogBuddy : let v := BitVec.ofNat 64 (2 ^ 63 + 2 ^ 33 + 5 * 2 ^ 51)
    okW mirroring .owner (R.plogCtrl 0) = true ∧ bit (mirroring.dev.reg (R.plogCtrl 0)) 33 = true ∧ bit v 33 = true
      ∧ (mirroring.dev.writeReg (R.plogCtrl 0) v).plogBuddy 0 ≠ none := by decide +kernel

/-- R264: LOGSEQ at 0x38; R291: beyond the ring FULL is set and HEAD stays. -/
theorem test_plog : (nx (.plogHeadWrite .owner 0 (BitVec.ofNat 64 (1024 * 2 ^ 32))) logging).dev.rdN (sramBase 0 + 0xFFF8) 4 = 1023
    ∧ bit ((nx (.plogHeadWrite .owner 0 (BitVec.ofNat 64 (1025 * 2 ^ 32))) logging).dev.reg (R.plogCtrl 0)) 32 = true
    ∧ (nx (.plogHeadWrite .owner 0 (BitVec.ofNat 64 (1025 * 2 ^ 32))) logging).dev.fld (R.plogPos 0) 63 32 = 1023 := by decide +kernel

theorem wit_restoreMaq : let s := up tenant
    let b := up (tenant ++ [(R.restoreCtrl 0, BitVec.ofNat 64 (2 ^ 56)), (R.maqCtrl 0, BitVec.ofNat 64 (2 ^ 62))])
    okW s .owner (R.restoreCtrl 0) = true ∧ s.dev.fld (R.restoreCtrl 0) 59 56 = 0 ∧ b.dev.fld (R.restoreCtrl 0) 59 56 ≠ 0 ∧ okW b .owner (R.restoreCtrl 0) = true
      ∧ okW s .owner (R.maqCtrl 0) = true ∧ bit (s.dev.reg (R.maqCtrl 0)) 62 = false ∧ bit (b.dev.reg (R.maqCtrl 0)) 62 = true
      ∧ bit (BitVec.ofNat 64 (2 ^ 63)) 63 = true := by decide +kernel

/-- A queue of 64 slots of class 1 with ENQUEUE (0) or DOORBELL (1) at the start of bonded SRAM. -/
def qImage (mode : Byte) : List Byte := leBytes 8 (sramBase 0) ++ [6, 1, mode, 1, 0, 0] ++ leBytes 2 4 ++ leBytes 48 0
def queued (mode : Byte) (l : List (Nat × W64)) : State :=
  (up (tenant ++ [(R.tenLif 0, BitVec.ofNat 64 (2 ^ 56))] ++ l)).onPart (fun x => { x with queues := [(1023, queueImage (qImage mode))] })

def qv : W64 := BitVec.ofNat 64 (2 ^ 63 + 1023 * 2 ^ 51 + sramBase 0 + 0x4000)

theorem wit_queueCfg : let s := (up (tenant ++ [(R.tenLif 0, BitVec.ofNat 64 (2 ^ 56))])).onDev (fun d => d.wr (sramBase 0 + 0x4000) (qImage 0))
    okW s .owner (R.queueCfg 0) = true ∧ bit qv 63 = true ∧ bits qv 60 51 = 1023
      ∧ (s.dev.writeReg (R.queueCfg 0) (putBits qv 62 61 0)).queueLoadCheck 0 1023 (bits qv 47 6 * 64) = none
      ∧ (nx (.queueLoad .owner 0 qv) s).dev.queue 0 1023 = some (queueImage (qImage 0))
      ∧ (queued 0 []).dev.queue 0 1023 = some (queueImage (qImage 0)) := by decide +kernel

/-- PI 5, CI 2, CC 1. -/
def working : State := queued 0 [(R.qIdx 0 1023, BitVec.ofNat 64 (5 * 2 ^ 32 + 2)), (R.qComp 0 1023, 1)]

theorem wit_ci : let s := working
    s.dev.qPi 0 1023 = 5 ∧ s.dev.qCi 0 1023 = 2 ∧ s.dev.qCc 0 1023 = 1 ∧ okW s (.partFw 0) (R.qIdx 0 1023) = true ∧ okW s .owner (R.qRetire 0) = true
      ∧ dist32 5 (s.dev.qCc 0 1023) ≤ dist32 (s.dev.qPi 0 1023) (s.dev.qCc 0 1023) ∧ dist32 (s.dev.qPi 0 1023) 5 ≤ 2 ^ 6
      ∧ (1 : Nat) ≤ dist32 (s.dev.qCi 0 1023) (s.dev.qCc 0 1023) := by decide +kernel

/-- R353, R355: CI goes up to PI; one command retires in error. -/
theorem test_ci : let t := nx (.ciWrite (.partFw 0) 0 1023 5) working
    let u := nx (.qretire .owner 0 (BitVec.ofNat 64 (0x0C * 2 ^ 56 + 1023 * 2 ^ 46 + 1))) working
    t.dev.qCi 0 1023 = 5 ∧ (nx (.ciWrite (.partFw 0) 0 1023 6) working).dev.qCi 0 1023 = 2
      ∧ u.dev.qCc 0 1023 = 2 ∧ u.dev.qErr 0 1023 = 1 := by decide +kernel

def windowed (n : Nat) : State := working.onPart (fun x => { x with queues := [(1023, { queueImage (qImage 0) with windowOpen := true, unacked := n })] })

theorem wit_window : let x := { queueImage (qImage 0) with windowOpen := true, unacked := 1 }
    (windowed 1).dev.queue 0 1023 = some x ∧ x.windowOpen = true ∧ x.lost = false ∧ (if x.cls = 0 then 4 else 1) ≤ x.unacked
      ∧ ((windowed 0).dev.queue 0 1023).map (·.unacked) = some 0 ∧ (windowed 0).dev.qPi 0 1023 ≠ (windowed 0).dev.qCi 0 1023 := by decide +kernel

/-- A request of tenant 0 on flow 3 for partition 0. -/
def req (qw : BitVec 14) (l : List Byte) : Req := ⟨3, 0, 0, 0, false, 9, 1, qw, 0, 0, l⟩

/-- A command descriptor. -/
def cmd : List Byte := [1] ++ leBytes 63 0

theorem wit_enqueue : let s := queued 0 []
    let r := req 1023 (cmd ++ cmd)
    s.dev.queue 0 1023 = some (queueImage (qImage 0)) ∧ (queueImage (qImage 0)).mode = 0 ∧ r.payload.length = 64 * (cmdsOf r.payload).length
      ∧ (queueImage (qImage 0)).enabled = true ∧ s.dev.fenced 0 = false ∧ dist32 0 (s.dev.qCc 0 1023) + 2 ≤ 2 ^ 31 - 1
      ∧ (queued 0 [(R.prstStatus 0, BitVec.ofNat 64 (2 ^ 48))]).dev.fenced 0 = true ∧ (cmdsOf r.payload).length = 2 ∧ (cmdsOf r.payload).all cmdOk = true ∧ bit (s.dev.reg R.jrnExport) 63 = false
      ∧ dist32 0 (s.dev.qCi 0 1023) + 2 ≤ 2 ^ 6 := by decide +kernel

theorem test_enqueue : let t := nx (.enqueue (req 1023 (cmd ++ cmd))) (queued 0 [])
    t.dev.qPi 0 1023 = 2 ∧ t.dev.rd (sramBase 0 + 64) 2 = [1, 0] ∧ t.dev.reg (R.jrnHead 0) = 1 := by decide +kernel

theorem wit_doorbell : let s := (queued 1 []).onDev (fun d => (List.range 64).foldl (fun d k => d.wr (sramBase 0 + 64 * k) [1]) d)
    let x := queueImage (qImage 1)
    let r := req 1023 (leBytes 8 64)
    s.dev.queue 0 1023 = some x ∧ x.mode = 1 ∧ x.enabled = true ∧ s.dev.qPi 0 1023 = 0 ∧ dist32 0 (s.dev.qCi 0 1023) + 64 ≤ 2 ^ 6
      ∧ dist32 0 (s.dev.qCc 0 1023) + 64 ≤ 2 ^ 31 - 1 ∧ s.dev.fenced 0 = false ∧ r.payload.length = 8 ∧ leAt r.payload 0 8 = 64 ∧ dist32 64 0 = 64
      ∧ (List.range 64).all (fun k => cmdOk (s.dev.rd (x.slot (0 + k)) 64)) = true ∧ (nx (.doorbell r) s).dev.qPi 0 1023 = 64 := by decide +kernel

theorem wit_journal : let r := req 1023 (leBytes 8 0 ++ leBytes 2 128 ++ leBytes 6 0)
    leAt r.payload 10 1 = r.tenant.val ∧ leAt r.payload 8 2 = 128 ∧ r.payload.length = 16 ∧ leAt r.payload 11 5 = 0
      ∧ max (leAt r.payload 0 8) ((queued 0 []).dev.jseq 0 - 8192) = 0 := by decide +kernel

def boxed : State := (up tenant).onDev (fun d => { d with regs := (R.mbox 15, 77) :: d.regs, mbFull := [(15, true)] })

theorem wit_mbox : okW (up tenant) .owner (R.mbox 15) = true ∧ (up tenant).dev.fenced 0 = false ∧ boxed.dev.fenced 0 = false ∧ (up tenant).dev.mboxFull 15 = false ∧ boxed.dev.mboxFull 15 = true
    ∧ boxed.dev.agentMay .owner false (R.mbox 15) = true ∧ boxed.dev.running = true ∧ okW boxed .owner (R.mbox 319) = true
    ∧ boxed.dev.mboxOf (req 15 (leBytes 8 5)) = .inl 15 ∧ (req 15 (leBytes 8 5)).payload.length = 8 ∧ (req 15 []).payload = [] := by decide +kernel

/-- R360: a full mailbox keeps its word. -/
theorem test_mbox : (nx (.mboxRegWrite .owner 15 5) boxed).dev.reg (R.mbox 15) = 77 ∧ (nx (.mboxRegRead .owner 15) boxed).dev.readData = 77
    ∧ (nx (.mboxWrite (req 15 (leBytes 8 5))) (up tenant)).dev.reg (R.mbox 15) = 5 := by decide +kernel

/-- Flow 3 of tenant 0 to a peer; `own` for an owner session. -/
def flow3 (own : Bool) : Flow :=
  { tenant := 0, hdr := 0, ownerIf := false, ep := .part 0, lif := 0, cls := 0, peerIp := 9, peerPort := 51430, peerMac := 7, peerFlow := 4, peerPart := 0,
    peerMgmt := false, peerGen := 0, established := true, txNext := 5, txLimit := 1029, unacked := [], waitQ := [], pathOff := 0, expiries := 0, firstSeq := 0,
    rxNext := 1, rxAbove := [], rxHeld := [], ackDue := 0, cwnd := 2 ^ 20, baseRtt := none, decreaseAt := none, accepted := true, announce := false,
    rxEcho := 0, awaiting := [], linkSeen := true, owner := own, challenge := none }

def flowing (f : Flow) (l : List (Nat × W64)) : State :=
  (up (tenant ++ [(R.tenLif 0, BitVec.ofNat 64 (2 ^ 56))] ++ l)).onDev (fun d => { d with flows := [(3, f)] })

def owned : State := flowing (flow3 true) []

theorem wit_regs : let s := owned
    s.dev.ctlCheck .owner true (R.castCtrl 0) = none ∧ s.dev.ctlCheck .owner false (R.eccStatus 0) = none ∧ s.dev.ctlCheck .owner true (R.eccStatus 0 + 4) ≠ none
      ∧ (BitVec.ofNat 21 (R.castCtrl 0)).toNat = R.castCtrl 0 ∧ s.dev.ownerFlow 3 = true ∧ (up tenant).dev.ownerFlow 3 = false ∧ s.dev.running = true := by
  decide +kernel

def regReq (l : List Byte) : Req := { req 0 l with mgmt := true }

theorem wit_regRw : let s := owned
    let rd := leBytes 8 (R.castCtrl 0) ++ leBytes 2 64 ++ leBytes 6 0
    let wr := leBytes 8 (R.castCtrl 0) ++ leBytes 2 1 ++ leBytes 6 0 ++ leBytes 8 9
    let bad := leBytes 8 (R.castCtrl 0) ++ leBytes 2 2 ++ leBytes 6 0 ++ leBytes 8 9 ++ leBytes 8 9
    regHeadOk rd false = true ∧ s.dev.regFits (regReq rd) 64 = true ∧ regHeadOk wr true = true ∧ regHeadOk bad true = true
      ∧ (match s.dev.regReads (R.castCtrl 0) 0 1 with
          | .inl (l, _) => l == leBytes 8 (2 ^ 60)
          | .inr _ => false) = true
      ∧ (s.regWrites (R.castCtrl 0) 0 [9]).2 = none ∧ ((s.regWrites (R.plogRing 0) 0 [BitVec.ofNat 64 (5 * 2 ^ 58)]).2).isSome = true
      ∧ (nx (.regWrite (regReq wr)) s).dev.reg (R.castCtrl 0) = 9 := by decide +kernel

/-- Window 63 of tenant 0: a page of partition 0's bonded SRAM, read and write, no key. -/
def winDev : State := flowing (flow3 false) [(R.winBase 0 63, page 2), (R.winCtrl 0 63, BitVec.ofNat 64 (7 * 2 ^ 61 + 2 ^ 32))]

theorem wit_win : let w := req 63 (leBytes 8 0xFFE ++ leBytes 8 0 ++ [7, 8])
    let r := req 63 (leBytes 8 0xFFE ++ leBytes 4 2 ++ leBytes 4 0)
    winDev.dev.fenced 0 = false ∧ w.qw ≠ 0x3FFF ∧ winDev.dev.winCheck w true false 0xFFE 2 0 = none ∧ winDev.dev.winCheck r false false 0xFFE 2 0 = none ∧ winDev.dev.winCheck r false false 0xFFF 2 0 ≠ none
      ∧ winDev.dev.bad (winDev.dev.winAt r + 0xFFE) 2 = false ∧ winDev.dev.flow 3 = some (flow3 false) ∧ 2 ≤ winDev.dev.roomFor 0 9 16
      ∧ (nx (.winWrite w) winDev).dev.rdN (sramBase 0 + 0x2FFE) 2 = 0x807 := by decide +kernel

/-- R165: an access to a channel that retrains waits: a window's in its queue, a core's at its instruction. -/
theorem wit_channelWaits : let f := fun (d : Dev) => d.modPart 0 (fun x => { x with trainQ := [0] })
    let s := (flowing (flow3 false) [(R.winBase 0 63, BitVec.ofNat 64 (chan 0 0x40000)), (R.winCtrl 0 63, BitVec.ofNat 64 (7 * 2 ^ 61 + 2 ^ 32))]).onDev f
    let w := req 63 (leBytes 8 0xFFE ++ leBytes 8 0 ++ [7, 8])
    let r := req 63 (leBytes 8 0xFFE ++ leBytes 4 2 ++ leBytes 4 0)
    s.dev.fenced 0 = false ∧ s.dev.winCheck w true false 0xFFE 2 0 = none ∧ s.dev.winCheck r false false 0xFFE 2 0 = none
      ∧ s.dev.chanBusy (s.dev.winAt w + 0xFFE) (s.dev.winAt w + 0xFFE + 2) = true ∧ (nx (.winWrite w) s).dev.mem = s.dev.mem
      ∧ (nx (.winWrite w) s).dev.winQ = [(true, w)] ∧ (nx (.winRead r) s).dev.winQ = [(false, r)] := by decide +kernel

/-! ## Flows -/

def frm : Frame := ⟨0, false, 0, 0, 0, 128, true, 7, 1, none, none, 0x88B5, 0, [], none, none, []⟩
/-- A JOURNAL_READ of tenant 0 on an open flow. -/
theorem wit_journalFlow : (flowing (flow3 false) []).dev.flow (req 1023 []).flow = some (flow3 false) := by decide +kernel

def rec' (n : BitVec 32) (w : TxWhat) : TxRec := ⟨n, w, 0, 0, frm, false, false, 0⟩

/-- Sequences 3, 4 and 5 wait for their acknowledgement. -/
def sending : Flow := { flow3 false with unacked := [rec' 3 .reply, rec' 4 .reply, rec' 5 .reply], txNext := 6 }
def ackTo (n : BitVec 32) : AckMsg := ⟨3, true, n, false, false, n + 1024, 0, 4, 0, 0, [], [], 0, 0⟩

theorem wit_ack : let s := flowing sending []
    s.dev.flow 3 = some sending ∧ (ackTo 5).flow = 3 ∧ (ackTo 5).rst = false ∧ (ackTo 5).ackv = true ∧ sending.waitQ = [] ∧ sending.established = true
      ∧ sending.unacked.all (fun r => r.what == .reply && r.seq != (ackTo 5).echo) = true ∧ sending.unacked.any (fun r => seqLt r.seq 5) = true := by decide +kernel

/-- R326, R328: sequences before CUM_ACK are acknowledged. -/
theorem test_ack : ((nx (.ack (ackTo 5)) (flowing sending [])).dev.flow 3).map (fun f => f.unacked.map (·.seq)) = some [5] := by decide +kernel

def asking : Flow := { flow3 false with unacked := [rec' 3 .report], txNext := 4 }
def nackOf (n : BitVec 32) : NackMsg := ⟨3, n, St.queueFull, 0, 0, 0⟩

theorem wit_nack : let s := flowing asking []
    s.dev.flow 3 = some asking ∧ asking.request 3 = some (rec' 3 .report) ∧ asking.request 4 = none := by decide +kernel

/-- R406: a late NACK of a request that the partition's reset has ended counts as stale of the partition too. -/
theorem wit_nackStale : let f := { flow3 false with awaiting := [rec' 3 .ended], txNext := 4 }
    let s := flowing f []
    f.request 3 = none ∧ f.ep = .part 0 ∧ rec' 3 .ended ∈ f.unacked ++ f.awaiting ∧ (∀ r ∈ f.unacked ++ f.awaiting, r.seq = 4 → r.what ≠ .ended)
      ∧ (nx (.nack (nackOf 3)) s).dev.fld (R.prstStatus 0) 15 0 = 1 ∧ (nx (.nack (nackOf 4)) s).dev.fld (R.prstStatus 0) 15 0 = 0
      ∧ ∀ p, (s.dev.part p).logOwes = false := by decide +kernel

theorem wit_timeout : let s := flowing { sending with expiries := 1 } []
    let l := flowing { sending with expiries := 2 } []
    sending.unacked = rec' 3 .reply :: [rec' 4 .reply, rec' 5 .reply] ∧ 1 + 1 < s.dev.fld R.tpCfg 47 44 ∧ l.dev.fld R.tpCfg 47 44 ≤ 2 + 1 := by decide +kernel

/-- R329: the flow is lost at MAX_EXPIRIES. -/
theorem test_timeout : ((nx (.retransmitTimeout 3) (flowing { sending with expiries := 1 } [])).dev.flow 3).isSome = true
    ∧ ((nx (.retransmitTimeout 3) (flowing { sending with expiries := 2 } [])).dev.flow 3).isNone = true := by decide +kernel

theorem wit_flowTimers : let s := flowing { flow3 false with ackDue := 1 } []
    ([rec' 2 .ended] : List TxRec).all (fun r => r.what == .ended) = true ∧ (s.dev.flow 3).map (·.ackDue) = some 1 ∧ (flow3 false).unacked = [] ∧ (flow3 false).waitQ = [] ∧ (flow3 false).awaiting = [] ∧ (flow3 false).established = true
      ∧ (nx (.flowIdleClose 3) (flowing { flow3 false with established := false } [])).dev.flow 3 = none := by decide +kernel

/-! ## Vector engine -/

/-- VADD of entries 2 and 3 into 1, with 1.0 and 2.0 in all elements of the sources. -/
def adding : State :=
  nx (.vadd 0 .f (tw 0 1 2 3 0 0)) (loaded.onDev (fun d => (List.range 4).foldl (fun d k =>
    (d.wr (at0 0x2000 + 4 * k) (leBytes 4 0x3F800000)).wr (at0 0x3000 + 4 * k) (leBytes 4 0x40000000)) d))

def addIns : VIns := (adding.dev.vecPick 0).getD ⟨0, .f, 0, 0, tw 0 0 0 0 0 0, none, none, none, none, none, 0, 0, 0, 0, 0, 0, [], []⟩

theorem wit_vectorEngine : let i := addIns
    let x := descOf (vec (at0 0x1000) 4)
    adding.dev.vecPick 0 = some i ∧ adding.dev.fenced 0 = false ∧ i.d = some x ∧ i.s1 = some (descOf (vec (at0 0x2000) 4))
      ∧ i.s2 = some (descOf (vec (at0 0x3000) 4)) ∧ i.pos = 0 ∧ adding.dev.vecReadCheck i = none ∧ TWordMaskKind i.w = 0 ∧ opf i.w 1 = false ∧ opf i.w 3 = false
      ∧ i.opc = 0x30 ∧ kindSr x.kind = false ∧ x.rank = 0 ∧ x.fmt = 0 ∧ x.size.getD 0 0 = 4 ∧ x.stride = [1, 0, 0, 0] := by decide +kernel

/-- R86: 1.0 + 2.0 is 3.0. -/
theorem test_vadd : (nx (.vectorSegment 0) adding).dev.rdN (at0 0x100C) 4 = 0x40400000 := by decide +kernel

/-- A VACC of two tiles into entry 7 has claimed accumulator input 0, which holds its first: one row of one column, 2.0. -/
def accIns : VIns := ⟨5, .f, 0, 0x50, ⟨true, 0, 7, 0, 0, 0, 0, BitVec.ofNat 64 (2 ^ 40)⟩, some (descOf (mat 0 (at0 0x6000) 32 32)), none, none, none, none, 0, 0, 0x3F800000, 0, 0, 0, [], []⟩
def accW (n : Nat) : W64 := BitVec.ofNat 64 (n * 2 ^ 48 + 2 ^ 15 + 2 ^ 21)
def claimed (i : VIns) : State :=
  (run []).onPart (fun x => { x with vq := [i], in0 := ⟨some (accW i.pos), [[0x40000000]], false, some (0, 5)⟩ })

theorem wit_vacc : let s := claimed accIns
    s.dev.fenced 0 = false ∧ s.dev.extsBusy accIns.exts = false ∧ (s.dev.arr 0 0).emit = [] ∧ (s.dev.part 0).claimant 0 = some accIns ∧ ((s.dev.part 0).inp 0).status = some (accW 0)
      ∧ bits (accW 0) 63 48 = (bits accIns.w.w1 39 24 + accIns.pos) % 2 ^ 16 ∧ bit (accW 0) 6 = false ∧ opf accIns.w 2 = false
      ∧ s.dev.vecReadCheck accIns = none ∧ (descOf (mat 0 (at0 0x6000) 32 32)).blocked = false ∧ accIns.pos ≠ bits accIns.w.w1 63 40
      ∧ bits accIns.w.w1 63 40 = 1 := by decide +kernel

/-- R94: the tile's element lies at the destination's start; R95: the VACC completes after its last tile. -/
theorem test_vacc : (nx (.vaccTile 0 0) (claimed accIns)).dev.rdN (at0 0x6000) 4 = 0x40000000
    ∧ ((nx (.vaccTile 0 0) (claimed { accIns with pos := 1 })).dev.part 0).vq = [] := by decide +kernel

/-! ## Scalar cores -/

/-- Core 2 of partition 0 runs at the second half of its local memory. -/
def core (l : List (Nat × W64)) : Core := ⟨l, [], slmBase 0 + 0x10000, none, [], none⟩
def coring (x : Core) (l : List (Nat × W64)) : State :=
  (up (tenant ++ [(R.scalarStatus 0, BitVec.ofNat 64 (2 ^ 36))] ++ l)).onPart (fun t => { t with cores := t.cores.set 2 x })

/-- Core 0 runs. -/
def core0 (x : Core) : State :=
  (up (tenant ++ [(R.scalarStatus 0, BitVec.ofNat 64 (2 ^ 34))])).onPart (fun t => { t with cores := t.cores.set 0 x })

def runsB (s : State) (p : PartId) (c : Fin 6) (x : Core) : Bool :=
  s.dev.core p c == x && bit (s.dev.reg (R.scalarStatus p)) (34 + c.val) && x.wait.isNone && x.pc % 8 == 0
    && (s.dev.coreReach p (firmwarePc p x.pc) false x.pc 8).isNone

theorem wit_core : runsB (coring (core []) []) 0 2 (core []) = true ∧ runsB (core0 (core [])) 0 0 (core []) = true := by decide +kernel

def kw (f : BitVec 8) (rd rs1 rs2 : BitVec 5) (imm : BitVec 32) : KWord := ⟨false, rd, rs1, rs2, f, imm, 0⟩

/-- R124: SRA of the most negative number, MULH of -1 by -1, a write of x0. -/
theorem test_ialu : let s := coring (core [(1, 0x8000000000000000), (2, 63), (3, 0xFFFFFFFFFFFFFFFF)]) []
    let x := fun (f : BitVec 8) (a b : BitVec 5) => ((nx (.ialu 0 2 (kw f 4 a b 0)) s).dev.core 0 2).getX 4
    x 7 1 2 = 0xFFFFFFFFFFFFFFFF ∧ x 9 3 3 = 0 ∧ x 13 2 3 = 1 ∧ x 12 2 3 = 0 ∧ ((nx (.ialui 0 2 (kw 0 0 1 0 5)) s).dev.core 0 2).getX 0 = 0 := by decide +kernel

theorem test_falu : let s := coring { core [(1, 0xFFFFFFFFFFFFFFFF)] with f := [(1, 0x3F800000), (2, 0x40000000)] } []
    ((nx (.falu 0 2 (kw 0 3 1 2 0)) s).dev.core 0 2).getF 3 = 0x40400000 ∧ ((nx (.falu 0 2 (kw 10 3 1 0 0)) s).dev.core 0 2).getF 3 = 0xBF800000
      ∧ ((nx (.falu 0 2 (kw 9 3 2 0 0)) s).dev.core 0 2).getX 3 = 2 := by decide +kernel

def buf : Nat := slmBase 0 + 0x20000
def holding : State := coring (core [(1, BitVec.ofNat 64 buf), (2, 0x1122334455667788), (3, BitVec.ofNat 64 (ctlBase + R.eccStatus 0))]) []

theorem wit_scalarMem : let s := holding
    let x := s.dev.core 0 2
    runsB s 0 2 x = true ∧ inCtl buf = false ∧ s.dev.coreReach 0 (firmwarePc 0 x.pc) false buf 8 = none ∧ s.dev.coreReach 0 (firmwarePc 0 x.pc) true buf 1 = none
      ∧ s.dev.bad buf 8 = false ∧ inCtl (ctlBase + R.eccStatus 0) = true ∧ (ctlBase + R.eccStatus 0) % 8 = 0
      ∧ (match s.dev.regGet (coreAgent 0 x) (R.eccStatus 0) with
          | .inl (v, _) => v == 0
          | .inr _ => false) = true
      ∧ (s.regPut (coreAgent 0 x) (R.updOpen 0 0) 5).2 = none ∧ (s.dev.region buf).map (·.kind) = some 3 := by decide +kernel

/-- R165: LD and ST of a channel that retrains wait. -/
theorem wit_scalarMemWaits : let a := chan 0 0x40000
    let s := (coring (core [(1, BitVec.ofNat 64 a), (2, 9)]) []).onPart (fun x => { x with trainQ := [0] })
    let x := s.dev.core 0 2
    runsB s 0 2 x = true ∧ inCtl a = false ∧ s.dev.coreReach 0 (firmwarePc 0 x.pc) false a 8 = none ∧ s.dev.coreReach 0 (firmwarePc 0 x.pc) true a 8 = none
      ∧ s.dev.chanBusy a (a + 8) = true ∧ nx (.ld 0 2 (kw 8 4 1 0 0)) s = s ∧ nx (.st 0 2 (kw 8 0 1 2 0)) s = s := by decide +kernel

/-- R124: bytes of RS2, little-endian; AMO answers the old value. -/
theorem test_st : (nx (.st 0 2 (kw 2 0 1 2 0)) holding).dev.rd buf 3 = [0x88, 0x77, 0] ∧ (nx (.amo 0 2 (kw 1 4 1 2 0)) holding).dev.rdN buf 8 = 0x1122334455667788
    ∧ ((nx (.amo 0 2 (kw 0 4 1 2 0)) (nx (.amo 0 2 (kw 0 0 1 2 0)) holding)).dev.core 0 2).getX 4 = 0x1122334455667788 := by decide +kernel

theorem wit_scalarControl : let s := holding
    let x := s.dev.core 0 2
    s.dev.swaitBad 0 x 0 511 = none ∧ s.dev.swaitBad 0 x 5 1023 = none ∧ inCtl (ctlBase + R.updOpen 0 0) = true ∧ inBlock 0 (R.updOpen 0 0) = true
      ∧ x.queue.length < 8 ∧ bits (63 : BitVec 32) 31 6 = 0 := by decide +kernel

def waitingCore : State := coring { core [] with wait := some (0, 5, 0) } []

theorem wit_swaitPass : (waitingCore.dev.core 0 2).wait = some (0, 5, 0) ∧ waitingCore.dev.swaitMet 0 0 5 0 = true
    ∧ ((nx (.swaitPass 0 2) waitingCore).dev.core 0 2).pc = slmBase 0 + 0x10008 := by decide +kernel

/-- R124: a taken branch counts words from the branch; JAL keeps the address of the next word. -/
theorem test_bcc : ((nx (.bcc 0 2 (kw 0 0 0 0 0xFFFFFFFE)) (coring (core []) [])).dev.core 0 2).pc = slmBase 0 + 0xFFF0
    ∧ ((nx (.jal 0 2 (kw 0 1 0 0 2)) (coring (core []) [])).dev.core 0 2).getX 1 = BitVec.ofNat 64 (slmBase 0 + 0x10008) := by decide +kernel

/-- A VADD word for the port in register 1. -/
def issuing (n : Nat) : State := coring { core [(1, encT 0x30 ⟨false, 0, 1, 2, 3, 0, 0, 0⟩)] with queue := List.replicate n (0, none) } []

/-- R111: a ninth word waits; R113: a word whose opcode is not open to the port stops its core. -/
theorem test_issr : let i := Instr.issr 0 2 (kw 0 0 1 2 0)
    portOpen 0 2 (encT 0x30 ⟨false, 0, 1, 2, 3, 0, 0, 0⟩) = true ∧ ((nx i (issuing 7)).dev.core 0 2).queue.length = 8 ∧ ((nx i (issuing 8)).dev.core 0 2).queue.length = 8
      ∧ ((nx i (issuing 8)).dev.core 0 2).pc = slmBase 0 + 0x10000 ∧ portOpen 0 2 0xFF00000000000000 = false
      ∧ bit ((nx i (coring (core [(1, 0xFF00000000000000)]) [])).dev.reg (R.scalarStatus 0)) 24 = true := by decide +kernel

/-- R124: a vector word of the core's own program enters the port queue. -/
theorem wit_ownWord : let u : TWord := ⟨false, 0, 1, 2, 3, 0, 0, 0⟩
    let s := coring (core []) []
    runsB s 0 2 (core []) = true ∧ s.dev.fenced 0 = false ∧ s.dev.portHead 0 2 (encT 0x30 u) u.snd = false ∧ u.len = 1
      ∧ ((nx (.vadd 0 (.s 2) u) s).dev.core 0 2).queue = [(encT 0x30 u, none)] := by decide +kernel

/-- R109: RELEASE by core 0 starts all six. -/
theorem test_release : bits ((nx (.release 0 0 (kw 0 0 0 0 63)) (core0 (core []))).dev.reg (R.scalarStatus 0)) 39 34 = 63 := by decide +kernel
/-! ## Working-shard entries and collective operations -/

def op0 (s : State) : CollOp := (s.dev.coll.ops.head?).getD ⟨0, 0, 0, .f, 0, 0, 0, 0, 0, 0, false, 0, descOf 0, descOf 0, descOf 0, none, [], [], [], 0, 0, 0, 0, .queued, [], [],
  [], [], 0, [], [], [], 0, [], [], [], [], [], [], [], [], 0, 0, 0, 0, [], []⟩

/-- A CAG whose destination entry is still referenced. -/
def gatherBlocked : State := nx (collRow 1).1 (collDev.onDev (fun d => d.setFld (R.wsbCtrl 0 0) 15 0 1))
def gatherFree : State := gatherBlocked.onDev (fun d => d.setFld (R.wsbCtrl 0 0) 15 0 0)

theorem wit_wsbStart : let s := gatherFree
    0 < gatherBlocked.dev.wsbRef 0 0 ∧ s.dev.wsbRef 0 0 = 0 ∧ s.dev.wsbState 0 0 ≠ 1 ∧ (∀ (u : PartId) (n : Fin 4), s.dev.moveWaits u n.val (0, 0) = false)
      ∧ (∀ (u : PartId) (c : Fin 4), s.dev.updWaits u c (0, 0) = false) ∧ s.dev.collWaits (0, 0) = [op0 s] ∧ s.dev.collGroup (op0 s) = some group := by
  decide +kernel

/-- R156: the gather starts once the entry is free, and then waits for its source. -/
theorem test_wsbStart : (op0 gatherBlocked).phase = .waitDest ∧ (op0 (nx (.wsbWriteStart 0 0) gatherFree)).phase = .waitSource := by decide +kernel

def filled : State :=
  ((up (tenant ++ [(R.wsbCtrl 0 63, BitVec.ofNat 64 (2 ^ 32 + 2 ^ 24))])).onPart (fun x => { x with fill := [(63, ⟨9, 0, .f, 5, .move⟩)] })).onPort (fun t =>
    { t with flights := [⟨5, .move, 0, [], []⟩] })

theorem wit_wsbFill : let s := filled
    let w : WFill := ⟨9, 0, .f, 5, .move⟩
    Tab.find (s.dev.part 0).fill 63 = some w ∧ s.dev.wsbState 0 63 = 1 ∧ s.dev.fillWritten w = true
      ∧ (nx (.wsbFillComplete 0 63) s).dev.wsbTag 0 63 = 9 ∧ ((nx (.wsbFillComplete 0 63) s).dev.port 0 .f).flights = [] := by decide +kernel

/-- A CBC of 64 elements from rank 1 in group 6, and its only segment; a request that carries a segment. -/
def casting : State := nx (.cbc 0 .f (collWord' 24 23 0 6 0 1)) collDev
def segOf (off n fmt : Nat) (data : List Byte) : OutSeg := ⟨0, 1, 0, 1, false, false, false, true, off, n, fmt, 0, data⟩
def segReq (grp op : Nat) (m : OutSeg) : Req := ⟨3, 0, 0, 1, false, 2, 1, 0, 0, 0, segHdr grp op 0 m 0 0 ++ m.data⟩
def bcSeg : Req := segReq 6 4 (segOf 0 64 0 (List.replicate 256 7))

/-- R403: a segment for a fenced partition is answered with a NACK. -/
theorem wit_segmentFenced : bcSeg.mgmt = false ∧ (casting.onDev (fun d => d.setReg (R.prstStatus 0) (BitVec.ofNat 64 (2 ^ 48)))).dev.fenced bcSeg.part = true
    ∧ casting.dev.fenced bcSeg.part = false := by decide +kernel

def takes (f : SegFate) : Option (CollOp × Group) :=
  match f with
  | .take x g => some (x, g)
  | _ => none

theorem wit_segment : let s := casting
    let m := decSeg bcSeg.payload
    s.dev.groupOf 0 m.grp = some { group with topo := 3 } ∧ m.seg.src < 2 ∧ (group.rank m.seg.src).ip = bcSeg.src
      ∧ takes (s.dev.segCheck bcSeg m false) = some (op0 s, { group with topo := 3 }) ∧ (op0 s).op = 4 ∧ m.seg.cast = false
      ∧ s.dev.segNoSlot bcSeg false = false ∧ group.pos m.seg.dest ≠ group.pos ((op0 s).param.toNat % 2 ^ 16) ∧ (op0 s).wroteD.contains m.seg.off = false
      ∧ s.dev.groupOf 0 (decSeg (segReq 9 4 (segOf 0 64 0 [])).payload).grp = none := by decide +kernel

/-- R227: a segment that finds no slot is not taken. -/
theorem wit_segmentNoSlot : let s := (collDev.onDev (fun d => d.setReg (R.collEpoch 0) (BitVec.ofNat 64 (2 ^ 32 + 1))))
    let none' := s.onDev (fun d => d.setReg (R.tenLim 0) (BitVec.ofNat 64 (2 ^ 31)))
    let newer := { bcSeg with layEp := 2, armEp := 1 }
    none'.dev.segNoSlot newer false = true ∧ nx (.collSeg newer) none' = none' ∧ s.dev.segNoSlot newer false = false
      ∧ (nx (.collSeg newer) s).dev.coll.held = [newer] := by decide +kernel

theorem wit_segmentEpoch : let s := collDev.onDev (fun d => d.setReg (R.collEpoch 0) (BitVec.ofNat 64 (2 ^ 32 + 1)))
    let newer := { bcSeg with layEp := 2, armEp := 1 }
    (seqLt bcSeg.armEp (s.dev.armEpoch 0) || seqLt bcSeg.layEp (s.dev.layEpoch 0)) = true
      ∧ (seqLt newer.armEp (s.dev.armEpoch 0) || seqLt newer.layEp (s.dev.layEpoch 0)) = false ∧ newer.layEp ≠ s.dev.layEpoch 0 := by decide +kernel

/-- R226, R227: the segment is written, a copy is dropped and counted, and the operation completes. -/
theorem test_segment : let t := nx (.collSeg bcSeg) casting
    t.dev.rdN (at0 0x14000) 2 = 0x707 ∧ (nx (.collSeg bcSeg) t).dev.fld R.collDrops 47 32 = 1
      ∧ (nx (.collComplete (op0 casting).n) t).dev.ctr 0 3 = 1 ∧ (nx (.collComplete (op0 casting).n) t).dev.coll.ops = [] := by decide +kernel

theorem wit_collComplete : let s := nx (.collSeg bcSeg) casting
    s.dev.collOp (op0 s).n = some (op0 s) ∧ (s.dev.part 0).castOf (op0 s).n = none ∧ s.dev.collGroup (op0 s) = some { group with topo := 3 } ∧ s.dev.collDone { group with topo := 3 } (op0 s) = true := by
  decide +kernel

/-- A key-value ring: forward with `mode` 0, backward with 1. -/
def ringing (mode : Byte) : State := nx (collRow 6).1 (collDev.onDev (fun d => d.wr (at0 0x1602A) [mode]))
def kvReq (n : Nat) : Req := segReq 5 6 (segOf (256 - n) n 0 (List.replicate n 7))

theorem wit_kvBlock : let s := ringing 0
    let m := decSeg (kvReq 64).payload
    takes (s.dev.segCheck (kvReq 64) m true) = some (op0 s, group) ∧ s.dev.segNoSlot (kvReq 64) true = false ∧ (op0 s).op = 6 ∧ (op0 s).ring.bytes = 128 ∧ m.seg.off / 128 = 1 ∧ m.seg.off % 128 = 64
      ∧ (op0 s).rotLanded 1 = 0 ∧ m.seg.elems = 64 ∧ (nx (.kvBlock (kvReq 64)) s).dev.rdN (at0 0x1A040) 2 = 0x707 := by decide +kernel

/-- The last 64 bytes of a rotation of which 64 have landed. -/
theorem wit_kvBlockFull : let s := (ringing 0).onDev (fun d => { d with coll := { d.coll with ops := [{ op0 (ringing 0) with landed := [(1, 64)] }] } })
    takes (s.dev.segCheck (kvReq 64) (decSeg (kvReq 64).payload) true) = some (op0 s, group) ∧ (op0 s).rotLanded 1 + 64 = 128
      ∧ (nx (.kvBlock (kvReq 64)) s).dev.ctr 0 3 = 1 := by decide +kernel

/-- Held segments: one whose operation has started, and one whose operation has not. -/
def holdingSegs : State := casting.onDev (fun d => { d with coll := { d.coll with held := [bcSeg, segReq 6 3 (segOf 0 64 0 [])] } })

theorem wit_held : let s := holdingSegs
    s.dev.coll.held[0]? = some bcSeg ∧ heldKv bcSeg = false ∧ takes (s.dev.segCheck bcSeg (decSeg bcSeg.payload) false) = some (op0 s, { group with topo := 3 }) := by
  decide +kernel

def fateName (f : SegFate) : Nat :=
  match f with
  | .drop _ _ => 0
  | .hold => 1
  | .stop _ _ => 2
  | .take _ _ => 3

theorem wit_heldOthers : let s := holdingSegs.onDev (fun d => { d with coll := { d.coll with ops := [] } })
    let r := segReq 6 3 (segOf 0 64 0 [])
    let u := collDev.onDev (fun d => { d with coll := { d.coll with held := [r] } })
    s.dev.coll.held[1]? = some r ∧ fateName (s.dev.segCheck r (decSeg r.payload) false) = 0
      ∧ s.dev.coll.ops.find? (fun x => x.running && x.tenant == r.tenant && x.grp == 6 && x.num == 0) = none
      ∧ fateName (u.dev.segCheck r (decSeg r.payload) false) = 1 := by decide +kernel

/-- A CAG that waits for its source, whose entry now holds version 0. -/
def gathering : State := (nx (collRow 1).1 collDev).onDev (fun d => d.wsbEnd (0, 1) 0)

theorem wit_cagSource : let s := gathering
    let x := op0 s
    let E := s.dev.dstBegin x.d x.writer
    s.dev.collOp x.n = some x ∧ s.dev.collGroup x = some group ∧ s.dev.extsBusy (x.memExts group) = false ∧ x.phase = .waitSource ∧ x.op = 1 ∧ x.auxDst group = none
      ∧ (x.sources group).all (fun y => E.srcState y x.step == 0 && !E.badData y) = true ∧ group.at (group.pos group.own) = group.own ∧ group.pos group.own < group.n := by
  decide +kernel

theorem wit_crsh : let s := nx (collRow 5).1 collDev
    let x := op0 s
    s.dev.collOp x.n = some x ∧ (s.dev.collGroup x).isSome = true ∧ x.op = 5 ∧ x.running = false
      ∧ (s.dev.coll.front (x.part.val * 4 + x.port.num)).map (·.n) = some x.n ∧ s.dev.olderReduction x = false ∧ s.dev.mayStart x = some true
      ∧ seqGt x.param (s.dev.layEpoch x.tenant) = true ∧ s.dev.crshBlocked { group with topo := 3 } x = false
      ∧ (nx (.crshStart x.n) s).dev.layEpoch 0 = 1 := by decide +kernel

theorem wit_rotation : let s := (ringing 1).onDev (fun d => d.setCtr 0 5 1)
    let x := op0 s
    s.dev.collOp x.n = some x ∧ x.op = 6 ∧ x.phase = .running ∧ s.dev.extsBusy (x.memExts group) = false ∧ x.ring.mode = 1 ∧ x.rotSent = 0 ∧ 0 < x.rotOut group ∧ s.dev.released x 1 = true
      ∧ (op0 (nx (.ckvRotationSend x.n) s)).rotSent = 1 := by decide +kernel

theorem wit_slotFree : let s := ((ringing 1).onDev (fun d => d.setCtr 0 5 2))
    let x := { op0 s with rotSent := 2 }
    x.op = 6 ∧ x.phase = .running ∧ s.dev.slotFree group x (x.rotFree + 1) = true ∧ s.dev.collGroup x = some group := by decide +kernel

/-- R258: a backward ring that waits for its own RELEASE is exempt from its watchdog. -/
theorem wit_collExempt : let s := (ringing 1).onDev (fun d => d.setCtr 0 5 0)
    (op0 s).running = true ∧ s.dev.collGroup (op0 s) = some group ∧ (s.dev.collArrived (op0 s).n (op0 s) group).isNone = true ∧ (op0 s).op = 6
      ∧ (op0 s).phase = .running ∧ s.dev.kvOwnWait group (op0 s) = true ∧ nx (.collWatchdogExpire (op0 s).n) s = s := by decide +kernel

theorem wit_collWatchdog : let s := casting
    (op0 s).running = true ∧ (op0 s).op ≠ 6 ∧ s.dev.extsBusy ((op0 s).memExts { group with topo := 3 }) = false ∧ (op0 s).castNext = 0 ∧ (s.dev.collArrived (op0 s).n (op0 s) { group with topo := 3 }).isNone = true
      ∧ s.dev.collGroup (op0 s) = some { group with topo := 3 } ∧ (op0 s).port = Seq.port .f ∧ bit (s.dev.reg (R.seqStatus 0 .f)) 0 = false
      ∧ (nx (.collWatchdogExpire (op0 s).n) s).dev.seqState 0 .f = 5 := by decide +kernel
/-! ## Partition resets, watchdogs, checked registers, tenants, incidents -/

def rst (skip : Bool) (chans : BitVec 4) : ResetSt := ⟨skip, chans, 0, 0, 0, []⟩

/-- Partition 0 in a state of its reset, with REASON 1. -/
def resetting (n : Nat) (r : ResetSt) : State :=
  (up (tenant ++ [(R.prstStatus 0, BitVec.ofNat 64 (n * 2 ^ 48 + 2 ^ 40))])).onPart (fun x => { x with rst := some r, told := [(.vector, 0)] })

theorem wit_causes : let s := (up tenant).onPart (fun x => { x with told := [(.vector, 0)] })
    s.dev.prstState 0 = 0 ∧ okW s .owner (R.prstCtrl 0) = true ∧ (s.dev.part 0).told.contains (.vector, 0) = true ∧ (resetting 1 (rst false 0)).dev.prstState 0 = 1
      ∧ (resetting 4 (rst false 0)).dev.prstState 0 = 4 ∧ okW (resetting 4 (rst false 0)) .owner (R.prstCtrl 0) = true
      ∧ ((resetting 4 (rst false 0)).dev.part 0).told.contains (.vector, 0) = true := by decide +kernel

/-- R402: the four causes and their REASON; MORE while a reset is in progress. -/
theorem test_causes : let f := fun (i : Instr) => (nx i ((up tenant).onPart (fun x => { x with told := [(.vector, 0)] }))).dev.fld (R.prstStatus 0) 47 40
    f (.prstReq .owner 0 0) = 1 ∧ f (.unitHangExpire 0 .vector) = 2 ∧ f (.heartbeatExpire 0) = 3 ∧ f (.internalCheckFailure 0 .partitionLogic) = 5
      ∧ bit ((nx (.heartbeatExpire 0) (resetting 2 (rst false 0))).dev.reg (R.prstStatus 0)) 39 = true := by decide +kernel

theorem wit_resetSteps : ((resetting 1 (rst true 0)).dev.part 0).rst = some (rst true 0) ∧ (resetting 1 (rst false 0)).dev.prstState 0 = 1
    ∧ (resetting 1 (rst false 0)).dev.dbg.live = false ∧ (rst false 0).left ≠ [] ∧ (resetting 2 (rst false 0)).dev.prstState 0 = 2
    ∧ (resetting 3 (rst false 15)).dev.prstState 0 = 3 ∧ okW (resetting 4 (rst false 0)) (.partFw 0) (R.prstCtrl 0) = true
    ∧ ((resetting 4 (rst false 0)).dev.part 0).trainQ = [] := by decide +kernel

/-- R403, R404: the steps in order; the generation tag at the release, the implicated channels train. -/
theorem test_resetSteps : let a := nx (.fenceComplete 0) (resetting 1 (rst false 0))
    let c := nx (.resetRelease 0) (resetting 3 (rst false 5))
    let e := nx (.prstReady (.partFw 0) 0) (resetting 4 (rst false 0))
    a.dev.prstState 0 = 2 ∧ (nx (.fenceComplete 0) (resetting 1 (rst true 0))).dev.prstState 0 = 3 ∧ c.dev.prstState 0 = 4 ∧ c.dev.gen 0 = 1
      ∧ (c.dev.part 0).trainQ = [0, 2] ∧ e.dev.fenced 0 = false := by decide +kernel

def stuck : State := (st 2).onPart (fun x => { x with vq := [addIns'], told := [] })
where addIns' : VIns := ⟨5, .f, 0, 0x30, ⟨false, 0, 1, 2, 3, 0, 0, 0⟩, none, none, none, none, none, 0, 0, 0, 0, 0, 0, [], []⟩

theorem wit_watchdogs : let s := stuck
    s.dev.fenced 0 = false ∧ s.dev.seqState 0 .f = 2 ∧ s.dev.waitReady 0 .f = false ∧ s.dev.unitTry 0 .vector (Seq.port .f) = s.dev
      ∧ s.dev.unitExempt 0 .vector (Seq.port .f) = false ∧ (st 3).dev.seqState 0 .f = 3 ∧ bit (s.dev.reg (R.seqStatus 0 .f)) 0 = false ∧ (stuck.addIns').port = Seq.port .f
      ∧ (s.dev.part 0).vq.find? (fun j => j.port.num == (Seq.port .f).num) = some stuck.addIns' ∧ (s.dev.part 0).vq.head? = some stuck.addIns'
      ∧ (nx (.seqWatchdogExpire 0 .f) s).dev.seqState 0 .f = 5 := by decide +kernel

theorem wit_scalarWatchdog : let s := (up (tenant ++ [(R.scalarStatus 0, BitVec.ofNat 64 (2 ^ 39))])).onPart (fun x =>
      { x with cores := x.cores.set 5 { x.cores[5] with wait := some (0, 5, 1) } })
    s.dev.fenced 0 = false ∧ s.dev.coreWaits 0 5 = true ∧ s.dev.swaitReady 0 5 = false ∧ bit ((nx (.scalarWatchdogExpire 0 5) s).dev.reg (R.scalarStatus 0)) 27 = true := by decide +kernel

/-- R26: a WAIT whose counter has reached its threshold passes instead. -/
theorem wit_watchdogArrived : let s := (nx (.wait 0 .f (sw 5 4)) (run [(R.syncCnt 0 5, 3)])).onDev (fun d => d.setCtr 0 5 4)
    s.dev.seqState 0 .f = 2 ∧ s.dev.waitReady 0 .f = true ∧ (nx (.seqWatchdogExpire 0 .f) s).dev.seqState 0 .f = 1 := by decide +kernel

/-- R16: array cycles and their stretching are counted, not while the partition is held in reset. -/
theorem test_droop : let s := up tenant
    let t := nx (.supplyDroop 0 5) s
    s.dev.running = true ∧ s.dev.prstState 0 ≠ 3 ∧ t.dev.reg (R.clkCycles 0) = 5 ∧ t.dev.fld (R.clkStretch 0) 47 0 = 5
      ∧ (resetting 3 (rst false 0)).dev.prstState 0 = 3 ∧ (nx (.supplyDroop 0 5) (resetting 3 (rst false 0))).dev.reg (R.clkCycles 0) = 0 := by decide +kernel

/-- R163: the corrected count stays at its largest value; the last word of the slice is marked. -/
theorem test_scrub : let s := up (tenant ++ [(R.eccStatus 0, BitVec.ofNat 64 (0xFFFF * 2 ^ 48))])
    (nx (.patrolScrub 0 0 .correctable) s).dev.fld (R.eccStatus 0) 63 48 = 0xFFFF
      ∧ (nx (.patrolScrub 0 0xFFFFFF .uncorrectable) s).dev.bad (sramBase 0 + 0xFFFFFF0) 1 = true := by decide +kernel

def wdogWord (n : Nat) : W64 := BitVec.ofNat 64 (((List.range 7).map (fun j => n * 2 ^ (29 + 5 * j))).foldl (· + ·) 0)

theorem wit_checked : let s := up (tenant ++ [(R.tenLif 0, BitVec.ofNat 64 (2 ^ 56 + 127))])
    let at' := BitVec.ofNat 64 (2 ^ 63 + dramBase 5)
    (List.range 7).all (fun j => bits (wdogWord 16) (33 + 5 * j) (29 + 5 * j) == 16) = true ∧ s.dev.dmaHolder = 0
      ∧ s.dev.tenantMem 0 (bits at' 47 22 * 2 ^ 22) (bits at' 47 22 * 2 ^ 22 + 2 ^ 22) = false
      ∧ s.dev.tenantMem 0 (sramBase 0) (sramBase 0 + 2 ^ 22) = true ∧ bits (BitVec.ofNat 64 (2 ^ 63 + sramBase 0)) 47 22 * 2 ^ 22 = sramBase 0
      ∧ s.dev.lifTenant (bits (BitVec.ofNat 64 (2 ^ 63 + 127 * 2 ^ 52)) 58 52) = some 0
      ∧ okW s .owner (R.wdogCfg 0) = true ∧ okW s .owner (R.rubExp 0) = true ∧ okW s .owner R.jrnExport = true ∧ okW s .owner (R.rlyCfg 63) = true
      ∧ okW s .owner R.pwrCap = true ∧ okW s .owner R.indCtrl = true ∧ okW s .owner R.alertCtrl = true
      ∧ s.dev.tenantHolds 0 (dramBase 5) (dramBase 5 + 4096) = false := by decide +kernel

/-- R463, R419, R470: caps at the bounds, watchdog exponents at the bounds, an indicator with two holders. -/
theorem test_checked : let s := up tenant
    let cap := fun (n : Nat) => (nx (.pwrCapWrite .owner (BitVec.ofNat 64 n)) s).dev.fld R.pwrCap 9 0
    cap 250 = 250 ∧ cap 249 = 600 ∧ cap 601 = 600 ∧ (nx (.wdogCfgWrite .owner 0 (wdogWord 30)) s).dev.fld (R.wdogCfg 0) 33 29 = 30
      ∧ (nx (.wdogCfgWrite .owner 0 (wdogWord 31)) s).dev.reg (R.wdogCfg 0) = regReset (R.wdogCfg 0) ∧ (nx (.indCtrlWrite .owner 3) s).dev.reg R.indCtrl = regReset R.indCtrl := by
  decide +kernel

theorem wit_winCtrl : let s := up (tenant ++ [(R.winBase 0 63, page 65535)])
    s.dev.running = true ∧ s.dev.holds 0 0 = true ∧ s.dev.tenantHolds 0 (s.dev.winLo 0 63) (s.dev.winLo 0 63 + 4096) = true
      ∧ s.dev.tenantHolds 0 (s.dev.winLo 0 63) (s.dev.winLo 0 63 + 2 ^ 24 * 4096) = false
      ∧ bit ((nx (.winCtrlWrite .owner 0 63 (BitVec.ofNat 64 (2 ^ 63 + 2 ^ 32))) s).dev.reg (R.winCtrl 0 63)) 63 = true
      ∧ bit ((nx (.winCtrlWrite .owner 0 63 (BitVec.ofNat 64 (2 ^ 63 + 2 * 2 ^ 32))) s).dev.reg (R.winCtrl 0 63)) 63 = true := by decide +kernel

def cfgWord (parts groups : Nat) : W64 := BitVec.ofNat 64 (2 ^ 63 + parts * 2 ^ 32 + groups * 2 ^ 7)

theorem wit_table : let s := up tenant
    let same := s.dev.writeReg (tenOff 0 .cfg) (cfgWord 3 4096)
    let ovp := s.dev.writeReg (tenOff 0 .cfg) (cfgWord 3 4097)
    let less := s.dev.writeReg (tenOff 0 .cfg) (cfgWord 1 16)
    okW s .owner (tenOff 0 .cfg) = true ∧ same.tableOk = true ∧ ovp.tableOk = false ∧ (∀ p, same.holds 0 p = s.dev.holds 0 p) ∧ bit (cfgWord 3 4096) 62 = false
      ∧ less.tableOk = true ∧ s.dev.holds 0 1 = true ∧ less.holds 0 1 = false ∧ (∀ q : PartId, q ≠ 1 → less.holds 0 q = s.dev.holds 0 q) ∧ s.dev.prstState 1 = 0
      ∧ (s.dev.writeReg (tenOff 1 .lif) 0).tableOk = true ∧ (s.dev.writeReg (tenOff 1 .lim) 0).tableOk = true
      ∧ s.dev.tenantValid 0 = true ∧ s.dev.tableOk = true ∧ s.dev.tenantValid 1 = false := by decide +kernel

/-- R413: provisioning closes the tenant's incidents with its armature epoch. -/
theorem test_provisionIncidents : let s := (up (tenant ++ [(R.collEpoch 0, BitVec.ofNat 64 (3 * 2 ^ 32))])).onDev (fun d => { d with inc := [(5, ⟨0, true, false, 0⟩)] })
    s.dev.armEpoch 0 ≠ 0 ∧ (Tab.find (nx (.tenantProvision .owner 0) s).dev.inc 5).map (·.isOpen) = some false := by decide +kernel

/-- R381: a removed partition is fenced and waits for its scrub; R380: provisioning resets both partitions. -/
theorem test_table : let t := nx (.tenantTableWrite .owner 0 .cfg (cfgWord 1 16)) (up tenant)
    let u := nx (.tenantProvision .owner 0) (up tenant)
    t.dev.prstState 1 = 1 ∧ bit (t.dev.reg R.secStatus) 17 = true ∧ t.dev.prstState 0 = 0 ∧ u.dev.prstState 0 = 1 ∧ u.dev.fld (R.prstStatus 1) 47 40 = 7
      ∧ bit ((nx (.scrubComplete 1) t).dev.reg R.secStatus) 17 = true
      ∧ bit ((nx (.scrubComplete 1) (nx (.prstReady (.partFw 1) 1) (nx (.resetRelease 1) (nx (.fenceComplete 1) t)))).dev.reg R.secStatus) 17 = false := by decide +kernel

theorem wit_scrub : let s := up ((R.secStatus, BitVec.ofNat 64 (2 ^ 17)) :: tenant)
    bit (s.dev.reg R.secStatus) 17 = true ∧ (s.dev.part 1).rst = none := by decide +kernel

/-- A report of suspect 5, partition 1, TIMEOUT, generation 2, COUNT 3. -/
def report : Req := { req 0 (leBytes 4 0 ++ leBytes 4 5 ++ [1, St.timeout] ++ leBytes 2 2 ++ leBytes 12 0 ++ leBytes 4 3 ++ leBytes 36 0) with mgmt := true }

theorem wit_report : let s := up tenant
    let k : IncKey := ⟨0, 5, 1, 2, St.timeout⟩
    let t := nx (.faultReport report) s
    report.payload.length = 64 ∧ k = ⟨report.tenant.val, leAt report.payload 4 4, leAt report.payload 8 1, leAt report.payload 0xA 2 % 4096, BitVec.ofNat 8 (leAt report.payload 9 1)⟩
      ∧ k.status ≠ St.memberLost ∧ s.dev.incFind k = none ∧ s.dev.incSlot = some 0 ∧ t.dev.incFind k = some 0 ∧ t.dev.fld (R.inc 0 3) 31 0 = 3
      ∧ (nx (.faultReport report) t).dev.fld (R.inc 0 3) 31 0 = 6 := by decide +kernel

/-- R413: all 256 entries open. -/
theorem wit_reportFull : let s := (up tenant).onDev (fun d => { d with inc := (List.range 256).map (fun n => (n, ⟨0, true, false, 0⟩)) })
    s.dev.incFind ⟨0, 5, 1, 2, St.timeout⟩ = none ∧ s.dev.incSlot = none := by decide +kernel

theorem wit_incident : let s := nx (.faultReport report) (up tenant)
    let d := nx (.faultReport report) (up ((R.incDest 0, BitVec.ofNat 64 (2 ^ 63)) :: (R.incIp1 0, 9) :: (R.tenLim 0, BitVec.ofNat 64 (2 ^ 48)) :: (R.tenLif 0, BitVec.ofNat 64 (2 ^ 56)) :: tenant))
    (Tab.find s.dev.inc 0).map (fun e => (e.isOpen, e.sent, e.tenant)) = some (true, false, 0) ∧ bit (s.dev.reg (R.incDest 0)) 63 = false
      ∧ (Tab.find (nx (.incidentSend 0) s).dev.inc 0).map (·.sent) = some true
      ∧ bit (d.dev.reg (R.incDest 0)) 63 = true ∧ d.dev.tenantLif 0 (d.dev.fld (R.incDest 0) 62 60) = some 0
      ∧ (d.dev.flowTo 0 .mgmt 0 (d.dev.lifClass 0 1) 9 51430 (d.dev.lifNext 0) 0 false).isSome = true
      ∧ (Tab.find (nx (.incidentClose 0) (nx (.incidentSend 0) s)).dev.inc 0).map (·.isOpen) = some false := by
  decide +kernel
/-! ## Debug access, attestation, firmware (what rests on the opaque Falcon-1024, SHAKE256 and bank directory of Config is left to a hypothesis) -/

theorem wit_debug : let s := up tenant
    let l := s.dev.secBuf
    let live := s.onDev (fun d => { d with dbg := { d.dbg with live := true } })
    let no := up ((R.secBuf 0, 1) :: tenant)
    okW s .owner R.dbgCtrl = true ∧ sliceB l 0 64 = s.dev.identityHash ∧ sliceB no.dev.secBuf 0 64 ≠ no.dev.identityHash ∧ zeros l 0x61 31 = true ∧ leAt l 0x50 8 = 0 ∧ bits (0 : W64) 63 32 = 0 ∧ bits (0 : W64) 15 2 = 0
      ∧ (sliceB l 0x40 16 = leBytes 8 (s.dev.reg (R.dbgChal 0)).toNat ++ leBytes 8 (s.dev.reg (R.dbgChal 1)).toNat)
      ∧ no.tokenCheck = St.badDescriptor ∧ (leAt l 0x60 1 = 0 ∧ bit (0 : W64) 1 = false ∧ live.dev.dbg.live = true) := by decide +kernel

/-- A state whose checks leave only the module's hash and the signature to be accepted. -/
theorem wit_debugOpen (key : List Byte) : let s := { up tenant with flash := Flash.reset.setKey 0 key }
    s.flash.ownerKey (leAt s.dev.secBuf 0x60 1) = some key := by
  have h : leAt (up tenant).dev.secBuf 0x60 1 = 0 := by decide +kernel
  simp only [up] at h ⊢
  rw [h]
  simp [Flash.ownerKey]

/-- R386: CLOSE and LIMIT shut the live path. -/
theorem test_dbgClose : let live := (up tenant).onDev (fun d => { d with dbg := { d.dbg with live := true, jtag := true } })
    (nx (.dbgClose .owner) live).dev.dbg.live = false ∧ (nx .debugLimitExpire live).dev.dbg.jtag = false := by decide +kernel

def att (l : List Byte) : Req := { req 0 l with mgmt := true }

theorem wit_attest : let s := flowing { flow3 false with challenge := some (leBytes 64 0) } []
    let resp := leBytes 64 0 ++ [1, 0] ++ leBytes 1286 0
    let claim := leBytes 64 0 ++ [2, 1] ++ leBytes 4366 0
    let rot := leBytes 64 0 ++ [3, 1] ++ leBytes 4366 0
    let cert := leBytes 64 0 ++ [4, 0] ++ leBytes 6 0
    s.dev.attestRoom = true ∧ (s.dev.flow 3).isSome = true ∧ (att (leBytes 64 0)).payload.length = 64 ∧ formOk resp 1 1352 = true ∧ attestSlot resp = 0
      ∧ formOk claim 2 4432 = true ∧ attestSlot claim = 1 ∧ zeros claim 1865 7 = true ∧ formOk rot 3 4432 = true ∧ formOk cert 4 72 = true
      ∧ s.dev.sessions < 4 ∧ s.flash.ownerKey 1 = none := by decide +kernel

/-- A response with no challenge outstanding fails its signature check. -/
theorem wit_attestFails : let s := { flowing (flow3 false) [] with flash := Flash.reset.setKey 0 [] }
    let resp := leBytes 64 0 ++ [1, 0] ++ leBytes 1286 0
    s.ownerSigOk (att resp) [] (sliceB resp 72 1280) = false ∧ s.flash.ownerKey (attestSlot resp) = some [] := by decide +kernel

/-- R391: four owner sessions. -/
theorem wit_sessions : let s := (up tenant).onDev (fun d => { d with flows := [(3, flow3 false)] ++ (List.range 4).map (fun n => (4 + n, flow3 true)) })
    ¬(s.dev.sessions < 4 ∨ s.dev.ownerFlow 3 = true) := by decide +kernel

/-- FW_CMD words (R436): SVN value or flash offset, length, component, bank. -/
def fwV (off len comp : Nat) (bank : Bool) : W64 := BitVec.ofNat 64 (b2n bank * 2 ^ 58 + comp * 2 ^ 53 + 2 ^ 37 + len * 2 ^ 32 + off * 2 ^ 16)

/-- The last 64 KiB of bank B, and the first of bank A. -/
def fwB : W64 := fwV ((bankBase true + 0x3E00000) / 0x1000 - 16) 16 0 false
def fwA : W64 := fwV (bankBase false / 0x1000) 1 0 false

theorem wit_fwFlash : let s := up tenant
    let hi := (bankBase true + 0x3E00000)
    s.dev.running = true ∧ (List.range 7).all (fun op => (s.dev.fwBad (fwWord op fwB)).isNone) = true ∧ (s.dev.fwBad (fwWord 0 fwA)).isNone = true
      ∧ fwOffset (fwWord 0 fwB) * 0x1000 = hi - 0x10000 ∧ fwLength (fwWord 0 fwB) = 16 ∧ s.flash.programBad 16 (hi - 0x10000) hi = none
      ∧ fwLength (fwWord 0 fwA) = 1 ∧ meets (bankBase false) (bankBase false + 0x1000) (bankBase s.flash.active) (bankBase s.flash.active + 0x3E00000) = true
      ∧ meets (hi - 0x10000) hi (bankBase true) hi = true ∧ s.dev.boot.verified false = false
      ∧ (s.onDev (fun d => { d with boot := { d.boot with verifiedB := true } })).dev.boot.verified true = true := by decide +kernel

/-- R432: PROGRAM never stores in the active bank; COMMIT takes a verified bank only. -/
theorem test_fwProgram : let s := (up tenant).onDev (fun d => { d with stage := [(0, 0x1122)] })
    (nx (.fwProgram .owner fwA) s).flash.bytes = [] ∧ (nx (.fwCommit .owner (fwV 0 0 0 true)) s).flash.active = false
      ∧ (nx (.fwCommit .owner (fwV 0 0 0 true)) (s.onDev (fun d => { d with boot := { d.boot with verifiedB := true } }))).flash.active = true := by decide +kernel

/-- R437: a GO that is refused sets DONE and CODE. -/
theorem wit_fwRefused : let pl := up ((R.bootStatus, BitVec.ofNat 64 (2 ^ 55)) :: tenant)
    let t := nx (.fwActivate .owner (fwV 0 0 0 false)) pl
    pl.dev.fwBad (fwWord 2 (fwV 0 0 0 false)) = some St.plinthMode ∧ pl.dev.running = true ∧ t.dev.fld R.fwStatus 63 56 = St.plinthMode.toNat
      ∧ bit (t.dev.reg R.fwStatus) 51 = true := by decide +kernel

/-- SVN 64 and 65 of the Ethernet firmware: the bound of R386. -/
theorem wit_fwSvn : let s := up tenant
    (s.dev.fwBad (fwWord 5 (fwV 64 0 19 false))).isNone = true ∧ fwComponent (fwWord 5 (fwV 64 0 19 false)) = 19 ∧ fwOffset (fwWord 5 (fwV 64 0 19 false)) = 64
      ∧ fwOffset (fwWord 5 (fwV 65 0 19 false)) = 65 := by decide +kernel

theorem wit_fwService : let s := (up tenant).onDev (fun d => { d with boot := { d.boot with pendImage := some 1 } })
    let pl := up ((R.bootStatus, BitVec.ofNat 64 (2 ^ 55)) :: tenant)
    (List.range 5).all (fun k => (s.dev.fwBad (fwWord 2 (fwV 0 0 ([0, 1, 2, 18, 19].getD k 0) true))).isNone) = true ∧ fwParts (fwWord 2 (fwV 0 0 18 true)) = [0]
      ∧ (s.dev.fwBad (fwWord 3 0)).isNone = true ∧ s.dev.boot.pendImage = some 1 ∧ (∀ p : PartId, fwPart (fwWord 3 0) p = false) ∧ pl.dev.plinth = true
      ∧ (pl.dev.fwBad (fwWord 7 0)).isNone = true ∧ pl.fuse.lifecycle ≠ 2 ∧ (pl.dev.fwBad (fwWord 8 (fwV 0x3000 0 0 false))).isNone = true
      ∧ fwOffset (fwWord 8 (fwV 0x3000 0 0 false)) / 0x1000 = 3 := by decide +kernel

/-- R424, R431: PLINTH puts the module into reset, EXIT clears the start counter. -/
theorem test_fwPlinth : let pl := { up ((R.bootStatus, BitVec.ofNat 64 (2 ^ 55 + 3 * 2 ^ 60)) :: tenant) with flash := Flash.reset.setMirror 3 }
    (nx (.fwPlinth .owner 0) (up tenant)).dev.boot.ph = .inReset ∧ (nx (.fwExit .owner 0) pl).flash.mirror = 0
      ∧ (nx (.fwDiag .owner (fwV 0x1000 0 0 false) 5) pl).dev.fld R.fwStatus 31 0 = 5 := by decide +kernel

/-! ## Handover, microcode, boot -/

def trial (l : List (Nat × W64)) : State := up ((R.fwStatus, BitVec.ofNat 64 (4 * 2 ^ 52)) :: l)

theorem wit_handover : let s := (up tenant).onPart (fun x => { x with microPending := some 3 })
    let b := up (tenant ++ [(R.bootStatus, BitVec.ofNat 64 (2 ^ 60))])
    let boot := { b with flash := (Flash.reset.setMirror 1).setLog [⟨1, false, 0, 0, 2⟩], dev := { b.dev with boot := { b.dev.boot with ph := .starting } } }
    (trial []).dev.fwState = 4 ∧ (trial []).dev.running = true ∧ s.dev.fwState = 0 ∧ s.dev.incFind ⟨16, s.dev.moduleId, 0xFF, 0, St.timeout⟩ = none
      ∧ s.dev.incSlot = some 0 ∧ (s.dev.part 0).microPending = some 3 ∧ s.dev.unitsIdle 0 = true ∧ boot.dev.boot.ph = .starting
      ∧ boot.flash.log.getLast? = some ⟨1, false, 0, 0, 2⟩ := by decide +kernel

/-- R434: HEALTHY ends the trial; R433: a swap that never came is reported; R426: BOOT_OK ends the start. -/
theorem test_handover : let s := (up tenant).onPart (fun x => { x with microPending := some 3 })
    let b := { up tenant with flash := (Flash.reset.setMirror 1).setLog [⟨1, false, 0, 0, 2⟩] }
    let boot := b.onDev (fun d => { d with boot := { d.boot with ph := .starting } })
    (nx (.healthyWrite .mgmtFw) (trial [])).dev.fwState = 0
      ∧ ((nx (.microcodeSwap 0) s).dev.part 0).microcode = 3 ∧ bit ((nx (.microcodeSwapTimeout 0) s).dev.reg R.fwStatus) 0 = true
      ∧ (nx (.bootOkWrite .mgmtFw) boot).flash.log = [⟨1, false, 0, 0, 0⟩]
      ∧ (nx (.bootOkWrite .mgmtFw) boot).flash.mirror = 0 := by decide +kernel
/-! ## The Ethernet port -/

/-- MAC 0 enabled (MTU 1,518, low-power idle), its link up; `c` and `x` further bits of its configuration and status. -/
def ethOn (c x : Nat) (l : List (Nat × W64)) : State :=
  up (l ++ [(R.ethMacCfg 0, BitVec.ofNat 64 (2 ^ 63 + 2 ^ 57 + 1518 * 2 ^ 27 + c)), (R.ethMacStatus 0, BitVec.ofNat 64 (2 ^ 63 + x))] ++ tenant)

def macWord (fc test maxLen : Nat) : W64 := BitVec.ofNat 64 (2 ^ 63 + fc * 2 ^ 60 + test * 2 ^ 58 + maxLen * 2 ^ 27)
def injWord (dir act : Nat) : W64 := BitVec.ofNat 64 (dir * 2 ^ 62 + act * 2 ^ 59)

theorem wit_ethConfig : let s := up tenant
    let e := ethOn 0 0 []
    okW s .owner R.ethPortCfg = true ∧ bits (1 : W64) 1 0 ≠ s.dev.fld R.ethPortCfg 1 0 ∧ s.dev.macExists 0 = true ∧ s.dev.macEn 0 = false ∧ e.dev.macEn 0 = true
      ∧ okW s .owner (R.ethMacCfg 0) = true ∧ okW s .owner (R.ethInj 0) = true ∧ okW s .owner (R.tpInj 3) = true ∧ okW s .owner (R.lifMac 127) = true
      ∧ okW s .owner (R.lifCfg 127) = true ∧ okW s .owner R.msecCommit = true ∧ okW s .owner R.serdesCtrl = true ∧ s.dev.lifOn 127 = false
      ∧ (ethOn 0 0 [(R.ethInj 0, injWord 1 3)]).dev.holdHolder 0 = 2 ∧ (ethOn 0 0 [(R.ethInj 0, injWord 1 4)]).dev.loopHolder 0 = 2
      ∧ (ethOn (2 ^ 60) 0 []).dev.holdHolder 0 = 1 ∧ (ethOn (2 ^ 59) 0 []).dev.loopHolder 0 = 1 ∧ s.dev.holdHolder 0 = 0 ∧ s.dev.loopHolder 0 = 0 := by decide +kernel

/-- R315, R313: MTU bounds, a held timer, a held loop. -/
theorem test_ethMacCfg : let s := up tenant
    let f := fun (v : W64) (t : State) => nx (.ethMacCfgWrite .owner 0 v) t
    (f (macWord 0 0 1518) s).dev.fld (R.ethMacCfg 0) 40 27 = 1518 ∧ (f (macWord 0 0 1517) s).dev.macEn 0 = false ∧ (f (macWord 0 0 9217) s).dev.macEn 0 = false
      ∧ (f (macWord 1 0 9216) (ethOn 0 0 [(R.ethInj 0, injWord 1 3)])).dev.fld (R.ethMacStatus 0) 35 32 = 2
      ∧ (f (macWord 0 2 9216) (ethOn 0 0 [(R.ethInj 0, injWord 1 4)])).dev.fld (R.ethMacStatus 0) 35 32 = 4 := by decide +kernel

/-- R317: an injection is refused where the hold timer or the loop is in use. -/
theorem test_ethInj : (nx (.ethInjWrite .owner 0 (injWord 1 3)) (ethOn (2 ^ 60) 0 [])).dev.fld (R.ethMacStatus 0) 35 32 = 1
    ∧ (nx (.ethInjWrite .owner 0 (injWord 1 4)) (ethOn (2 ^ 59) 0 [])).dev.fld (R.ethMacStatus 0) 35 32 = 3
    ∧ (nx (.ethInjWrite .owner 0 (injWord 2 4)) (up tenant)).dev.fld (R.ethInj 0) 63 62 = 0
    ∧ (nx (.ethInjWrite .owner 0 (injWord 1 5)) (up tenant)).dev.fld (R.ethInj 0) 63 62 = 0
    ∧ (nx (.tpInjWrite .owner 3 (BitVec.ofNat 64 (3 * 2 ^ 62))) (up tenant)).dev.fld (R.tpInj 3) 63 62 = 0 := by decide +kernel

/-- Interface 0: address 2, no VLAN, IPv4 10.0.0.1, UDP port 51430, MAC 0, frames of 1,518 bytes; class 0. -/
def lif0 (x : Nat) : List (Nat × W64) :=
  [(R.lifMac 0, BitVec.ofNat 64 (2 ^ 63 + 0xFFF * 2 ^ 48 + 2)), (R.lifCfg 0, BitVec.ofNat 64 (1518 * 2 ^ 39 + 51430 * 2 ^ 11 + x)),
    (R.lifIp1 0, 0xFFFF0A000001), (R.tenLif 0, BitVec.ofNat 64 (2 ^ 56))]
def lifWord (vid addr : Nat) : W64 := BitVec.ofNat 64 (2 ^ 63 + vid * 2 ^ 48 + addr)

theorem wit_lif : let s := ethOn 0 0 (lif0 0)
    let twin := s.onDev (fun d => d.setReg (R.lifMac 1) (lifWord 5 6))
    s.dev.lifOn 0 = true ∧ s.dev.lifMacN 0 = s.dev.lifMacN 1 ∧ (s.dev.lifAddr 0).toNat = bits (lifWord 0xFFF 2) 47 0 ∧ s.dev.lifVid 0 = bits (lifWord 0xFFF 2) 59 48
      ∧ bits (BitVec.ofNat 64 (1518 * 2 ^ 39) : W64) 52 39 ≤ s.dev.fld (R.ethMacCfg (Fin.ofNat 8 0)) 40 27
      ∧ (nx (.lifCfgWrite .owner 1 true (lifWord 0xFFF 2)) s).dev.lifOn 1 = false ∧ (nx (.lifCfgWrite .owner 1 true (lifWord 0xFFE 2)) s).dev.lifOn 1 = true
      ∧ (nx (.lifCfgWrite .owner 1 true (lifWord 0 2)) s).dev.lifOn 1 = false ∧ twin.dev.lifOn 1 = true := by decide +kernel

theorem wit_msec : let s := up ((R.msecSa 0, BitVec.ofNat 64 (127 + 15 * 2 ^ 8 + 3 * 2 ^ 16)) :: tenant)
    let l := s.dev.msecRecord
    leAt l 0 1 = 127 ∧ leAt l 1 1 = 15 ∧ leAt l 2 1 = 3 ∧ zeros l 3 5 = true ∧ zeros l 0x4C 52 = true
      ∧ (Tab.find (nx (.msecCommit .owner) s).dev.assoc (assocKey 127 1 3 3)).map (·.active) = some true
      ∧ (nx (.msecCommit .owner) (up ((R.msecSa 0, BitVec.ofNat 64 (128 + 15 * 2 ^ 8)) :: tenant))).dev.assoc = [] := by decide +kernel

/-- R438: lanes 0 and 7 re-adapt, then lane 0 has failed. -/
theorem wit_serdes : let s := nx (.serdesReq .owner (BitVec.ofNat 64 (0x81 * 2 ^ 56))) (up tenant)
    s.dev.boot.serdesQ.contains 0 = true ∧ s.dev.boot.serdesQ.contains 7 = true ∧ s.dev.fld R.serdesCtrl 55 48 = 0x81
      ∧ (nx (.serdesAdaptDone 0 false 70000) s).dev.fld R.serdesCtrl 47 40 = 1 ∧ (nx (.serdesAdaptDone 0 false 70000) s).dev.fld R.serdesCtrl 15 0 = 0xFFFF := by
  decide +kernel

def partner : State := (ethOn 0 0 []).onDev (fun d => d.modMac 0 (fun x => { x with partnerTw := some 30 }))
def ready : State := (ethOn 0 (2 ^ 62) []).onDev (fun d => { d with txq := [⟨0, 0, false, none, frm⟩] })

theorem wit_links : let s := ethOn 0 0 []
    let d := up ((R.ethMacCfg 0, BitVec.ofNat 64 (2 ^ 63)) :: tenant)
    d.dev.mayLink 0 = true ∧ bit (d.dev.reg (R.ethMacStatus 0)) 63 = false ∧ bit (s.dev.reg (R.ethMacStatus 0)) 63 = true ∧ s.dev.linkIsUp 0 = true
      ∧ (ethOn (2 ^ 58) 0 []).dev.linkTest 0 = 1 ∧ (ethOn (2 ^ 59) 0 []).dev.linkTest 0 = 2 ∧ bit (s.dev.reg (R.ethMacCfg 0)) 57 = true ∧ s.dev.txReady 0 = false
      ∧ bit (s.dev.reg (R.ethMacStatus 0)) 62 = false ∧ (partner.dev.mac 0).partnerTw.isSome = true ∧ (s.dev.mac 0).partnerTw = none ∧ ready.dev.txReady 0 = true := by
  decide +kernel

/-- R299, R307. -/
theorem test_links : (nx (.linkUp 0) (up ((R.ethMacCfg 0, BitVec.ofNat 64 (2 ^ 63)) :: tenant))).dev.linkIsUp 0 = true ∧ (nx (.linkDown 0) (ethOn 0 0 [])).dev.linkIsUp 0 = false
    ∧ bit ((nx (.lpiEnter 0) partner).dev.reg (R.ethMacStatus 0)) 62 = true ∧ bit ((nx (.lpiEnter 0) (ethOn 0 0 [])).dev.reg (R.ethMacStatus 0)) 62 = false
    ∧ bit ((nx (.lpiWake 0) ready).dev.reg (R.ethMacStatus 0)) 62 = false := by decide +kernel

/-- Priority flow control with all classes, and PAUSE. -/
def pfcOn : State := ethOn (2 * 2 ^ 60 + 255 * 2 ^ 41) 0 []
def pauseOn : State := ethOn (2 ^ 60) 0 []

theorem wit_flowControl : pfcOn.dev.hears 0 = true ∧ pauseOn.dev.hears 0 = true ∧ pfcOn.dev.linkIsUp 0 = true ∧ pfcOn.dev.fcMode 0 = 2 ∧ pauseOn.dev.fcMode 0 = 1 ∧ bit (pfcOn.dev.reg (R.ethMacCfg 0)) 48 = true
    ∧ (pfcOn.dev.mac 0).pfcSent.contains 7 = false ∧ ((nx (.pfcSend 0 7) pfcOn).dev.mac 0).pfcSent.contains 7 = true := by decide +kernel

/-- R306: a quantum is 512 bit times. -/
theorem test_flowControl : ((nx (.pauseReceive 0 5) pauseOn).dev.mac 0).hold = 2 ∧ ((nx (.pauseReceive 0 5) pfcOn).dev.mac 0).hold = 0
    ∧ ((nx (.pfcReceive 0 0x80 [0, 0, 0, 0, 0, 0, 0, 5]) pfcOn).dev.mac 0).pfcHold = [(7, 2)]
    ∧ (nx (.pfcSend 0 7) pfcOn).dev.txq.map (fun t => (t.mgmt, t.frame.pauseTimes.getD 7 0)) = [(true, 0xFFFF)] := by decide +kernel

/-! ## Frames that arrive and leave -/

def bad (n : Nat) (ok : Bool) (dst : Mac) : Frame := { frm with length := n, fcsOk := ok, dst := dst }

/-- A Paldal request on flow 3: MBOX_READ of mailbox 15 with sequence 1. -/
def hdr : PHdr := ⟨1, 4, 0, 0, 0, 0, 1, 0, 0, 15, 0, 0, 0, 3, 0, 0, 0⟩
def ipFrame (l : List Byte) : Frame :=
  Frame.summed { frm with dst := 2, etherType := 0x0800, ip := some ⟨false, true, 9, 0xFFFF0A000001, 64, 17, none, 0⟩, udp := some ⟨true, 51430, 51430, 0⟩, payload := l } 0

def receiving : State := (ethOn 0 0 (lif0 0)).onDev (fun d => { d with flows := [(3, flow3 false)] })

theorem wit_rxDrops : let s := receiving
    s.dev.hears 0 = true ∧ s.dev.fld (R.ethInj 0) 63 62 ≠ 2 ∧ (s.dev.mac 0).side = none ∧ s.dev.fld (R.ethMacCfg 0) 40 27 = 1518
      ∧ (up tenant).dev.linkIsUp 0 = false ∧ s.dev.lifsFor (bad 64 true 5) = [] ∧ (bad 64 true 5).etherType ≠ 0x8808 := by decide +kernel

/-- R302: the counters of checks 2 to 4 and of the address check, at the bounds of the length. -/
theorem test_rxDrops : let f := fun (x : Frame) (k : Nat) => (nx (.ethRxFrame x) receiving).dev.reg (R.ethCnt 0 k)
    f (bad 63 true 2) 7 = 1 ∧ f (bad 1519 true 2) 8 = 1 ∧ f (bad 1518 false 2) 9 = 1 ∧ f (bad 64 true 5) 12 = 1 := by decide +kernel

theorem wit_rxAccepted : let s := receiving
    let f := ipFrame (paldalBytes hdr [])
    let h := decHdr f.payload
    s.dev.hears 0 = true ∧ f.fecBad = false ∧ 64 ≤ f.length ∧ f.length ≤ s.dev.fld (R.ethMacCfg 0) 40 27 ∧ f.fcsOk = true ∧ f.dst ≠ 0x0180C200000E ∧ f.sec = none
      ∧ s.dev.lifsFor f = [0] ∧ s.dev.lifMsec 0 = false ∧ s.dev.vidOk 0 f.tag = true ∧ f.ip.map (ipOk f) = some true
      ∧ (match f.ip, f.udp with
          | some i, some u => udpOk f i u && i.dst == s.dev.lifIp 0 && i.proto == 17 && u.dport == s.dev.lifPort 0 && i.src == 9
          | _, _ => false) = true
      ∧ f.buffered + f.length ≤ s.dev.rxShare 0 false (Frame.cls f) ∧ h.ver = 1 ∧ h.crc = paldalCrc h [] ∧ h.op = 4 ∧ f.payload.length = h.len + 32 ∧ h.rsv = 0 ∧ h.rsv3 = 0
      ∧ h.fl = 0 ∧ s.dev.lifTenant 0 = some 0 ∧ s.dev.flow h.flow = some (flow3 false) ∧ (∀ j : Fin 4, s.dev.fld (R.tpInj j) 63 62 ≠ 2 ∨ s.dev.fld (R.tpInj j) 31 16 ≠ h.flow) ∧ (flow3 false).rxAbove = [] ∧ (flow3 false).peerIp = 9 ∧ h.gen = s.dev.gen 0
      ∧ (flow3 false).rxNext = BitVec.ofNat 32 h.seq ∧ s.dev.plinth = false ∧ s.dev.fenced 0 = false ∧ s.dev.holds 0 0 = true ∧ opTarget h.op = 2 ∧ h.qw ≠ 0x3FFF := by
  decide +kernel

/-- Only mirror records and segments may find no place. -/
theorem wit_taken (d : Dev) (r : Req) : d.notTaken 4 r = false := by simp [Dev.notTaken]

/-- R332: another version is counted and dropped; a request in order is acknowledged later and moves RX_NEXT on. -/
theorem test_rxAccepted : let t := nx (.ethRxFrame (ipFrame (paldalBytes hdr []))) receiving
    (nx (.ethRxFrame (ipFrame (paldalBytes { hdr with ver := 2 } []))) receiving).dev.reg (R.tpCnt 0) = 1 ∧ (t.dev.flow 3).map (·.rxNext) = some 2
      ∧ t.dev.reg (R.ethCnt 0 0) = 1 := by decide +kernel

/-- A frame of class 0. -/
def ftx : TxFrame := ⟨0, 0, false, none, frm⟩

theorem wit_reorder : let m := (ethOn 0 0 []).onDev (fun d => d.modMac 0 (fun x => { x with side := some (ftx, 1, false) }))
    let t := (up tenant).onDev (fun d => { d with inj := d.inj.set 3 { d.inj[3] with side := some (⟨0, 0, false, none, frm⟩, 1, false) } })
    (m.dev.mac 0).side = some (ftx, 1, false) ∧ ((nx (.injReorderRelease 0) m).dev.mac 0).side = some (ftx, 0, false)
      ∧ (t.dev.inj[(3 : Fin 4)]).side = some (⟨0, 0, false, none, frm⟩, 1, false) ∧ (nx (.tpInjReorderRelease 3) t).dev.txq.length = 1 := by decide +kernel

theorem wit_mgmtCores : let s := ethOn 0 0 (lif0 0)
    let busy := s.onDev (fun d => d.modMac 0 (fun x => { x with mgmtSecond := 0, mgmtCount := 1000 }))
    s.dev.lifMacN 0 = 0 ∧ s.dev.lifOn 0 = true ∧ s.dev.linkIsUp 0 = true ∧ s.dev.hears 0 = true ∧ isV4 (s.dev.lifIp 0) = true ∧ (s.dev.mac 0).mgmtCount = 0
      ∧ isV4 ((ethOn 0 0 []).dev.lifIp 0) = false ∧ s.dev.localCount.toNat / 1000000000 = 0 ∧ s.dev.running = true ∧ s.dev.macExists 0 = true ∧ s.dev.macEn 0 = true
      ∧ (nx (.arpRequest 0 7 9) s).dev.txq.length = 1 ∧ (nx (.arpRequest 0 7 9) busy).dev.txq = [] ∧ (nx (.arpRequest 0 7 9) busy).dev.reg (R.ethCnt 0 34) = 1 := by
  decide +kernel

def sendable (x : Nat) (l : List TxFrame) : State := (ethOn x 0 (lif0 0)).onDev (fun d => { d with txq := l })
def tx (cls : Nat) (mgmt : Bool) : TxFrame := ⟨0, cls, mgmt, none, { frm with src := 2 }⟩

theorem wit_txPick : let s := sendable (255 * 2 ^ 49) [tx 0 false]
    s.dev.linkIsUp 0 = true ∧ s.dev.loops 0 = false ∧ (s.dev.mac 0).delayed = [] ∧ (s.dev.mac 0).hold = 0 ∧ bit (s.dev.reg (R.ethMacStatus 0)) 62 = false ∧ s.dev.fld (R.ethInj 0) 63 62 ≠ 1 ∧ (s.dev.mac 0).side = none
      ∧ s.dev.txq.find? (fun t => t.frame.mac == 0 && s.dev.tier1 0 t) = some (tx 0 false) ∧ s.dev.lifOf (tx 0 false).frame = some 0 ∧ s.dev.lifMsec 0 = false
      ∧ (up tenant).dev.linkIsUp 0 = false ∧ bit (ready.dev.reg (R.ethMacStatus 0)) 62 = true := by decide +kernel

/-- R308: tier 1 in the order in which its frames became ready; without LAT_MASK only the management frame is in it. -/
theorem test_txPick : let s := sendable (255 * 2 ^ 49) [tx 0 false, tx 0 true]
    let b := sendable 0 [tx 0 false, tx 0 true]
    (nx (.ethTxPick 0) s).dev.txq = [tx 0 true] ∧ (nx (.ethTxPick 0) b).dev.txq = [tx 0 false] ∧ (nx (.ethTxPick 0) s).dev.reg (R.ethCnt 0 2) = 1 := by decide +kernel

def assoc0 : Assoc := ⟨true, 0x77, 5, 0, 0, [], [], [], false⟩
def secure (l : List TxFrame) (a : Tab Assoc) : State :=
  (ethOn (255 * 2 ^ 49) 0 (lif0 (2 ^ 10))).onDev (fun d => { d with txq := l, assoc := a })

theorem wit_txMsec : let s := secure [tx 0 false] [(assocKey 0 0 0 2, assoc0)]
    s.dev.lifMsec 0 = true ∧ s.dev.txAssoc 0 = some (2, assoc0) ∧ (secure [tx 0 false] []).dev.txAssoc 0 = none ∧ s.dev.lifOf (tx 0 false).frame = some 0
      ∧ assoc0.pn < 2 ^ 32 ∧ bit (s.dev.reg (R.lifCfg 0)) 8 = false ∧ (nx (.ethTxPick 0) (secure [tx 0 false] [])).dev.reg (R.ethCnt 0 27) = 1
      ∧ (Tab.find (nx (.ethTxPick 0) s).dev.assoc (assocKey 0 0 0 2)).map (·.pn) = some 6 := by decide +kernel

theorem wit_txDrr : let s := (sendable 0 [tx 0 false]).onDev (fun d => { (d.modMac 0 (fun x => { x with drrFed := true, drrNext := 0 })) with deficit := [(0, 128)] })
    s.dev.txq.find? (fun t => t.frame.mac == 0 && s.dev.tier1 0 t) = none ∧ (s.dev.mac 0).drrNext = 0 ∧ s.dev.drrHead 0 0 = some (tx 0 false)
      ∧ (s.dev.mac 0).drrFed = true ∧ (tx 0 false).frame.length ≤ s.dev.deficitOf 0 0 := by decide +kernel

/-- A frame that a delay holds, when its time is over. -/
theorem wit_txDelayed : let s := (ethOn 0 0 []).onDev (fun d => d.modMac 0 (fun x => { x with delayed := [ftx] }))
    let h := pfcOn.onDev (fun d => d.modMac 0 (fun x => { x with delayed := [ftx], pfcHold := [(0, 5)] }))
    (s.dev.mac 0).delayed.find? (fun y => !s.dev.frameHeld 0 y) = some ftx ∧ s.dev.linkIsUp 0 = true ∧ s.dev.loops 0 = false ∧ (s.dev.mac 0).hold = 0
      ∧ ((nx (.ethTxPick 0) s).dev.mac 0).onWire = some frm ∧ ((nx (.ethTxPick 0) s).dev.mac 0).delayed = []
      ∧ h.dev.frameHeld 0 ftx = true ∧ ((nx (.ethTxPick 0) h).dev.mac 0).onWire = none ∧ ((nx (.ethTxPick 0) h).dev.mac 0).delayed = [ftx] := by decide +kernel

/-- R312: under ACTION 4 the frame sent meets the MAC's own receive checks. -/
theorem wit_txLoop : let s := (sendable (255 * 2 ^ 49) [tx 0 false]).onDev (fun d => d.setReg (R.ethInj 0) (injWord 1 4))
    let S := s.onDev (fun d => d.txPick 0)
    s.dev.loops 0 = true ∧ (S.dev.mac 0).onWire.isSome = true ∧ S.dev.loops 0 = true ∧ (nx (.ethTxPick 0) s).dev.reg (R.ethCnt 0 12) = 1 := by decide +kernel

/-- R312, R306: a released side slot starts its frame, but not of a class that PFC holds. -/
theorem wit_txReorder : let f := fun (d : Dev) => d.modMac 0 (fun x => { x with side := some (ftx, 0, false) })
    let s := (ethOn 0 0 []).onDev f
    let h := (pfcOn.onDev f).onDev (fun d => d.modMac 0 (fun x => { x with pfcHold := [(0, 5)] }))
    (s.dev.mac 0).side = some (ftx, 0, false) ∧ s.dev.frameHeld 0 ftx = false ∧ ((nx (.ethTxPick 0) s).dev.mac 0).onWire = some frm
      ∧ (h.dev.mac 0).side = some (ftx, 0, false) ∧ h.dev.frameHeld 0 ftx = true ∧ h.dev.txq = [] ∧ h.dev.linkIsUp 0 = true
      ∧ ((nx (.ethTxPick 0) h).dev.mac 0).onWire = none := by decide +kernel
/-! ## Supplies, starts, caps, the sideband -/

def inPhase (ph : BootPh) (l : List (Nat × W64)) : State :=
  { up l with dev := { (up l).dev with boot := { (up l).dev.boot with ph := ph } }, flash := Flash.reset.setLog [⟨1, false, 0, 0, 2⟩] }

theorem wit_supplies : let s := inPhase .starting []
    let off := { State.reset with dev := { Dev.reset with boot := { Boot.reset with ph := .off, pwrEn := false, pwrGood := false } } }
    s.dev.boot.pwrGood = true ∧ s.dev.running = true ∧ s.dev.boot.ph = .starting ∧ s.flash.log.getLast? = some ⟨1, false, 0, 0, 2⟩
      ∧ off.dev.boot.standby = true ∧ off.dev.boot.pwrEn = false ∧ (up []).dev.boot.ph ≠ .starting := by decide +kernel

/-- R461, R465: supplies; R462: a pulse of 1 cycle is ignored, one of 4 resets. -/
theorem test_supplies : let s := up []
    (nx .pwrEnDeassert s).dev.boot.pwrGood = false ∧ (nx (.vinFault true) s).dev.boot.latched = true ∧ (nx (.thermalTrip .inlet) s).dev.boot.thermTrip = true
      ∧ (nx (.modResetAssert 1) s).dev.boot.ph = .up ∧ (nx (.modResetAssert 4) s).dev.boot.ph = .inReset
      ∧ (nx .standbyLoss (inPhase .starting [])).flash.log = [⟨1, false, 0, 0, 2⟩] := by decide +kernel

def inReset (cycle : BitVec 2) (n : Nat) (e : Byte) : State :=
  { State.reset with
    fuse := { Fuses.reset with lifecycle := cycle }
    flash := (Flash.reset.setMirror n).setLog [⟨1, false, e, 0, if e = 0x11 then 3 else 2⟩] }

theorem wit_release : let s := inReset 1 3 0
    (inReset 2 0 0).fuse.lifecycle = 2 ∧ s.dev.boot.ph = .inReset ∧ s.dev.boot.pwrGood = true ∧ max (s.dev.fld R.bootStatus 63 60) s.flash.mirror = 3
      ∧ (inReset 1 0 0x11).flash.logCut.plinthAsked = true ∧ (inReset 1 0 0).flash.logCut.plinthAsked = false ∧ s.fuse.lifecycle ≠ 2 := by decide +kernel

/-- R429: the breakout modes are tried in turn while there is no link and (Config.configRecord is opaque) no configuration record. -/
theorem wit_plinthTry (h : Flash.reset.config = none) : let s := up [(R.bootStatus, BitVec.ofNat 64 (2 ^ 55))]
    s.flash.config = none ∧ bit (s.dev.reg (R.ethMacStatus 0)) 63 = false := ⟨h, by decide +kernel⟩

theorem wit_caps : let s := up [(R.pwrStatus, BitVec.ofNat 64 (2 ^ 25)), (R.alertCtrl, 1)]
    s.dev.running = true ∧ s.dev.fld R.pwrStatus 31 25 = 1 ∧ s.dev.boot.pwrGood = true ∧ bit (s.dev.reg R.alertCtrl) 0 = true
      ∧ (s.onDev (fun d => { d with boot := { d.boot with hot := true } })).dev.boot.hot = true ∧ (0 : W64).toNat < 104 := by decide +kernel

/-- R464: the inlet table at its ends, at points within, and 475 W at 45.2 °C as in its example. -/
theorem test_caps : let f := fun (c : BitVec 16) => (nx (.inletUpdate c) (up [])).dev.fld R.pwrCap 47 38
    f 4000 = 600 ∧ f 4500 = 480 ∧ f 4520 = 475 ∧ f 4700 = 432 ∧ f 5000 = 360 ∧ f 5001 = 250 ∧ f 5499 = 250 ∧ (nx (.inletUpdate 5500) (up [])).dev.boot.thermTrip = true
      ∧ (nx (.powerControlPeriod 3000 120 105 0) (up [])).dev.boot.thermTrip = true := by
  decide +kernel

theorem wit_sideband : let s := (up []).onDev (fun d => { (d.setReg R.alertCtrl 1) with boot := { d.boot with alertLow := true } })
    s.dev.boot.standby = true ∧ s.dev.boot.alertLow = true ∧ bit (s.dev.reg R.alertCtrl) 0 = true
      ∧ (List.range 8).all (fun i => bit (3 : BitVec 8) i == [true, true, false, false, false, false, false, false].getD i false) = true := by decide +kernel

/-- R459, R463: the cap of the sideband at its bounds. -/
theorem test_sideband : let f := fun (n : BitVec 16) => ((nx (.smbCap (some ⟨n, none⟩)) (up [])).dev.fld R.pwrCap 37 28, (nx (.smbCap (some ⟨n, none⟩)) (up [])).dev.boot.smbNack)
    f 250 = (250, false) ∧ f 249 = (600, true) ∧ f 600 = (600, false) ∧ f 601 = (600, true)
      ∧ (nx .smbFruRead (nx (.smbFruPtr ⟨2047, none⟩) (up []))).dev.boot.fruPtr = 31 := by decide +kernel

/-- A write with the right PEC and one with a wrong PEC (the address byte rests on Config.smbStrap, so the PEC is not evaluated here). -/
theorem wit_sidebandPec (code : Byte) (n : BitVec 16) : let c := smbCrc ([smbAddr false, code] ++ leBytes 2 n.toNat)
    (SmbWord.mk n (some c)).pec = some c ∧ (SmbWord.mk n (some (c + 1))).pec ≠ none ∧ (SmbWord.mk n (some (c + 1))).pec ≠ some c := by
  refine ⟨rfl, by simp, ?_⟩
  intro h
  have := Option.some.inj h
  bv_omega

/-- The polynomial x^8 + x^2 + x + 1 of the CRC of one byte. -/
theorem test_smbCrc : smbCrc [0x01] = 0x07 ∧ smbCrc [0x80] = 0x89 := by decide +kernel

/-! ## Rules over many commands -/

theorem wit_unreached : ((Instr.pwrCapWrite (.tenantCode 0) 300, R.pwrCap) ∈ regRows (.tenantCode 0) 0 .f 0 0 0 0 300) ∧ okW (up tenant) (.tenantCode 0) R.pwrCap = false
    ∧ okW State.reset .owner (R.seqCtrl 0 .f) = false := by decide +kernel

def astray : State := up (tenant ++ [(R.seqPc 0 .f, BitVec.ofNat 64 (2 ^ 46)), (R.seqStatus 0 .f, BitVec.ofNat 64 (2 ^ 52))])

/-- The sequencer stands at the last word of its bonded SRAM slice. -/
def lastWord : State := up (tenant ++ [(R.seqPc 0 .f, BitVec.ofNat 64 (sramBase 0 + 2 ^ 28 - 8)), (R.seqStatus 0 .f, BitVec.ofNat 64 (2 ^ 52))])

/-- R118: at the last word a one-word instruction may be fetched, a two-word one may not. -/
theorem wit_refused : (run []).dev.seqReady 0 .f = true ∧ bit ((run []).dev.reg (R.seqStatus 0 .f)) 0 = false ∧ fetchOk 0 ((run []).dev.pc 0 .f) false = true
    ∧ fetchOk 0 ((run []).dev.pc 0 .f) true = true ∧ astray.dev.seqReady 0 .f = true ∧ fetchOk 0 (astray.dev.pc 0 .f) false = false
    ∧ fetchOk 0 (lastWord.dev.pc 0 .f) false = true ∧ fetchOk 0 (lastWord.dev.pc 0 .f) true = false := by decide +kernel

/-- R122: a HALT with an unused field set is refused with BAD_DESCRIPTOR. -/
theorem test_refused : (nx (.halt 0 .f ⟨false, 1, 0, 0, 0, 0⟩) (run [])).dev.seqState 0 .f = 5 ∧ (nx (.halt 0 .f ⟨false, 1, 0, 0, 0, 0⟩) (run [])).dev.fld (R.seqStatus 0 .f) 63 56 = 1 := by
  decide +kernel

theorem reset_inv : State.reset.Inv := by constructor <;> decide

/-- A step in which a counter counts, from a state that meets the invariant. -/
theorem wit_invariant : (match step State.reset with
    | .next t => t.flash.mirror == 0
    | _ => false) = true := by decide +kernel

/-! ## Ill-formed commands, words -/

def bigReq : Req := { req 0 [] with payload := List.replicate 9083 0 }

/-- Each check of `Instr.wellFormed` refuses a term, and passes one at its bound. -/
theorem test_wellFormed : Instr.wellFormed (.regRead bigReq) = false ∧ Instr.wellFormed (.regRead { req 0 [] with payload := List.replicate 9082 0 }) = true
    ∧ Instr.wellFormed (.ack { ackTo 0 with sacks := List.replicate 9 (0, 0) }) = false ∧ Instr.wellFormed (.ack { ackTo 0 with credits := List.replicate 17 (0, 0, 0) }) = false
    ∧ Instr.wellFormed (.ack { ackTo 0 with sacks := List.replicate 8 (0, 0), credits := List.replicate 16 (0, 0, 0) }) = true
    ∧ Instr.wellFormed (.ethRxFrame { frm with length := 7 }) = false ∧ Instr.wellFormed (.ethRxFrame { frm with pauseTimes := List.replicate 9 0 }) = false
    ∧ Instr.wellFormed (.pfcReceive 0 0 (List.replicate 9 0)) = false ∧ Instr.wellFormed (.supplyDroop 0 0) = false := by decide +kernel

/-- No row of the opcode table gives bits. -/
theorem test_decode (n w : Nat) : decodeTableWord n w = none ∧ State.reset.withFetchWord n w = State.reset := ⟨rfl, rfl⟩

/-- The words of the worked example behind R140 (spec/05), bit for bit. -/
theorem test_words : encS 0x10 ⟨false, 0, 10, 0, 3, 0⟩ = 0x1000140000000003 ∧ encT 0x20 ⟨false, 0, 0, 0x14, 0x1E, 0, 0x0100, 0⟩ = 0x200000141E000100
    ∧ encT 0x50 ⟨true, 2, 0x28, 0x20, 0, 0, 5, 0x002FFF0100000000⟩ = 0x5082282000000005 ∧ encS 0x11 ⟨false, 8, 12, 0, 1, 0⟩ = 0x1120180000000001
    ∧ bits (0x002FFF0100000000 : W64) 63 40 = 12287 ∧ bits (0x002FFF0100000000 : W64) 39 24 = 0x100
    ∧ decT 0x200000141E000100 0 = ⟨false, 0, 0, 0x14, 0x1E, 0, 0x0100, 0⟩ := by decide +kernel

end Sys2Proof.Tests
end

section
/-! SUPPORT. Field maps of registers by block, the machine in reset (R9, R133, R138, R403) and one step of it. -/
namespace Sys2Proof.Machine

/-! ## Field maps and reset values -/

/-- The register at offset `l` of a partition block has the block's field map there (R453). -/
theorem regFields_part (p : PartId) (l : Nat) (h : l < 0x10000) (h8 : l % 8 = 0) : regFields (R.part p l) = partFields l := by
  have hp := p.isLt
  have hm : R.part p l % 0x10000 = l := by unfold R.part; omega
  have hb : R.part p l % 8 = 0 ∧ 0x100000 ≤ R.part p l ∧ R.part p l < 0x200000 := by unfold R.part; omega
  unfold regFields
  simp (disch := omega) only [hm, if_neg, if_pos]

theorem regFields_syncCnt (p : PartId) (c : Nat) : regFields (R.syncCnt p c) = f1 31 0 .rw 0 := by
  rw [R.syncCnt, regFields_part p _ (by omega) (by omega)]
  unfold partFields
  simp (disch := omega) only [if_neg, if_pos]

theorem regReset_syncCnt (p : PartId) (c : Nat) : regReset (R.syncCnt p c) = 0 := by
  rw [regReset, regFields_syncCnt]
  decide

theorem regReset_seqStatus (p : PartId) (x : Seq) : regReset (R.seqStatus p x) = 0 := by
  rw [regReset, R.seqStatus, regFields_part p _ (by cases x <;> decide) (by cases x <;> decide)]
  cases x <;> decide

theorem regReset_prstStatus (p : PartId) : regReset (R.prstStatus p) = 0 := by
  rw [regReset, R.prstStatus, regFields_part p _ (by decide) (by decide)]
  decide

/-! ## The machine in reset -/

/-- In reset no register is listed, so each reads its reset value (R9). -/
theorem State.reset_reg (o : Nat) : State.reset.dev.reg o = regReset o := rfl

/-- A field of a register whose reset value is 0. -/
theorem State.reset_fld (o hi lo : Nat) (h : regReset o = 0) : State.reset.dev.fld o hi lo = 0 := by
  simp [Dev.fld, State.reset_reg, h, bits]

/-- Settles O2: each register named has reset value 0. -/
theorem resetLeavesStoppedMachine : Obligations.ResetLeavesStoppedMachine := by
  refine ⟨State.reset_reg, ?_, ?_, ?_, rfl⟩
  · intro p c
    rw [Dev.ctr, State.reset_reg, regReset_syncCnt]
    rfl
  · exact fun p x => State.reset_fld _ _ _ (regReset_seqStatus p x)
  · intro p
    have hf := State.reset_fld (R.prstStatus p) 51 48 (regReset_prstStatus p)
    exact ⟨by simp [Dev.fenced, hf], State.reset_fld _ _ _ (regReset_prstStatus p)⟩

/-! ## One step -/

/-- Settles O1, by the definition of a step. -/
theorem stepRunsFrontCommand : Obligations.StepRunsFrontCommand := by
  intro c rest s h
  unfold step
  rw [h]

end Sys2Proof.Machine
end

section
/-! SUPPORT. Control space: where a write of a register arrives, registers without a rule of their own, reads, REG_READ and REG_WRITE (R6, R7,
R336). -/
namespace Sys2Proof.Machine

/-! ## Words written as runs of fields -/

theorem Dev.reg_setFlds_same (d : Dev) (o : Nat) (l : List (Nat × Nat × Nat)) :
    (d.setFlds o l).reg o = l.foldl (fun w f => putBits w f.1 f.2.1 f.2.2) (d.reg o) := by
  induction l generalizing d with
  | nil => rfl
  | cons f t ih =>
    show ((d.setFld o f.1 f.2.1 f.2.2).setFlds o t).reg o = _
    rw [ih, Dev.reg_setFld_same]
    rfl

/-- Storing the word that a run of field writes gives sets those fields and nothing else. -/
theorem setsFields_setReg (o : Nat) (l : List (Nat × Nat × Nat)) (s : State) (w : W64) (hl : fldsOk l = true)
    (hv : ∀ f ∈ l, f.2.2 < 2 ^ (f.1 + 1 - f.2.1)) (hw : w = l.foldl (fun w f => putBits w f.1 f.2.1 f.2.2) (s.dev.reg o)) :
    setsFields o l s { s with dev := s.dev.setReg o w } := by
  obtain ⟨_, hfld, hbit⟩ := setsFields_setFlds o l s hl hv
  have hr : (s.dev.setReg o w).reg o = (s.dev.setFlds o l).reg o := by rw [Dev.reg_setReg_same, Dev.reg_setFlds_same, hw]
  refine ⟨onlyRegs_of _ s _ rfl fun k hk => Dev.reg_setReg_other _ _ _ _ (by simpa using hk), ?_, ?_⟩
  · intro f hf
    rw [← hfld f hf]
    simp only [Dev.fld, hr]
  · intro i hi hn
    rw [← hbit i hi hn]
    simp only [hr]

/-- A write of a register that has RW fields only puts each field's bits (R7). -/
theorem writeWord_rw (fs : List Fld) (l : List (Nat × Nat)) (old v : W64)
    (h : fs.map (fun f => (f.hi, f.lo, f.acc)) = l.map (fun f => (f.1, f.2, .rw))) :
    writeWord fs old v = (l.map (fun f => (f.1, f.2, bits v f.1 f.2))).foldl (fun w f => putBits w f.1 f.2.1 f.2.2) old := by
  induction fs generalizing l old with
  | nil =>
    obtain rfl : l = [] := by simpa using h.symm
    rfl
  | cons f t ih =>
    cases l with
    | nil => simp at h
    | cons g u =>
      simp only [List.map_cons, List.cons.injEq, Prod.mk.injEq] at h
      obtain ⟨⟨hhi, hlo, hacc⟩, ht⟩ := h
      show writeWord t (writeFld v old f) v = _
      rw [ih u _ ht, writeFld, hacc, hhi, hlo]
      rfl

/-- Fields of a register that are RW, as pairs of high and low bit, and no others. -/
def rwFields (o : Nat) (l : List (Nat × Nat)) : Prop :=
  (regFields o).map (fun f => (f.hi, f.lo, f.acc)) = l.map (fun f => (f.1, f.2, .rw)) ∧ fldsOk (l.map (fun f => (f.1, f.2, 0))) = true

theorem fldsOk_congr (l : List (Nat × Nat)) (g h : Nat × Nat → Nat) :
    fldsOk (l.map (fun f => (f.1, f.2, g f))) = fldsOk (l.map (fun f => (f.1, f.2, h f))) := by
  induction l with
  | nil => rfl
  | cons f t ih => simp [fldsOk, ih, List.all_map, Function.comp_def]

/-- The generic write of a register with RW fields only sets them to the word's bits and nothing else (R7). -/
theorem setsFields_writeReg (o : Nat) (l : List (Nat × Nat)) (s : State) (v : W64) (h : rwFields o l) :
    setsFields o (l.map (fun f => (f.1, f.2, bits v f.1 f.2))) s { s with dev := s.dev.writeReg o v } := by
  obtain ⟨hf, hok⟩ := h
  refine setsFields_setReg o _ s _ ?_ ?_ (writeWord_rw _ l _ v hf)
  · rw [← hok]
    exact fldsOk_congr l (fun f => bits v f.1 f.2) (fun _ => 0)
  · intro f hm
    obtain ⟨g, _, rfl⟩ := List.mem_map.mp hm
    exact bits_lt v g.1 g.2

/-! ## Where a write arrives -/

section
variable (s : State) (a : Agent) (o : Nat) (v : W64)

/-- A write has no rule of its own: it is taken and stores the register's fields (R7). -/
def State.plainPut : Prop := s.ctlPut a o v = ({ s with dev := s.dev.writeReg o v }, none)

theorem State.ctlPut_part (p : PartId) (l : Nat) (h : l < 0x10000) :
    s.ctlPut a (R.part p l) v = ({ s with dev := (s.dev.partPut a p l v).1 }, (s.dev.partPut a p l v).2) := by
  have hp := p.isLt
  have hb : R.part p l / 0x10000 = 16 + p.val := by unfold R.part; omega
  have hl : R.part p l % 0x10000 = l := by unfold R.part; omega
  have hq : (Fin.ofNat 16 (16 + p.val) : PartId) = p := by apply Fin.ext; simp
  unfold State.ctlPut
  rw [if_pos (by unfold R.part; omega), hb, hl, hq]

theorem State.ctlPut_eth (h1 : 0x30000 ≤ o) (h2 : o < 0x40000) :
    s.ctlPut a o v = ({ s with dev := (s.dev.ethPut o v).1 }, (s.dev.ethPut o v).2) := by
  unfold State.ctlPut
  simp (disch := omega) only [if_neg, if_pos]

theorem State.ctlPut_tp (h1 : 0x40000 ≤ o) (h2 : o < 0x50000) :
    s.ctlPut a o v = ({ s with dev := (s.dev.tpPut o v).1 }, (s.dev.tpPut o v).2) := by
  unfold State.ctlPut
  simp (disch := omega) only [if_neg, if_pos]

theorem State.ctlPut_tail (h1 : 0x50000 ≤ o) (h2 : o < 0x100000) :
    s.ctlPut a o v = ({ s with dev := (s.dev.tailPut o v).1 }, (s.dev.tailPut o v).2) := by
  unfold State.ctlPut
  simp (disch := omega) only [if_neg]

/-! ## Registers without a rule of their own -/

theorem State.plainPut_castCtrl (p : PartId) : s.plainPut a (R.castCtrl p) v := by
  unfold State.plainPut R.castCtrl
  rw [State.ctlPut_part s a v p 0x138 (by decide)]
  rfl

/-- The addresses of an interface: none of the Ethernet block's special registers, and of no MAC. -/
theorem State.plainPut_lif (h1 : 0x32000 ≤ o) (h2 : o < 0x34000) (h3 : o % 64 < 0x18) : s.plainPut a o v := by
  have hm : s.dev.macAbsent o = false := by
    simp only [Dev.macAbsent, Bool.or_eq_false_iff, Bool.and_eq_false_iff, decide_eq_false_iff_not]
    exact ⟨.inl (.inr (by omega)), .inl (.inl (by omega))⟩
  unfold State.plainPut
  rw [State.ctlPut_eth s a o v (by omega) (by omega)]
  unfold Dev.ethPut R.ethPortCfg R.ethInjSeed R.msecCommit R.serdesCtrl
  simp (disch := omega) only [hm, Bool.false_and, Bool.false_eq_true, if_false, if_neg, if_pos]
  rfl

/-- The addresses of a relay entry: its RLY_CFG, 16 bytes on, is the one with a rule. -/
theorem State.plainPut_rly (h1 : 0x40400 ≤ o) (h2 : o < 0x40A00) (h3 : (o - 0x40400) % 24 ≠ 16) : s.plainPut a o v := by
  unfold State.plainPut
  rw [State.ctlPut_tp s a o v (by omega) (by omega)]
  unfold Dev.tpPut R.tpCfg R.tpCc
  simp (disch := omega) only [if_neg]
  rfl

/-- MBOX_ACL and the addresses of an incident destination. -/
theorem State.plainPut_tail (h : 0x50A40 ≤ o ∧ o < 0x50AC0 ∨ 0x80200 ≤ o ∧ o < 0x80300) : s.plainPut a o v := by
  unfold State.plainPut
  rw [State.ctlPut_tail s a o v (by omega) (by omega)]
  unfold Dev.tailPut R.jrnExport R.rubCfg R.pwrCap R.thermStatus R.indCtrl R.alertCtrl
  simp (disch := omega) only [if_neg]
  rfl

end

/-! ## Field maps of the plain registers -/

theorem rwFields_castCtrl (p : PartId) : rwFields (R.castCtrl p) [(63, 56), (55, 28), (27, 0)] := by
  unfold rwFields
  rw [R.castCtrl, regFields_part p _ (by decide) (by decide)]
  decide

theorem regFields_eth (o : Nat) (h8 : o % 8 = 0) (h1 : 0x30000 ≤ o) (h2 : o < 0x40000) : regFields o = ethFields o := by
  unfold regFields
  simp (disch := omega) only [if_neg, if_pos]

theorem regFields_tp (o : Nat) (h8 : o % 8 = 0) (h1 : 0x40000 ≤ o) (h2 : o < 0x50000) : regFields o = tpFields o := by
  unfold regFields
  simp (disch := omega) only [if_neg, if_pos]

theorem regFields_tail (o : Nat) (h8 : o % 8 = 0) (h1 : 0x50000 ≤ o) (h2 : o < 0xA0000) : regFields o = tailFields o := by
  unfold regFields
  simp (disch := omega) only [if_neg, if_pos]

theorem ethFields_lif (o : Nat) (h1 : 0x32000 ≤ o) (h2 : o < 0x34000) :
    (o % 64 = 0 ∨ o % 64 = 8 → ethFields o = fAll .rw) ∧ (o % 64 = 16 → ethFields o = f1 47 0 .rw 0) := by
  unfold ethFields
  simp (disch := omega) only [if_neg, if_pos]
  refine ⟨?_, fun h => by simp only [h]⟩
  rintro (h | h) <;> simp only [h]

theorem tpFields_rlyIp (o : Nat) (h1 : 0x40400 ≤ o) (h2 : o < 0x40A00) (h3 : (o - 0x40400) % 24 = 0 ∨ (o - 0x40400) % 24 = 8) :
    tpFields o = fAll .rw := by
  unfold tpFields
  simp (disch := omega) only [if_neg, if_pos]
  obtain h | h := h3 <;> simp only [h]

theorem tailFields_mboxAcl (n : Nat) : tailFields (R.mboxAcl n)
    = [⟨63, 48, .rw, 0xFFFF⟩, ⟨47, 32, .rw, 0xFFFF⟩, ⟨31, 16, .rw, 0xFFFF⟩, ⟨15, 0, .rw, 0xFFFF⟩] := by
  unfold tailFields R.mboxAcl
  simp (disch := omega) only [if_neg, if_pos]

theorem tailFields_incIp (o : Nat) (h1 : 0x80200 ≤ o) (h2 : o < 0x80300) : tailFields o = fAll .rw := by
  unfold tailFields
  simp (disch := omega) only [if_neg, if_pos]

/-- A register that is one RW field from bit `hi` down. -/
theorem rwFields_of_single (o hi rst : Nat) (h64 : hi < 64) (h : regFields o = f1 hi 0 .rw rst) : rwFields o [(hi, 0)] := by
  refine ⟨by rw [h]; rfl, ?_⟩
  simp [fldsOk, h64]

/-- What the plain registers share: RW fields only, and no rule of their own. -/
def PlainReg (o : Nat) (l : List (Nat × Nat)) : Prop := rwFields o l ∧ ∀ (s : State) (a : Agent) (v : W64), s.plainPut a o v

theorem plainReg_castCtrl (p : PartId) : PlainReg (R.castCtrl p) [(63, 56), (55, 28), (27, 0)] :=
  ⟨rwFields_castCtrl p, fun s a v => s.plainPut_castCtrl a v p⟩

theorem plainReg_lifIp (o : Nat) (h1 : 0x32000 ≤ o) (h2 : o < 0x34000) (h3 : o % 64 = 0 ∨ o % 64 = 8) : PlainReg o [(63, 0)] :=
  ⟨rwFields_of_single o 63 0 (by decide) ((regFields_eth o (by omega) (by omega) (by omega)).trans ((ethFields_lif o h1 h2).1 h3)),
    fun s a v => s.plainPut_lif a o v h1 h2 (by omega)⟩

theorem plainReg_lifNh (n : Nat) : PlainReg (R.lifNh n) [(47, 0)] := by
  have h1 : 0x32000 ≤ R.lifNh n ∧ R.lifNh n < 0x34000 ∧ R.lifNh n % 64 = 16 := by unfold R.lifNh; omega
  obtain ⟨hlo, hhi, hm⟩ := h1
  exact ⟨rwFields_of_single _ 47 0 (by decide) ((regFields_eth _ (by omega) (by omega) (by omega)).trans ((ethFields_lif _ hlo hhi).2 hm)),
    fun s a v => s.plainPut_lif a _ v hlo hhi (by omega)⟩

theorem plainReg_rlyIp (o : Nat) (h1 : 0x40400 ≤ o) (h2 : o < 0x40A00) (h3 : (o - 0x40400) % 24 = 0 ∨ (o - 0x40400) % 24 = 8) :
    PlainReg o [(63, 0)] :=
  ⟨rwFields_of_single o 63 0 (by decide) ((regFields_tp o (by omega) (by omega) (by omega)).trans (tpFields_rlyIp o h1 h2 h3)),
    fun s a v => s.plainPut_rly a o v h1 h2 (by omega)⟩

theorem plainReg_mboxAcl (n : Nat) : PlainReg (R.mboxAcl n) [(63, 48), (47, 32), (31, 16), (15, 0)] := by
  refine ⟨?_, fun s a v => s.plainPut_tail a _ v (.inl (by unfold R.mboxAcl; omega))⟩
  unfold rwFields
  rw [regFields_tail _ (by unfold R.mboxAcl; omega) (by unfold R.mboxAcl; omega) (by unfold R.mboxAcl; omega), tailFields_mboxAcl]
  decide

theorem plainReg_incIp (o : Nat) (h1 : 0x80200 ≤ o) (h2 : o < 0x80300) (h8 : o % 8 = 0) : PlainReg o [(63, 0)] :=
  ⟨rwFields_of_single o 63 0 (by decide) ((regFields_tail o h8 (by omega) (by omega)).trans (tailFields_incIp o h1 h2)),
    fun s a v => s.plainPut_tail a o v (.inr ⟨h1, h2⟩)⟩

/-- The plain registers with the bits of their fields. -/
def plainRegs (p : PartId) (n : Nat) (ten : TenantId) : List (Nat × List (Nat × Nat)) :=
  [(R.castCtrl p, [(63, 56), (55, 28), (27, 0)]), (R.lifIp0 n, [(63, 0)]), (R.lifIp1 n, [(63, 0)]), (R.lifNh n, [(47, 0)]),
    (R.rlyIp0 n, [(63, 0)]), (R.rlyIp1 n, [(63, 0)]), (R.mboxAcl n, [(63, 48), (47, 32), (31, 16), (15, 0)]), (R.incIp0 ten, [(63, 0)]),
    (R.incIp1 ten, [(63, 0)])]

theorem plainReg_of_mem {p : PartId} {n : Nat} {ten : TenantId} {o : Nat} {l : List (Nat × Nat)} (h : (o, l) ∈ plainRegs p n ten) :
    PlainReg o l := by
  have ht := ten.isLt
  simp only [plainRegs, List.mem_cons, Prod.mk.injEq, List.not_mem_nil, or_false] at h
  obtain ⟨rfl, rfl⟩ | ⟨rfl, rfl⟩ | ⟨rfl, rfl⟩ | ⟨rfl, rfl⟩ | ⟨rfl, rfl⟩ | ⟨rfl, rfl⟩ | ⟨rfl, rfl⟩ | ⟨rfl, rfl⟩ | ⟨rfl, rfl⟩ := h
  · exact plainReg_castCtrl p
  · exact plainReg_lifIp _ (by unfold R.lifIp0; omega) (by unfold R.lifIp0; omega) (by unfold R.lifIp0; omega)
  · exact plainReg_lifIp _ (by unfold R.lifIp1; omega) (by unfold R.lifIp1; omega) (by unfold R.lifIp1; omega)
  · exact plainReg_lifNh n
  · exact plainReg_rlyIp _ (by unfold R.rlyIp0; omega) (by unfold R.rlyIp0; omega) (by unfold R.rlyIp0; omega)
  · exact plainReg_rlyIp _ (by unfold R.rlyIp1; omega) (by unfold R.rlyIp1; omega) (by unfold R.rlyIp1; omega)
  · exact plainReg_mboxAcl n
  · exact plainReg_incIp _ (by unfold R.incIp0; omega) (by unfold R.incIp0; omega) (by unfold R.incIp0; omega)
  · exact plainReg_incIp _ (by unfold R.incIp1; omega) (by unfold R.incIp1; omega) (by unfold R.incIp1; omega)

/-! ## Checked accesses -/

section
variable {s : State} {a : Agent} {o : Nat}

theorem State.regPut_refused {c : Status} (v : W64) (h : s.dev.ctlCheck a true o = some c) : s.regPut a o v = (s, some c) := by
  unfold State.regPut
  rw [h]

theorem State.regPut_reaches (v : W64) (h : s.dev.ctlCheck a true o = none) : s.regPut a o v = s.ctlPut a o v := by
  unfold State.regPut
  rw [h]

theorem Dev.regGet_reaches {d : Dev} (h : d.ctlCheck a false o = none) : d.regGet a o = .inl (d.peek o, d.readClear o) := by
  unfold Dev.regGet
  rw [h]

end

theorem exec_regWriteGeneric (a : Agent) (off : BitVec 21) (v : W64) (s : State) (h : s.dev.running = true) :
    exec (.regWriteGeneric a off v) s = .next (s.regPut a off.toNat v).1 :=
  onState_eq _ _ _ (if_pos h)

theorem exec_rcRead (a : Agent) (off : BitVec 21) (s : State) (h : s.dev.running = true) (hc : s.dev.ctlCheck a false off.toNat = none) :
    exec (.rcRead a off) s = .next { s with dev := { s.dev.readClear off.toNat with readData := s.dev.peek off.toNat } } := by
  refine onDev_eq _ _ _ ?_
  simp only [h, if_true, Dev.regGet_reaches hc]

/-- Outside the mailboxes a read clears the RC fields and nothing else (R7). -/
theorem Dev.readClear_reg (d : Dev) (o : Nat) (h : ¬(0x50000 ≤ o ∧ o < 0x50A00)) :
    d.readClear o = d.setReg o (clearRc (regFields o) (d.reg o)) := if_neg h

/-! ## Operations on runs of registers (R336) -/

/-- The first register of an operation lies in its own block. -/
@[simp] theorem opOffset_zero (off : Nat) : opOffset off 0 = off := if_pos rfl

/-- An operation that reads one register reads it as a single access does. -/
theorem Dev.regReads_one {d D : Dev} {off : Nat} {l : List Byte} (h : d.regReads off 0 1 = .inl (l, D)) :
    ∃ w, d.regGet .owner off = .inl (w, D) ∧ l = leBytes 8 w.toNat := by
  unfold Dev.regReads at h
  rw [opOffset_zero] at h
  cases hg : d.regGet .owner off with
  | inr c => simp [hg] at h
  | inl e =>
    obtain ⟨w, e⟩ := e
    simp only [hg, Dev.regReads, List.append_nil, Sum.inl.injEq, Prod.mk.injEq] at h
    obtain ⟨rfl, rfl⟩ := h
    exact ⟨w, rfl, rfl⟩

/-- One that writes one register writes it as a single access does. -/
theorem State.regWrites_one {s t : State} {off : Nat} {v : W64} (h : s.regWrites off 0 [v] = (t, none)) :
    s.regPut .owner off v = (t, none) := by
  unfold State.regWrites at h
  rw [opOffset_zero] at h
  cases hp : s.regPut .owner off v with
  | mk u r =>
    cases r with
    | some c => simp [hp] at h
    | none => simpa [hp, State.regWrites] using h

/-- The register at which an operation stops is one of those it writes. -/
theorem State.regWrites_stop_lt {off : Nat} {t : State} {c : Status} {k : Nat} (vs : List W64) (s : State) (j : Nat)
    (h : s.regWrites off j vs = (t, some (c, k))) : k < j + vs.length := by
  induction vs generalizing s j with
  | nil => simp [State.regWrites] at h
  | cons v vs ih =>
    unfold State.regWrites at h
    rw [List.length_cons]
    cases hp : s.regPut .owner (opOffset off j) v with
    | mk u r =>
      cases r with
      | some c' =>
        simp only [hp, Prod.mk.injEq, Option.some.injEq] at h
        omega
      | none =>
        simp only [hp] at h
        have := ih u (j + 1) h
        omega

/-- The words of a REG_WRITE, in payload order. -/
def regWriteWords (r : Req) : List W64 := (List.range (leAt r.payload 8 2)).map (fun k => BitVec.ofNat 64 (leAt r.payload (16 + 8 * k) 8))

section
variable {r : Req} {s : State}

theorem exec_regRead_noOwner (h : s.dev.ownerFlow r.flow = false) :
    exec (.regRead r) s = .next { s with dev := s.dev.nack r 7 St.noPermission 0 } := by
  refine onDev_eq (fun d => d.regRead r) s _ ?_
  simp [Dev.regRead, h]

theorem exec_regWrite_noOwner (h : s.dev.ownerFlow r.flow = false) :
    exec (.regWrite r) s = .next { s with dev := s.dev.nack r 8 St.noPermission 0 } := by
  refine onState_eq (fun s => s.regWrite r) s _ ?_
  simp [State.regWrite, h, State.onDev]

theorem exec_regRead_reply {l : List Byte} {D : Dev} (h : s.dev.ownerFlow r.flow = true) (hh : regHeadOk r.payload false = true)
    (hf : s.dev.regFits r (leAt r.payload 8 2) = true) (hr : s.dev.regReads (leAt r.payload 0 8) 0 (leAt r.payload 8 2) = .inl (l, D)) :
    exec (.regRead r) s = .next { s with dev := D.reply r 7 l } := by
  refine onDev_eq (fun d => d.regRead r) s _ ?_
  simp [Dev.regRead, h, hh, hf, hr]

theorem exec_regWrite_done {t : State} (h : s.dev.ownerFlow r.flow = true) (hh : regHeadOk r.payload true = true)
    (hw : s.regWrites (leAt r.payload 0 8) 0 (regWriteWords r) = (t, none)) : exec (.regWrite r) s = .next t := by
  refine onState_eq (fun s => s.regWrite r) s _ ?_
  unfold regWriteWords at hw
  simp [State.regWrite, h, hh, hw]

theorem exec_regWrite_stopped {t : State} {c : Status} {k : Nat} (h : s.dev.ownerFlow r.flow = true) (hh : regHeadOk r.payload true = true)
    (hw : s.regWrites (leAt r.payload 0 8) 0 (regWriteWords r) = (t, some (c, k))) :
    exec (.regWrite r) s = .next { t with dev := t.dev.nack r 8 c k } := by
  refine onState_eq (fun s => s.regWrite r) s _ ?_
  unfold regWriteWords at hw
  simp [State.regWrite, h, hh, hw, State.onDev]

end

/-! ## Reads and writes of registers by agents -/

/-- ECC_STATUS: three RC counters and the W1C bits. -/
theorem regFields_eccStatus (p : PartId) :
    regFields (R.eccStatus p) = [⟨63, 48, .rc, 0⟩, ⟨47, 32, .rc, 0⟩, ⟨31, 16, .rc, 0⟩, ⟨7, 2, .w1c, 0⟩] := by
  rw [R.eccStatus, regFields_part p _ (by decide) (by decide)]
  rfl

/-- A read of ECC_STATUS clears its three counters and no other bit (R7, R164). -/
theorem setsFields_clearRc_eccStatus (p : PartId) (s : State) : setsFields (R.eccStatus p) [(63, 48, 0), (47, 32, 0), (31, 16, 0)] s
    { s with dev := s.dev.setReg (R.eccStatus p) (clearRc (regFields (R.eccStatus p)) (s.dev.reg (R.eccStatus p))) } := by
  refine setsFields_setReg _ _ s _ (by decide) (by decide) ?_
  rw [regFields_eccStatus]
  rfl

theorem exec_regWriteGeneric_plain {a : Agent} {off : BitVec 21} {v : W64} {s : State} {l : List (Nat × Nat)} (hr : s.dev.running = true)
    (hp : PlainReg off.toNat l) (hc : s.dev.ctlCheck a true off.toNat = none) :
    ∃ t, exec (.regWriteGeneric a off v) s = .next t ∧ setsFields off.toNat (l.map (fun f => (f.1, f.2, bits v f.1 f.2))) s t := by
  refine ⟨_, exec_regWriteGeneric a off v s hr, ?_⟩
  rw [State.regPut_reaches v hc, hp.2 s a v]
  exact setsFields_writeReg _ l s v hp.1

theorem exec_rcRead_clears {a : Agent} {off : BitVec 21} {s : State} (hr : s.dev.running = true)
    (hc : s.dev.ctlCheck a false off.toNat = none) (hm : ¬(0x50000 ≤ off.toNat ∧ off.toNat < 0x50A00)) :
    ∃ t, exec (.rcRead a off) s = .next t ∧ t.dev.readData = s.dev.peek off.toNat ∧ regsBut [off.toNat] s t
      ∧ t.dev.reg off.toNat = clearRc (regFields off.toNat) (s.dev.reg off.toNat) ∧ t.dev.mem = s.dev.mem ∧ t.dev.parts = s.dev.parts := by
  have he := exec_rcRead a off s hr hc
  rw [Dev.readClear_reg _ _ hm] at he
  refine ⟨_, he, rfl, ?_, Dev.reg_setReg_same .., rfl, rfl⟩
  exact fun o ho => Dev.reg_setReg_other _ _ _ _ (by simpa using ho)

theorem exec_rcRead_eccStatus {a : Agent} {off : BitVec 21} {p : PartId} {s : State} (hr : s.dev.running = true)
    (hc : s.dev.ctlCheck a false off.toNat = none) (hp : off.toNat = R.eccStatus p) :
    ∃ t, exec (.rcRead a off) s = .next t ∧ t.dev.readData = s.dev.peek off.toNat ∧ regsBut [off.toNat] s t ∧ t.dev.mem = s.dev.mem
      ∧ t.dev.fld off.toNat 63 48 = 0 ∧ t.dev.fld off.toNat 47 32 = 0 ∧ t.dev.fld off.toNat 31 16 = 0
      ∧ ∀ i, i < 16 → bit (t.dev.reg off.toNat) i = bit (s.dev.reg off.toNat) i := by
  have hm : ¬(0x50000 ≤ off.toNat ∧ off.toNat < 0x50A00) := by rw [hp]; unfold R.eccStatus R.part; omega
  obtain ⟨t, he, hd, hb, hreg, hmem, _⟩ := exec_rcRead_clears hr hc hm
  obtain ⟨_, hf, hbit⟩ := setsFields_clearRc_eccStatus p s
  rw [hp] at hreg hd hb ⊢
  simp only [Dev.fld, Dev.reg_setReg_same, ← hreg] at hf hbit
  refine ⟨t, he, hd, hb, hmem, hf (63, 48, 0) (by simp), hf (47, 32, 0) (by simp), hf (31, 16, 0) (by simp), fun i hi => hbit i (by omega) ?_⟩
  simp only [List.forall_mem_cons, List.not_mem_nil, false_implies, implies_true, and_true]
  omega

/-- Settles O23: each clause is one of the cases above. -/
theorem registersReadAndWrite : Obligations.RegistersReadAndWrite := by
  intro a off p v r s hrun
  refine ⟨?_, ?_, exec_rcRead_clears hrun, exec_rcRead_eccStatus hrun, fun h => ⟨exec_regRead_noOwner h, exec_regWrite_noOwner h⟩, ?_⟩
  · rintro o n ten l hmem rfl hc
    exact exec_regWriteGeneric_plain hrun (plainReg_of_mem hmem) hc
  · intro c hc
    rw [exec_regWriteGeneric a off v s hrun, State.regPut_refused v hc]
  · rintro how o n rfl rfl
    refine ⟨?_, ?_, ?_⟩
    · intro l D hh hf hr
      refine ⟨exec_regRead_reply how hh hf hr, fun h1 => ?_⟩
      rw [h1] at hr
      exact Dev.regReads_one hr
    · intro t hh hw
      refine ⟨exec_regWrite_done how hh hw, fun h1 => ?_⟩
      rw [h1] at hw
      exact State.regWrites_one hw
    · intro t c k hh hw
      have hk := State.regWrites_stop_lt _ s 0 hw
      exact ⟨exec_regWrite_stopped how hh hw, by simpa using hk⟩

end Sys2Proof.Machine
end

section
/-! SUPPORT. Scalar cores: a core's registers, the word it executes, and what loads, stores and AMO do to memory (R109, R110, R124, R165). -/
namespace Sys2Proof.Machine

/-! ## A core's contents -/

/-- An integer register reads as it was last written; x0 reads 0 (R124). -/
theorem Core.getX_putX (x : Core) (rd r : BitVec 5) (v : W64) : (x.putX rd v).getX r = if r = rd ∧ rd ≠ 0 then v else x.getX r := by
  by_cases h0 : rd = 0
  · simp only [Core.putX, h0, if_true, ne_eq, not_true_eq_false, and_false, if_false]
  by_cases hr : r = rd
  · subst hr
    simp only [Core.putX, Core.getX, h0, if_false, ne_eq, not_false_eq_true, and_self, if_true, Tab.get_set_same]
  · have hn : r.toNat ≠ rd.toNat := fun e => hr (BitVec.eq_of_toNat_eq e)
    simp only [Core.putX, Core.getX, h0, if_false, hr, false_and, Tab.get_set_other _ _ _ _ _ hn]

section
variable (x : Core) (rd : BitVec 5) (v : W64)
@[simp] theorem Core.putX_f : (x.putX rd v).f = x.f := by unfold Core.putX; split <;> rfl
@[simp] theorem Core.putX_pc : (x.putX rd v).pc = x.pc := by unfold Core.putX; split <;> rfl
@[simp] theorem Core.putX_wait : (x.putX rd v).wait = x.wait := by unfold Core.putX; split <;> rfl
@[simp] theorem Core.putX_queue : (x.putX rd v).queue = x.queue := by unfold Core.putX; split <;> rfl
@[simp] theorem Core.putX_pairCand : (x.putX rd v).pairCand = x.pairCand := by unfold Core.putX; split <;> rfl
end

/-- A core that writes an integer register and goes on by some words. -/
theorem wroteX_putX_step (x : Core) (rd : BitVec 5) (v : W64) (n : Nat) (h : x.wait = none) :
    wroteX rd v (x.pc + 8 * n) x ((x.putX rd v).step n) :=
  ⟨by simp [Core.step], fun r => Core.getX_putX x rd r v, Core.putX_f .., (Core.putX_wait ..).trans h, Core.putX_queue ..,
    Core.putX_pairCand ..⟩

/-- A core that goes on and writes none, which is a write of x0. -/
theorem wroteX_step (x : Core) (n : Nat) (h : x.wait = none) : wroteX 0 0 (x.pc + 8 * n) x (x.step n) :=
  wroteX_putX_step x 0 0 n h

/-! ## The word that a core executes -/

/-- A core that runs does what the body of its instruction says, for a word that the instruction takes. -/
theorem onState_scalar {s t : State} {p : PartId} {c : Fin 6} {x : Core} {two ok : Bool} {body : State → Core → SOp}
    (h : s.dev.coreRuns p c x (if two then 2 else 1)) (hok : ok = true) (hb : body s x = .go t ∨ body s x = .stay t) :
    onState (fun s => s.scalar p c two ok (body s)) s = .next t := by
  obtain ⟨rfl, hrel, hwait, hpc, hreach⟩ := h
  have hf : s.dev.fetchBad p (s.dev.core p c).pc (if two then 2 else 1) = none := by
    unfold Dev.fetchBad
    rw [if_neg (by simpa using hpc), hreach]
  refine onState_eq _ _ _ ?_
  unfold State.scalar
  obtain hb | hb := hb <;> simp [hrel, hwait, hf, hok, hb]

theorem Dev.wait_of_coreRuns {d : Dev} {p : PartId} {c : Fin 6} {x : Core} {n : Nat} (h : d.coreRuns p c x n) : x.wait = none := by
  obtain ⟨_, _, hwait, _⟩ := h
  exact hwait

theorem onlyCore_setCore (s : State) (p : PartId) (c : Fin 6) (y : Core) : onlyCore p c y s (s.onDev (fun d => d.setCore p c y)) :=
  ⟨rfl, fun _ hu => Dev.part_modPart_other _ _ _ _ hu, Dev.part_modPart_same _ _ _⟩

/-! ## Memory behind a store -/

/-- A little-endian number reads back as it was stored, modulo its bytes (R5). -/
theorem Dev.rdN_of_memWrite {D : Dev} {m : List Host.Cell} {a n v : Nat} (h : D.mem = memWrite m a (leBytes n v)) :
    D.rdN a n = v % 2 ^ (8 * n) := by
  have hr := memRead_memWrite (leBytes n v) m a
  rw [leBytes_length] at hr
  rw [Dev.rdN, h, hr, leNat_leBytes, show (256 : Nat) = 2 ^ 8 from rfl, ← Nat.pow_mul]

theorem Dev.rdN_of_memWrite_word {D : Dev} {m : List Host.Cell} {a : Nat} {v : W64} (h : D.mem = memWrite m a (leBytes 8 v.toNat)) :
    D.rdN a 8 = v.toNat :=
  (Dev.rdN_of_memWrite h).trans (Nat.mod_eq_of_lt v.isLt)

/-- The state behind a store by a core that goes on with contents `y`. -/
def State.stored (s : State) (p : PartId) (c : Fin 6) (y : Core) (a n v : Nat) : State :=
  s.onDev (fun d => (d.wr a (leBytes n v)).setCore p c y)

/-- A store changes its core and the bytes stored, and nothing else. -/
theorem State.stored_spec (s : State) (p : PartId) (c : Fin 6) (y : Core) (a n v : Nat) :
    onlyCore p c y (withMem s (s.stored p c y a n v)) (s.stored p c y a n v)
      ∧ (s.stored p c y a n v).dev.mem = memWrite s.dev.mem a (leBytes n v) ∧ memBut a (a + n) s (s.stored p c y a n v) :=
  ⟨⟨rfl, fun _ hu => Dev.part_modPart_other _ _ _ _ hu, Dev.part_modPart_same _ _ _⟩, rfl,
    fun _ hb => memGet_memWrite_outside _ _ _ _ (by rwa [leBytes_length])⟩

/-! ## LD, ST, AMO and FENCE -/

theorem sizeOk_of_bytes {w : KWord} (h : w.func.toNat = 1 ∨ w.func.toNat = 2 ∨ w.func.toNat = 4 ∨ w.func.toNat = 8) : sizeOk w = true := by
  have hf : w.func = 1 ∨ w.func = 2 ∨ w.func = 4 ∨ w.func = 8 := by bv_omega
  simpa [sizeOk, or_assoc] using hf

/-- A register of control space takes an aligned access of 8 bytes (R6). -/
theorem ctlSize_word {a : Nat} (h : a % 8 = 0) : ctlSize a 8 = none := by simp [ctlSize, refuseIf, h]

theorem exec_ld (p : PartId) (c : Fin 6) (w : KWord) (s : State) : exec (.ld p c w) s = execLd p c w s := rfl
theorem exec_st (p : PartId) (c : Fin 6) (w : KWord) (s : State) : exec (.st p c w) s = execSt p c w s := rfl
theorem exec_amo (p : PartId) (c : Fin 6) (w : KWord) (s : State) : exec (.amo p c w) s = execAmo p c w s := rfl
theorem exec_fence (p : PartId) (c : Fin 6) (w : KWord) (s : State) : exec (.fence p c w) s = execFence p c w s := rfl

section
variable {p : PartId} {c : Fin 6} {w : KWord} {s : State} {x : Core}

theorem ldWord_ok (hx : w.x = false) (h2 : w.rs2 = 0) (hs : sizeOk w = true) : (kBare w true true false true true && sizeOk w) = true := by
  simp [kBare, hx, h2, hs]

theorem stWord_ok (hx : w.x = false) (hd : w.rd = 0) (hs : sizeOk w = true) : (kBare w false true true true true && sizeOk w) = true := by
  simp [kBare, hx, hd, hs]

/-- A core goes on with what its agent reads of a register. The definition is unfolded at its name alone: unfolded at its arguments, the match
would be evaluated down to the subtraction of the numeral `ctlBase`. -/
theorem State.coreRead_reads {a : Nat} {v : W64} {D : Dev} (hg : s.dev.regGet (coreAgent p x) (a - ctlBase) = .inl (v, D)) :
    s.coreRead p c x w a = .go { s with dev := D.setCore p c ((x.putX w.rd v).step 1) } := by
  conv => enter [1, 0]; delta State.coreRead
  rw [hg]
  rfl

/-- A core goes on where its agent's write of a register is taken; unfolded as `State.coreRead` is. -/
theorem State.coreWrite_writes {a : Nat} {v : W64} {u : State} (hp : s.regPut (coreAgent p x) (a - ctlBase) v = (u, none)) :
    s.coreWrite p c x a v = .go { u with dev := u.dev.setCore p c ((u.dev.core p c).step 1) } := by
  conv => enter [1, 0]; delta State.coreWrite
  rw [hp]
  rfl

section
variable (h : s.dev.coreRuns p c x (if w.x then 2 else 1))
include h

/-- A load outside control space waits for a channel that takes no request (R165). -/
theorem exec_ld_waits (hok : (kBare w true true false true true && sizeOk w) = true) (hc : inCtl (x.addr w) = false)
    (hr : s.dev.coreReach p (firmwarePc p x.pc) false (x.addr w) w.func.toNat = none)
    (hb : s.dev.chanBusy (x.addr w) (x.addr w + w.func.toNat) = true) : exec (.ld p c w) s = .next s := by
  rw [exec_ld, execLd]
  refine onState_scalar h hok (.inr ?_)
  simp [hc, hr, hb]

/-- Else it puts the bytes into its register. -/
theorem exec_ld_memory (hok : (kBare w true true false true true && sizeOk w) = true) (hc : inCtl (x.addr w) = false)
    (hr : s.dev.coreReach p (firmwarePc p x.pc) false (x.addr w) w.func.toNat = none)
    (hb : s.dev.chanBusy (x.addr w) (x.addr w + w.func.toNat) = false) (hg : s.dev.bad (x.addr w) w.func.toNat = false) :
    exec (.ld p c w) s = .next (s.onDev (fun d => d.setCore p c
      ((x.putX w.rd (BitVec.ofNat 64 (s.dev.rdN (x.addr w) w.func.toNat))).step 1))) := by
  rw [exec_ld, execLd]
  refine onState_scalar h hok (.inl ?_)
  simp [hc, hr, hb, hg, State.coreGo]

/-- A load of a register of control space reads it as the core's agent does (R110, R124). -/
theorem exec_ld_register (hok : (kBare w true true false true true && sizeOk w) = true) (h8 : w.func.toNat = 8)
    (hc : inCtl (x.addr w) = true) (ha : x.addr w % 8 = 0) {v : W64} {D : Dev}
    (hg : s.dev.regGet (coreAgent p x) (x.addr w - ctlBase) = .inl (v, D)) :
    exec (.ld p c w) s = .next { s with dev := D.setCore p c ((x.putX w.rd v).step 1) } := by
  rw [exec_ld, execLd]
  refine onState_scalar h hok (.inl ?_)
  simp only [hc, h8, ctlSize_word ha, if_true, State.coreRead_reads hg]

theorem exec_st_waits (hok : (kBare w false true true true true && sizeOk w) = true) (hc : inCtl (x.addr w) = false)
    (hr : s.dev.coreReach p (firmwarePc p x.pc) true (x.addr w) w.func.toNat = none)
    (hb : s.dev.chanBusy (x.addr w) (x.addr w + w.func.toNat) = true) : exec (.st p c w) s = .next s := by
  rw [exec_st, execSt]
  refine onState_scalar h hok (.inr ?_)
  simp [hc, hr, hb]

theorem exec_st_memory (hok : (kBare w false true true true true && sizeOk w) = true) (hc : inCtl (x.addr w) = false)
    (hr : s.dev.coreReach p (firmwarePc p x.pc) true (x.addr w) w.func.toNat = none)
    (hb : s.dev.chanBusy (x.addr w) (x.addr w + w.func.toNat) = false) :
    exec (.st p c w) s = .next (s.stored p c (x.step 1) (x.addr w) w.func.toNat (x.getX w.rs2).toNat) := by
  rw [exec_st, execSt]
  refine onState_scalar h hok (.inl ?_)
  simp [hc, hr, hb, State.stored]

/-- A store to a register of control space writes it as the core's agent does (R110, R124). -/
theorem exec_st_register (hok : (kBare w false true true true true && sizeOk w) = true) (h8 : w.func.toNat = 8)
    (hc : inCtl (x.addr w) = true) (ha : x.addr w % 8 = 0) {u : State}
    (hp : s.regPut (coreAgent p x) (x.addr w - ctlBase) (x.getX w.rs2) = (u, none)) :
    exec (.st p c w) s = .next { u with dev := u.dev.setCore p c ((u.dev.core p c).step 1) } := by
  rw [exec_st, execSt]
  refine onState_scalar h hok (.inl ?_)
  simp only [hc, h8, ctlSize_word ha, if_true, State.coreWrite_writes hp]

/-- AMO stores the sum or RS2 at RS1 and answers the old word (R124). -/
theorem exec_amo_memory {r : Region} {old : W64} (hok : kBare w true true true true false = true) (hn : w.func.toNat < 2)
    (hreg : s.dev.region (x.getX w.rs1).toNat = some r) (hk : r.kind = 1 ∨ r.kind = 3)
    (hr : s.dev.coreReach p (firmwarePc p x.pc) true (x.getX w.rs1).toNat 8 = none) (hg : s.dev.bad (x.getX w.rs1).toNat 8 = false)
    (ho : old.toNat = s.dev.rdN (x.getX w.rs1).toNat 8) :
    exec (.amo p c w) s = .next (s.stored p c ((x.putX w.rd old).step 1) (x.getX w.rs1).toNat 8
      (if w.func = 0 then old + x.getX w.rs2 else x.getX w.rs2).toNat) := by
  have hold : BitVec.ofNat 64 (s.dev.rdN (x.getX w.rs1).toNat 8) = old := by rw [← ho]; simp
  have hn' : ¬ 1 < w.func.toNat := by omega
  rw [exec_amo, execAmo]
  refine onState_scalar h hok (.inl ?_)
  obtain hk | hk := hk <;> simp [hn', hreg, hk, hr, hg, hold, firstOf, refuseIf, State.stored]

/-- FENCE only goes on. -/
theorem exec_fence_goes (hok : kBare w false false false false false = true) :
    exec (.fence p c w) s = .next (s.onDev (fun d => d.setCore p c (x.step 1))) := by
  rw [exec_fence, execFence]
  exact onState_scalar h hok (.inl rfl)

end

end

/-- Settles O29: each clause is one of the cases above. -/
theorem scalarMemoryInstructionsReachMemory : Obligations.ScalarMemoryInstructionsReachMemory := by
  rintro p c w s x a n h1 hx rfl
  have h : s.dev.coreRuns p c x (if w.x then 2 else 1) := by simpa [hx] using h1
  have hwait := Dev.wait_of_coreRuns h
  refine ⟨?_, ?_, ?_⟩
  · rintro rfl hs
    have ld := fun h2 => ldWord_ok hx h2 (sizeOk_of_bytes hs)
    have st := fun hd => stWord_ok hx hd (sizeOk_of_bytes hs)
    refine ⟨fun hb hc => ⟨fun h2 hr => ?_, fun hd hr => ?_⟩, fun h2 hc hr hb hg => ?_, fun hd hc hr hb => ?_,
      fun h8 hc ha => ⟨fun h2 v D hg => ?_, fun hd u hp => ?_⟩⟩
    · exact exec_ld_waits h (ld h2) hc hr hb
    · exact exec_st_waits h (st hd) hc hr hb
    · exact ⟨_, _, exec_ld_memory h (ld h2) hc hr hb hg, onlyCore_setCore .., wroteX_putX_step x w.rd _ 1 hwait⟩
    · obtain ⟨hcore, hmem, hbut⟩ := s.stored_spec p c (x.step 1) (x.addr w) w.func.toNat (x.getX w.rs2).toNat
      exact ⟨_, _, exec_st_memory h (st hd) hc hr hb, hcore, wroteX_step x 1 hwait, Dev.rdN_of_memWrite hmem, hbut⟩
    · exact ⟨_, exec_ld_register h (ld h2) h8 hc ha hg, wroteX_putX_step x w.rd v 1 hwait⟩
    · exact exec_st_register h (st hd) h8 hc ha hp
  · rintro r old rfl hi hn hreg hk hr hg ho
    have hok : kBare w true true true true false = true := by simp [kBare, hx, hi]
    obtain ⟨hcore, hmem, hbut⟩ := s.stored_spec p c ((x.putX w.rd old).step 1) (x.getX w.rs1).toNat 8
      (if w.func = 0 then old + x.getX w.rs2 else x.getX w.rs2).toNat
    have hword := Dev.rdN_of_memWrite_word hmem
    refine ⟨_, _, exec_amo_memory h hok hn hreg hk hr hg ho, hcore, wroteX_putX_step x w.rd old 1 hwait, hbut, fun h0 => ?_, fun h1 => ?_⟩
    · rw [hword, if_pos (by bv_omega)]
    · rw [hword, if_neg (by bv_omega)]
  · intro hd ha hb hf hi
    exact ⟨_, _, exec_fence_goes h (by simp [kBare, hx, hd, ha, hb, hf, hi]), onlyCore_setCore .., wroteX_step x 1 hwait⟩

end Sys2Proof.Machine
end

section
/-! SUPPORT. Entry into the update units (R119, R192): what an issue leaves of its partition, what units without a UPD do with an image (R191), and
the gradient-slot writes (R196). -/
namespace Sys2Proof.Machine

/-! ## A partition behind an issue -/

theorem Part.setPort_port (x : Part) (q : Port) : x.setPort q (x.port q) = x := by cases q <;> rfl

theorem Dev.seqAdv_part (d : Dev) (p : PartId) (x : Seq) (len : Nat) :
    (d.seqAdv p x len).part p = (d.part p).setPort x.port { d.port p x.port with haltReq := false } := by
  unfold Dev.seqAdv Dev.seqResume
  split
  · simp
  · next h =>
    have he : ({ d.port p x.port with haltReq := false } : PortSt) = d.port p x.port := by
      rw [← (by simpa using h : (d.port p x.port).haltReq = false)]
    rw [he]
    simp [Dev.port, Part.setPort_port]

/-- An advance leaves its partition as `Part.past` says (R111, R117, R172). -/
theorem Dev.adv_part (d : Dev) (p : PartId) (q : Port) (len : Nat) : (d.adv p q len).part p = (d.part p).past q ((d.port p q).past q) := by
  have seq : ∀ x : Seq, (d.adv p x.port len).part p = (d.part p).past x.port ((d.port p x.port).past x.port) := by
    intro x
    rw [Dev.adv_seq, Dev.seqAdv_part, Dev.unpairPort_port]
    cases x <;> simp [Dev.unpairPort, Part.past, PortSt.past, Part.setPort, Seq.port, Port.seq?]
  cases q with
  | s c => simp [Dev.adv, Dev.portAdv, Dev.unpairPort, Part.past, PortSt.past, Port.seq?, Part.setPort, Dev.port, Part.port]
  | f => exact seq .f
  | b => exact seq .b
  | u => exact seq .u

section
variable (x : Part) (q : Port) (y : PortSt)
@[simp] theorem Part.past_units : (x.past q y).units = x.units := by cases q <;> rfl
@[simp] theorem Part.past_uops : (x.past q y).uops = x.uops := by cases q <;> rfl
@[simp] theorem Part.past_slots : (x.past q y).slots = x.slots := by cases q <;> rfl
@[simp] theorem Part.past_sets : (x.past q y).sets = x.sets := by cases q <;> rfl
@[simp] theorem Part.setPort_uops : (x.setPort q y).uops = x.uops := by cases q <;> rfl
@[simp] theorem Part.port_uops (l : List UOp) : ({ x with uops := l } : Part).port q = x.port q := by cases q <;> rfl
end

section
variable (x : Part) (c : Fin 4) (u : UpdUnit)
@[simp] theorem Part.setUnit_unit : (x.setUnit c u).units[c] = u := by simp [Part.setUnit]

theorem Part.setUnit_unit_other (k : Fin 4) (h : k ≠ c) : (x.setUnit c u).units[k] = x.units[k] := by
  have : c.val ≠ k.val := fun e => h (Fin.ext e.symm)
  simp [Part.setUnit, this]

@[simp] theorem Part.port_setUnit (q : Port) : (x.setUnit c u).port q = x.port q := by cases q <;> rfl

theorem Part.setUnit_self : x.setUnit c x.units[c] = x := by simp [Part.setUnit]
end

/-! ## Frames -/

theorem movedPast_congr {p : PartId} {q : Port} {len : Nat} {s t u : State} (h : movedPast p q len s t)
    (hr : ∀ o ∈ issueRegs p q, u.dev.reg o = t.dev.reg o) (hc : (u.dev.part p).cores = (t.dev.part p).cores)
    (hn : (u.dev.part p).coreRR = (t.dev.part p).coreRR) : movedPast p q len s u := by
  have seq : ∀ x : Seq, q = x.port → movedPast.seqMoved p len s t x → movedPast.seqMoved p len s u x := by
    rintro x rfl ⟨hpc, hissued, hstate⟩
    rw [issueRegs_port] at hr
    have hp : ∀ hi lo, u.dev.fld (R.seqPc p x) hi lo = t.dev.fld (R.seqPc p x) hi lo := by simp [Dev.fld, hr (R.seqPc p x)]
    have hs : ∀ hi lo, u.dev.fld (R.seqStatus p x) hi lo = t.dev.fld (R.seqStatus p x) hi lo := by simp [Dev.fld, hr (R.seqStatus p x)]
    exact ⟨by rw [← hpc, Dev.pc, hp, Dev.pc], by rw [← hissued, hs], by rw [← hstate, Dev.seqState, hs, Dev.seqState]⟩
  cases q with
  | s c =>
    obtain ⟨hqueue, hturn⟩ := h
    exact ⟨by rw [hc, hqueue], by rw [hn, hturn]⟩
  | f => exact seq .f rfl h
  | b => exact seq .b rfl h
  | u => exact seq .u rfl h

theorem onlyPart_trans {l m : List Nat} {p : PartId} {s t u : State} (h1 : onlyPart l p s t) (h2 : onlyPart m p t u) :
    onlyPart (l ++ m) p s u := by
  obtain ⟨ht, hrt, hpt⟩ := h1
  obtain ⟨hu, hru, hpu⟩ := h2
  refine ⟨?_, ?_, fun k hk => (hpu k hk).trans (hpt k hk)⟩
  · exact hu.trans (congrArg (fun v : State => { v with dev := { v.dev with regs := u.dev.regs, parts := u.dev.parts } }) ht)
  · intro o ho
    rw [List.mem_append, not_or] at ho
    exact (hru o ho.2).trans (hrt o ho.1)

theorem onlyPart_modPart (p : PartId) (s : State) (d : Dev) (f : Part → Part) :
    onlyPart [] p { s with dev := d } { s with dev := d.modPart p f } :=
  onlyPart_of p _ { s with dev := d } _ (by ext1 <;> simp) (fun _ _ => Dev.modPart_reg ..) (fun _ hu => Dev.part_modPart_other _ _ _ _ hu)

theorem onlyPart_complete (p : PartId) (s : State) (d : Dev) (q : Port) (n : Nat) :
    onlyPart [] p { s with dev := d } { s with dev := d.complete p q n } :=
  onlyPart_of p _ { s with dev := d } _ (by ext1 <;> simp) (fun _ _ => Dev.complete_reg ..) (fun _ hu => Dev.part_modPort_other _ _ _ _ _ hu)

/-! ## Entering the units -/

section
variable (p : PartId) (q : Port) (cls : UCls) (r w : List Extent) (len : Nat)

theorem Dev.launch_adv_part (d : Dev) : ∃ y z : PortSt, ((d.launch p q cls r w).2.adv p q len).part p = ((d.part p).setPort q y).past q z := by
  rw [Dev.adv_part, Dev.launch_part]
  exact ⟨_, _, rfl⟩

/-- An issue leaves the update units as they are. -/
theorem Dev.launch_adv_units (d : Dev) : let x := ((d.launch p q cls r w).2.adv p q len).part p
    x.units = (d.part p).units ∧ x.uops = (d.part p).uops ∧ x.slots = (d.part p).slots ∧ x.sets = (d.part p).sets := by
  obtain ⟨y, z, h⟩ := d.launch_adv_part p q cls r w len
  simp [h]

/-- An instruction that enters the scoreboard, past which its port moves, and which the partition then takes in without touching its ports. -/
theorem Dev.launch_adv_modPart_spec (s : State) (f : Part → Part) (hp : ∀ x, (f x).port q = x.port q) (hc : ∀ x, (f x).cores = x.cores)
    (hn : ∀ x, (f x).coreRR = x.coreRR) :
    let D := ((s.dev.launch p q cls r w).2.adv p q len).modPart p f
    movedPast p q len s { s with dev := D } ∧ onlyPart (issueRegs p q) p s { s with dev := D }
      ∧ inFlight p q cls (r, w) s { s with dev := D } := by
  obtain ⟨hmoved, honly, hfl⟩ := Dev.launch_adv_spec p q cls r w len s
  refine ⟨movedPast_congr hmoved (fun o _ => Dev.modPart_reg ..) ?_ ?_, ?_, ?_⟩
  · simp [hc]
  · simp [hn]
  · simpa using onlyPart_trans honly (onlyPart_modPart p s _ f)
  · rw [inFlight] at hfl ⊢
    rw [← hfl, Dev.port_modPart_same, hp]
    rfl

end

theorem Dev.fenced_of_takes {d : Dev} {p : PartId} {q : Port} {w0 : W64} {w1 : Option W64} (h : d.takes p q w0 w1 = true) :
    d.fenced p = false := by
  cases q <;> simp_all [Dev.takes, Dev.seqReady, Dev.portHead]

theorem Dev.fenced_congr {d D : Dev} {p : PartId} (h : D.reg (R.prstStatus p) = d.reg (R.prstStatus p)) : D.fenced p = d.fenced p := by
  simp only [Dev.fenced, Dev.fld, h]

theorem R.prstStatus_notMem_issueRegs (p : PartId) (q : Port) : R.prstStatus p ∉ issueRegs p q := by
  cases q <;> simp [issueRegs, Port.seq?, R.prstStatus, R.seqPc, R.seqStatus, R.part, Seq.num]

/-- An instruction of one word has no second. -/
theorem TWord.snd_of_single {w : TWord} (h : w.x = false) : w.snd = none := by simp [TWord.snd, h]

/-! ## Units that hold no UPD -/

/-- The registers in which a partition's update units show what they do (R210). -/
def updRegs (p : PartId) : List Nat := (List.finRange 4).map (R.updStatus p)

/-- A device that differs from another in those registers alone. -/
def Dev.sameButUpdRegs (p : PartId) (d D : Dev) : Prop := D = { d with regs := D.regs } ∧ ∀ o, o ∉ updRegs p → D.reg o = d.reg o

/-- No unit holds a UPD, and no gradient-slot write waits. -/
def Dev.unitsEmpty (d : Dev) (p : PartId) : Prop := ∀ c : Fin 4, ((d.part p).units[c]).q = [] ∧ ((d.part p).units[c]).slotQ = []

theorem issueRegs_notMem_updRegs {p : PartId} {q : Port} {o : Nat} (h : o ∈ issueRegs p q) : o ∉ updRegs p := by
  have key : ∀ x : Seq, o ∈ issueRegs p x.port → o ∉ updRegs p := by
    intro x hx hu
    obtain ⟨c, _, hc⟩ := List.mem_map.mp hu
    rw [issueRegs_port] at hx
    simp only [List.mem_cons, List.not_mem_nil, or_false, R.seqPc, R.seqStatus, R.part] at hx
    simp only [R.updStatus, R.part] at hc
    cases x <;> simp only [Seq.num] at hx <;> omega
  cases q with
  | s c => simp [issueRegs, Port.seq?] at h
  | f => exact key .f h
  | b => exact key .b h
  | u => exact key .u h

section
variable {p : PartId} {d D E : Dev}

theorem Dev.sameButUpdRegs_refl (p : PartId) (d : Dev) : d.sameButUpdRegs p d := ⟨rfl, fun _ _ => rfl⟩

theorem Dev.sameButUpdRegs_trans (h1 : d.sameButUpdRegs p D) (h2 : D.sameButUpdRegs p E) : d.sameButUpdRegs p E := by
  obtain ⟨hD, hregD⟩ := h1
  obtain ⟨hE, hregE⟩ := h2
  exact ⟨hE.trans (congrArg (fun v : Dev => { v with regs := E.regs }) hD), fun o ho => (hregE o ho).trans (hregD o ho)⟩

theorem Dev.sameButUpdRegs_setFld (p : PartId) (d : Dev) (c : Fin 4) (hi lo v : Nat) :
    d.sameButUpdRegs p (d.setFld (R.updStatus p c) hi lo v) :=
  ⟨rfl, fun _ ho => Dev.reg_setFld_other _ _ _ _ _ _ fun e => ho (e ▸ List.mem_map_of_mem (List.mem_finRange c))⟩

theorem Dev.part_of_sameButUpdRegs (h : d.sameButUpdRegs p D) (u : PartId) : D.part u = d.part u := by
  rw [h.1]
  rfl

theorem Dev.fenced_of_sameButUpdRegs (h : d.sameButUpdRegs p D) : D.fenced p = d.fenced p := by
  have hn : R.prstStatus p ∉ updRegs p := by
    simp only [updRegs, List.mem_map, not_exists, not_and, R.prstStatus, R.updStatus, R.part]
    omega
  obtain ⟨_, hreg⟩ := h
  exact Dev.fenced_congr (hreg _ hn)

theorem Dev.onlyPart_of_sameButUpdRegs (s : State) (h : d.sameButUpdRegs p D) : onlyPart (updRegs p) p { s with dev := d } { s with dev := D } :=
  onlyPart_of p _ { s with dev := d } D (by rw [h.1]) h.2 fun u _ => Dev.part_of_sameButUpdRegs h u

/-- A run of steps each of which leaves the start as it is. -/
theorem foldl_of_fixed {α β : Type} {f : α → β → α} {a : α} (h : ∀ b, f a b = a) (l : List β) : l.foldl f a = a := by
  induction l with
  | nil => rfl
  | cons b t ih => rw [List.foldl_cons, h, ih]

theorem Dev.unitsEmpty_congr (h : (D.part p).units = (d.part p).units) (hi : d.unitsEmpty p) : D.unitsEmpty p := by
  unfold Dev.unitsEmpty
  rw [h]
  exact hi

end

section
variable {p : PartId} {d : Dev} (h : d.unitsEmpty p) (c : Fin 4)
include h

theorem Dev.slotFlush_idle : d.slotFlush p c = d := by
  obtain ⟨_, hs⟩ := h c
  have hu : ({ ((d.part p).units[c]) with slotQ := [] } : UpdUnit) = (d.part p).units[c] := by rw [← hs]
  unfold Dev.slotFlush
  split
  · rfl
  · dsimp only
    rw [hs]
    show d.setPart p ((d.part p).setUnit c { ((d.part p).units[c]) with slotQ := [] }) = d
    dsimp only at hu ⊢
    rw [hu, Part.setUnit_self]
    simp [Dev.setPart, Dev.part]

theorem Dev.updTurn_idle (n : Nat) : d.updTurn p c n = (d, false) := by
  obtain ⟨hq, _⟩ := h c
  unfold Dev.updTurn
  rw [hq]
  rfl

theorem Dev.updRound_idle : d.updRound p c = (d, false) := by
  have hfold : (portsAfter ((d.part p).units[c]).rr).foldl (fun r n => ((r.1.updTurn p c n).1, r.2 || (r.1.updTurn p c n).2)) (d, false)
      = (d, false) := foldl_of_fixed (fun n => by simp [Dev.updTurn_idle h]) _
  rw [Dev.updRound, hfold]
  exact Dev.updTurn_idle h c 3

theorem Dev.updGo_idle (n : Nat) : d.updGo p c n = d := by
  cases n <;> simp [Dev.updGo, Dev.updRound_idle h]

/-- A unit that holds nothing shows that it is idle, and does nothing else. -/
theorem Dev.updRun_idle : d.sameButUpdRegs p (d.updRun p c) := by
  unfold Dev.updRun
  dsimp only
  rw [Dev.slotFlush_idle h, Dev.updGo_idle h]
  split
  · exact Dev.sameButUpdRegs_setFld p d c 55 52 0
  · exact Dev.sameButUpdRegs_refl p d

end

/-- The turn of each unit in a list. -/
theorem Dev.each_updRun_idle {p : PartId} (l : List (Fin 4)) : ∀ {d : Dev}, d.unitsEmpty p →
    d.sameButUpdRegs p (d.each l (fun d c => d.updRun p c)) := by
  induction l with
  | nil => exact fun _ => Dev.sameButUpdRegs_refl _ _
  | cons c t ih =>
    intro d h
    have hc := Dev.updRun_idle h c
    exact Dev.sameButUpdRegs_trans hc (ih (Dev.unitsEmpty_congr (congrArg Part.units (Dev.part_of_sameButUpdRegs hc p)) h))

theorem Dev.unitsRun_zero_sameButUpdRegs {p : PartId} {d : Dev} (h : d.unitsEmpty p) : d.sameButUpdRegs p (d.unitsRun p 0) :=
  Dev.each_updRun_idle (List.finRange 4) h

/-- Behind a turn of the four units, what acts on them together acts, and they go on. The run is unfolded by `delta`: its equations would have the
match on `uopNext` evaluated through the turn of every unit. -/
theorem Dev.unitsRun_succ_some {p : PartId} {d E : Dev} {o : UOp} {n : Nat} (hE : d.unitsRun p 0 = E) (h : E.uopNext p = some o) :
    d.unitsRun p (n + 1) = (E.uopAct p o).unitsRun p n := by
  have hturn : d.each (List.finRange 4) (fun d c => d.updRun p c) = E := hE
  delta Dev.unitsRun Dev.unitsRun._f
  dsimp only
  rw [hturn, h]

/-- Without a UROUTE none waits. -/
theorem Dev.rowsWait_none {p : PartId} {d : Dev} (h : (d.part p).uops = []) : d.rowsWait p = d :=
  foldl_of_fixed (fun c => by simp [h]) _

/-! ## An image that the units store (R191) -/

/-- A program slot or scalar set takes the image that a ULOAD or USCAL carries. -/
def UAct.stored : UAct → Part → Part
  | .load n img, x => { x with slots := Tab.put x.slots n img }
  | .scalars n img, x => { x with sets := Tab.put x.sets n img }
  | .rows _, x => x

section
variable (a : UAct) (x : Part)
@[simp] theorem UAct.stored_units : (a.stored x).units = x.units := by cases a <;> rfl
@[simp] theorem UAct.stored_uops : (a.stored x).uops = x.uops := by cases a <;> rfl
@[simp] theorem UAct.stored_cores : (a.stored x).cores = x.cores := by cases a <;> rfl
@[simp] theorem UAct.stored_coreRR : (a.stored x).coreRR = x.coreRR := by cases a <;> rfl
@[simp] theorem UAct.stored_port (q : Port) : (a.stored x).port q = x.port q := by cases a <;> cases q <;> rfl
end

section
variable {p : PartId} {d : Dev} {o : UOp} (ha : ∀ u, o.act ≠ .rows u)
include ha

theorem Dev.uopAct_image : d.uopAct p o
    = ((d.modPart p (fun x => { x with uops := x.uops.filter (· != o) })).modPart p o.act.stored).complete p o.port o.id := by
  obtain ⟨id, q, pc, a⟩ := o
  cases a with
  | rows u => exact absurd rfl (ha u)
  | _ => rfl

/-- An image that stands alone may act at once. -/
theorem Dev.uopNext_image (hu : (d.part p).uops = [o]) (hi : d.unitsEmpty p) (hf : d.fenced p = false) : d.uopNext p = some o := by
  have hbusy : d.uopBusy p o = false := by
    unfold Dev.uopBusy
    split
    · next u hact => exact absurd hact (ha u)
    · rfl
  have hready : d.uopReady p o = true := by
    have hq : ∀ c : Fin 4, ((d.part p).units[c.val]).q = [] := fun c => (hi c).1
    simp [Dev.uopReady, hf, hbusy, Part.uopFirst, hu, hq]
  unfold Dev.uopNext
  rw [hu]
  by_cases h3 : o.port.num = 3 <;> simp [h3, hready]

theorem Dev.part_uopAct_image (hu : (d.part p).uops = [o]) : (d.uopAct p o).part p
    = (o.act.stored { d.part p with uops := [] }).setPort o.port ((d.port p o.port).complete o.id) := by
  rw [Dev.uopAct_image ha, Dev.complete, Dev.part_modPort_same, Dev.port_modPart_same]
  simp [hu, Dev.port]

theorem Dev.onlyPart_uopAct_image (s : State) : onlyPart [] p { s with dev := d } { s with dev := d.uopAct p o } := by
  rw [Dev.uopAct_image ha]
  exact onlyPart_trans (onlyPart_trans (onlyPart_modPart p s d _) (onlyPart_modPart p s _ _)) (onlyPart_complete p s _ _ _)

/-- Units that hold nothing but one image store it, and hold nothing then. -/
theorem Dev.unitsGo_image (hu : (d.part p).uops = [o]) (hi : d.unitsEmpty p) (hf : d.fenced p = false) :
    ∃ E, d.sameButUpdRegs p E ∧ (E.uopAct p o).sameButUpdRegs p (d.unitsGo p) := by
  have hE := Dev.unitsRun_zero_sameButUpdRegs hi
  have hpart := Dev.part_of_sameButUpdRegs hE p
  have hu' : ((d.unitsRun p 0).part p).uops = [o] := by rw [hpart, hu]
  have hi' : (d.unitsRun p 0).unitsEmpty p := Dev.unitsEmpty_congr (congrArg Part.units hpart) hi
  have hact := Dev.part_uopAct_image ha hu'
  have hF := Dev.unitsRun_zero_sameButUpdRegs (Dev.unitsEmpty_congr (D := (d.unitsRun p 0).uopAct p o) (by rw [hact]; simp) hi')
  have hnone : ((((d.unitsRun p 0).uopAct p o).unitsRun p 0).part p).uops = [] := by
    rw [Dev.part_of_sameButUpdRegs hF, hact]
    simp
  have hrun : d.unitsRun p 1 = ((d.unitsRun p 0).uopAct p o).unitsRun p 0 :=
    Dev.unitsRun_succ_some rfl (Dev.uopNext_image ha hu' hi' ((Dev.fenced_of_sameButUpdRegs hE).trans hf))
  refine ⟨_, hE, ?_⟩
  rw [Dev.unitsGo, hu, List.length_singleton, hrun, Dev.rowsWait_none hnone]
  exact hF

/-- What that changes: UPDc_STATUS, the queue, the slot or set, and the scoreboard, which the image leaves. -/
theorem Dev.unitsGo_image_spec (s : State) (hu : (d.part p).uops = [o]) (hi : d.unitsEmpty p) (hf : d.fenced p = false) :
    onlyPart (updRegs p) p { s with dev := d } { s with dev := d.unitsGo p } ∧ (d.unitsGo p).part p
      = (o.act.stored { d.part p with uops := [] }).setPort o.port ((d.port p o.port).complete o.id) := by
  obtain ⟨E, hE, hG⟩ := Dev.unitsGo_image ha hu hi hf
  have hpart := Dev.part_of_sameButUpdRegs hE p
  constructor
  · have hact := onlyPart_trans (Dev.onlyPart_of_sameButUpdRegs s hE) (Dev.onlyPart_uopAct_image ha s)
    obtain ⟨heq, hreg, hbut⟩ := onlyPart_trans hact (Dev.onlyPart_of_sameButUpdRegs s hG)
    exact ⟨heq, fun r hr => hreg r (by simpa using hr), hbut⟩
  · rw [Dev.part_of_sameButUpdRegs hG, Dev.part_uopAct_image ha (by rw [hpart, hu]), Dev.port, hpart]
    rfl

end

/-! ## UPD, ULOAD, USCAL and UROUTE at issue (R119, R189, R190, R192, R204) -/

theorem exec_upd (p : PartId) (q : Port) (w : TWord) (s : State) : exec (.upd p q w) s = execUpd p q w s := rfl
theorem exec_uload (p : PartId) (q : Port) (w : TWord) (s : State) : exec (.uload p q w) s = execUload p q w s := rfl
theorem exec_uscal (p : PartId) (q : Port) (w : TWord) (s : State) : exec (.uscal p q w) s = execUscal p q w s := rfl
theorem exec_uroute (p : PartId) (q : Port) (w : TWord) (s : State) : exec (.uroute p q w) s = execUroute p q w s := rfl
theorem exec_gradSlotWrite (p : PartId) (c : Fin 4) (s : State) : exec (.gradSlotWrite p c) s = execGradSlotWrite p c s := rfl

/-- The device in which an update instruction stands in the scoreboard and its port has moved past it. -/
def Dev.updIssued (d : Dev) (p : PartId) (q : Port) (e : List Extent × List Extent) : Dev := (d.launch p q .update e.1 e.2).2.adv p q 1

section
variable {p : PartId} {q : Port} {w : TWord} {s : State} {y : Desc} (hx : w.x = false) (hy : (s.dev.port p q).descAt w.s1 = some y)
include hx hy

theorem exec_upd_enters {x z : Desc} {r : Option Desc} {e : List Extent × List Extent} {c : Fin 4}
    (hd : (s.dev.port p q).descAt w.d = some x) (hz : (s.dev.port p q).descAt w.s2 = some z) (hr : (s.dev.port p q).descAt w.s3 = r)
    (hm : bits w.mod 4 0 = 0) (ht : s.dev.takes p q (encT 0x80 w) none = true) (hc : s.dev.updRefuse p q w x y z r = none)
    (he : e = updExts x y z r (z.count / 4096)) (hchan : c = s.dev.chanOf p z.base) (hfull : (s.dev.part p).updFull c q = false)
    (hheld : s.dev.held p q e.1 e.2 = false) :
    exec (.upd p q w) s = .next { s with dev := ((s.dev.updIssued p q e).updQueue p c
      (s.dev.updIns p q w x y z r (s.dev.port p q).nextId)).unitsGo p } := by
  subst he hchan hr
  rw [exec_upd, execUpd]
  refine onDev_eq _ _ _ (Dev.issue_go _ _ p q _ _ _ ?_ ?_)
  · rw [TWord.snd_of_single hx]
    exact ht
  · simp only [hx, hm, hd, hy, hz, hc, Dev.updIssue, hfull, hheld]
    rfl

theorem Dev.imageIssue_enters {opc len lim : Nat} {why : List Byte → Option Status} {act : List Byte → UAct} {e : Extent} {b : List Byte}
    (hm : w.mod = 0) (hd : w.d = 0) (h2 : w.s2 = 0) (h3 : w.s3 = 0) (hlim : w.imm.toNat < lim) (hfull : (s.dev.part p).anyUpdFull q = false)
    (htag : s.dev.tagOk y (s.dev.port p q).step = true) (he : e = toExtent (imageExt y len)) (hb : b = s.dev.rd y.base len)
    (ht : s.dev.takes p q (encT opc w) none = true) (hc : s.dev.checkImage p y len = none) (hheld : s.dev.held p q [e] [] = false)
    (hbusy : s.dev.chanBusy e.lo e.hi = false) (hbad : s.dev.bad y.base len = false) (hwhy : why b = none) :
    s.dev.imageIssue p q opc w len lim why act = ((s.dev.updIssued p q ([e], [])).uopQueue p
      ⟨(s.dev.port p q).nextId, q, s.dev.portPc p q, act b⟩).unitsGo p := by
  subst he hb
  refine Dev.issue_go _ _ p q _ _ _ ?_ ?_
  · rw [TWord.snd_of_single hx]
    exact ht
  · simp only [hy, hx, hm, hd, h2, h3, hc, hfull, hheld, hbusy, htag, hbad, hwhy, decide_eq_false (Nat.not_le.mpr hlim)]
    rfl

theorem exec_uroute_enters {x z : Desc} {e : Extent} {m : RowMap} {u : RowIns} (hd : (s.dev.port p q).descAt w.d = some x)
    (hz : (s.dev.port p q).descAt w.s2 = some z) (hm : bits w.mod 4 0 = 0) (h3 : w.s3 = 0) (hi : w.imm = 0)
    (ht : s.dev.takes p q (encT 0x81 w) none = true) (hpre : s.dev.uroutePre p x y z = none) (he : e = toExtent (imageExt x 64))
    (hfull : (s.dev.part p).anyUpdFull q = false) (hheld : s.dev.held p q (e :: y.exts ++ z.exts) [] = false)
    (hbusy : s.dev.chanBusy e.lo e.hi = false) (htag : s.dev.tagOk x (s.dev.port p q).step = true) (hbad : s.dev.bad e.lo 64 = false)
    (hmap : m = rowMapOf (s.dev.rd x.base 64)) (hc : s.dev.urouteCheck p q w y z m = none)
    (hu : u = ⟨m, y, z, updPhase w, (s.dev.port p q).step, (s.dev.port p q).pwAt 14⟩)
    (hrows : s.dev.held p q (e :: y.exts ++ z.exts) (s.dev.rowWrites u) = false) :
    exec (.uroute p q w) s = .next { s with dev := ((s.dev.updIssued p q (e :: y.exts ++ z.exts, s.dev.rowWrites u)).uopQueue p
      ⟨(s.dev.port p q).nextId, q, s.dev.portPc p q, .rows u⟩).unitsGo p } := by
  subst he hmap hu
  rw [exec_uroute, execUroute]
  refine onDev_eq _ _ _ (Dev.issue_go _ _ p q _ _ _ ?_ ?_)
  · rw [TWord.snd_of_single hx]
    exact ht
  · simp only [hx, hm, h3, hi, hd, hy, hz, hpre, hfull, hheld, hbusy, htag, hbad, Dev.urouteIssue, hc, hrows]
    rfl

end

/-! ## What the units hold then -/

section
variable (s : State) (p : PartId) (q : Port) (e : List Extent × List Extent)

theorem Dev.updIssued_units (d : Dev) : ((d.updIssued p q e).part p).units = (d.part p).units
    ∧ ((d.updIssued p q e).part p).uops = (d.part p).uops ∧ ((d.updIssued p q e).part p).slots = (d.part p).slots
    ∧ ((d.updIssued p q e).part p).sets = (d.part p).sets := d.launch_adv_units p q .update e.1 e.2 1

/-- A UPD in its unit's queue. -/
theorem Dev.updQueue_spec (c : Fin 4) (i : UIns) : let D := (s.dev.updIssued p q e).updQueue p c i
    movedPast p q 1 s { s with dev := D } ∧ onlyPart (issueRegs p q) p s { s with dev := D } ∧ inFlight p q .update e s { s with dev := D }
      ∧ ((D.part p).units[c]).q = ((s.dev.part p).units[c]).q ++ [i]
      ∧ ∀ k : Fin 4, k ≠ c → (D.part p).units[k] = (s.dev.part p).units[k] := by
  obtain ⟨hunits, _⟩ := Dev.updIssued_units p q e s.dev
  obtain ⟨hmoved, honly, hfl⟩ := Dev.launch_adv_modPart_spec p q .update e.1 e.2 1 s
    (fun t => t.setUnit c { (t.units[c]) with q := (t.units[c]).q ++ [i] }) (fun _ => Part.port_setUnit ..) (fun _ => rfl) (fun _ => rfl)
  refine ⟨hmoved, honly, hfl, ?_, fun k hk => ?_⟩
  · rw [Dev.updQueue, Dev.part_modPart_same, Part.setUnit_unit, hunits]
  · rw [Dev.updQueue, Dev.part_modPart_same, Part.setUnit_unit_other _ _ _ _ hk, hunits]

/-- A ULOAD, USCAL or UROUTE in the queues of the four units. -/
theorem Dev.uopQueue_spec (o : UOp) : let D := (s.dev.updIssued p q e).uopQueue p o
    (movedPast p q 1 s { s with dev := D } ∧ onlyPart (issueRegs p q) p s { s with dev := D } ∧ inFlight p q .update e s { s with dev := D })
      ∧ (D.part p).uops = (s.dev.part p).uops ++ [o] ∧ (D.part p).units = (s.dev.part p).units ∧ (D.part p).slots = (s.dev.part p).slots
      ∧ (D.part p).sets = (s.dev.part p).sets := by
  obtain ⟨hunits, huops, hslots, hsets⟩ := Dev.updIssued_units p q e s.dev
  have hissue := Dev.launch_adv_modPart_spec p q .update e.1 e.2 1 s (fun x => { x with uops := x.uops ++ [o] })
    (fun _ => Part.port_uops ..) (fun _ => rfl) (fun _ => rfl)
  intro D
  have hpart : D.part p = { (s.dev.updIssued p q e).part p with uops := ((s.dev.updIssued p q e).part p).uops ++ [o] } :=
    Dev.part_modPart_same ..
  refine ⟨hissue, ?_, ?_, ?_, ?_⟩
  · rw [hpart, huops]
  · rw [hpart, hunits]
  · rw [hpart, hslots]
  · rw [hpart, hsets]

/-- Where the units hold nothing, an image is stored and leaves the scoreboard at once (R191). -/
theorem Dev.unitsGo_stores {id pc : Nat} {a : UAct} (ha : ∀ u, a ≠ .rows u) (huops : (s.dev.part p).uops = []) (hempty : s.dev.unitsEmpty p)
    (hf : s.dev.fenced p = false) : let G := ((s.dev.updIssued p q e).uopQueue p ⟨id, q, pc, a⟩).unitsGo p
    movedPast p q 1 s { s with dev := G } ∧ onlyPart (issueRegs p q ++ updRegs p) p s { s with dev := G }
      ∧ (∀ f ∈ (G.port p q).flights, f.id ≠ id) ∧ (G.part p).slots = (a.stored (s.dev.part p)).slots
      ∧ (G.part p).sets = (a.stored (s.dev.part p)).sets := by
  obtain ⟨⟨hmoved, honly, _⟩, hq, hunits, hslots, hsets⟩ := Dev.uopQueue_spec s p q e ⟨id, q, pc, a⟩
  have ⟨_, hreg, _⟩ := honly
  have hfD := (Dev.fenced_congr (hreg _ (R.prstStatus_notMem_issueRegs p q))).trans hf
  obtain ⟨honlyG, hpart⟩ := Dev.unitsGo_image_spec ha s (by rw [hq, huops]; rfl) (Dev.unitsEmpty_congr hunits hempty) hfD
  have ⟨_, hregG, _⟩ := honlyG
  intro G
  refine ⟨movedPast_congr hmoved (fun o ho => hregG o (issueRegs_notMem_updRegs ho)) ?_ ?_, onlyPart_trans honly honlyG, ?_, ?_, ?_⟩
  · show (G.part p).cores = _
    rw [hpart]
    simp
  · show (G.part p).coreRR = _
    rw [hpart]
    simp
  · rw [Dev.port, hpart, Part.port_setPort_same]
    simp [PortSt.complete]
  · rw [hpart]
    cases a <;> simp [UAct.stored, hslots]
  · rw [hpart]
    cases a <;> simp [UAct.stored, hsets]

/-- What a ULOAD or USCAL that enters the queues does: it stands there behind what waits, or it is stored at once. -/
theorem exec_image_spec {i : Instr} {id : Nat} {a : UAct} (ha : ∀ u, a ≠ .rows u) (hf : s.dev.fenced p = false)
    (hexec : exec i s = .next { s with dev := ((s.dev.updIssued p q e).uopQueue p ⟨id, q, s.dev.portPc p q, a⟩).unitsGo p }) :
    (∃ D : Dev, (exec i s = .next { s with dev := D.unitsGo p } ∧ movedPast p q 1 s { s with dev := D }
        ∧ onlyPart (issueRegs p q) p s { s with dev := D } ∧ inFlight p q .update e s { s with dev := D })
      ∧ (D.part p).uops = (s.dev.part p).uops ++ [⟨id, q, s.dev.portPc p q, a⟩] ∧ (D.part p).units = (s.dev.part p).units
      ∧ (D.part p).slots = (s.dev.part p).slots ∧ (D.part p).sets = (s.dev.part p).sets)
    ∧ ((s.dev.part p).uops = [] ∧ s.dev.unitsEmpty p →
      (∃ t, exec i s = .next t ∧ movedPast p q 1 s t ∧ onlyPart (issueRegs p q ++ updRegs p) p s t
        ∧ ∀ f ∈ (t.dev.port p q).flights, f.id ≠ id)
      ∧ ∀ t, exec i s = .next t → (t.dev.part p).slots = (a.stored (s.dev.part p)).slots
        ∧ (t.dev.part p).sets = (a.stored (s.dev.part p)).sets) := by
  obtain ⟨⟨hmoved, honly, hfl⟩, hunits⟩ := Dev.uopQueue_spec s p q e ⟨id, q, s.dev.portPc p q, a⟩
  refine ⟨⟨_, ⟨hexec, hmoved, honly, hfl⟩, hunits⟩, ?_⟩
  rintro ⟨huops, hempty⟩
  obtain ⟨hmovedG, honlyG, hflG, hslots, hsets⟩ := Dev.unitsGo_stores s p q e (id := id) (pc := s.dev.portPc p q) ha huops hempty hf
  refine ⟨⟨_, hexec, hmovedG, honlyG, hflG⟩, fun t hnext => ?_⟩
  obtain rfl := Host.Outcome.next.inj (hexec.symm.trans hnext)
  exact ⟨hslots, hsets⟩

/-- The oldest gradient-slot write that waits goes to memory (R196). -/
theorem exec_gradSlotWrite_applies {c : Fin 4} {x : Nat × List Byte} {rest : List (Nat × List Byte)}
    (hq : ((s.dev.part p).units[c]).slotQ = x :: rest) (hopen : s.dev.chanShut p c = false) : exec (.gradSlotWrite p c) s
      = .next { s with dev := (s.dev.wr x.1 x.2).modPart p (fun t => t.setUnit c { (t.units[c]) with slotQ := rest }) } := by
  rw [exec_gradSlotWrite, execGradSlotWrite]
  refine onDev_eq _ _ _ ?_
  simp only [hopen, hq]
  rfl

end

/-- Settles O17: each instruction by its own rule of entry, an image then by what units that hold nothing do. -/
theorem updateInstructionsReachTheirUnit : Obligations.UpdateInstructionsReachTheirUnit := by
  intro p q w s y hx hy
  refine ⟨?_, ?_, ?_, ?_⟩
  · intro x z e c hd hz hm ht hc he hchan hfull hheld
    obtain ⟨hmoved, honly, hfl, hq, hother⟩ := Dev.updQueue_spec s p q e c (s.dev.updIns p q w x y z _ (s.dev.port p q).nextId)
    exact ⟨_, _, ⟨exec_upd_enters hx hy hd hz rfl hm ht hc he hchan hfull hheld, hmoved, honly, hfl⟩, hq, hother, rfl, rfl, rfl, rfl, rfl, rfl,
      rfl, rfl, rfl, rfl, rfl, rfl, rfl⟩
  · rintro n hm hd h2 h3 rfl hfull htag
    constructor
    · intro e b he hb ht hlim hc hheld hbusy hbad hwhy
      have hdev := Dev.imageIssue_enters (act := .load w.imm.toNat) hx hy hm hd h2 h3 hlim hfull htag he hb ht hc hheld hbusy hbad hwhy
      have hexec := (exec_uload p q w s).trans (onDev_eq (fun d => d.imageIssue p q _ w _ _ _ _) s _ hdev)
      obtain ⟨hall, hloads⟩ := exec_image_spec s p q _ (by simp) (Dev.fenced_of_takes ht) hexec
      refine ⟨hall, fun hempty => (hloads hempty).imp_right fun hstored t hnext => ?_⟩
      obtain ⟨hslots, hsets⟩ := hstored t hnext
      rw [hslots, hsets]
      exact ⟨Tab.find_put_same .., rfl, fun k hk => Tab.find_put_other _ _ _ _ hk⟩
    · intro e b he hb ht hlim hc hheld hbusy hbad hwhy
      have hdev := Dev.imageIssue_enters (act := .scalars w.imm.toNat) hx hy hm hd h2 h3 hlim hfull htag he hb ht hc hheld hbusy hbad hwhy
      have hexec := (exec_uscal p q w s).trans (onDev_eq (fun d => d.imageIssue p q _ w _ _ _ _) s _ hdev)
      obtain ⟨hall, hloads⟩ := exec_image_spec s p q _ (by simp) (Dev.fenced_of_takes ht) hexec
      refine ⟨hall, fun hempty => (hloads hempty).imp_right fun hstored t hnext => ?_⟩
      obtain ⟨hslots, hsets⟩ := hstored t hnext
      rw [hslots, hsets]
      exact ⟨Tab.find_put_same .., rfl, fun k hk => Tab.find_put_other _ _ _ _ hk⟩
  · intro x z e m u hd hz hm h3 hi ht hpre he hfull hheld hbusy htag hbad hmap hc hu hrows
    obtain ⟨⟨hmoved, honly, hfl⟩, hunits⟩ := Dev.uopQueue_spec s p q (e :: y.exts ++ z.exts, s.dev.rowWrites u) ⟨_, q, _, .rows u⟩
    exact ⟨_, ⟨exec_uroute_enters hx hy hd hz hm h3 hi ht hpre he hfull hheld hbusy htag hbad hmap hc hu hrows, hmoved, honly, hfl⟩, hunits⟩
  · intro c e rest hq hopen
    refine ⟨_, exec_gradSlotWrite_applies s p hq hopen, ?_, ?_, ?_, ?_, ?_⟩
    · rw [Dev.modPart_mem]
      exact memRead_memWrite ..
    · intro a ha
      rw [Dev.modPart_mem]
      exact memGet_memWrite_outside _ _ _ _ ha
    · simp
    · simp
    · exact fun u hu => Dev.part_modPart_other _ _ _ _ hu

end Sys2Proof.Machine
end

section
/-! SUPPORT. Array drains: an array that runs nothing, and the tile that a drain hands to its accumulator input (R69 to R71, R74). -/
namespace Sys2Proof.Machine

/-! ## Arrays and accumulator inputs of a partition -/

section
variable (x : Part) (a : Fin 2)

@[simp] theorem Part.arr_setArr_same (v : ArraySt) : (x.setArr a v).arr a = v := by
  by_cases h : a = 0 <;> simp [Part.arr, Part.setArr, h]

theorem Part.setArr_arr : x.setArr a (x.arr a) = x := by by_cases h : a = 0 <;> simp [Part.arr, Part.setArr, h]

@[simp] theorem Part.inp_setArr (v : ArraySt) (b : Fin 2) : (x.setArr a v).inp b = x.inp b := by
  by_cases h : a = 0 <;> simp [Part.inp, Part.setArr, h]

@[simp] theorem Part.inp_setInp_same (v : AccIn) : (x.setInp a v).inp a = v := by
  by_cases h : a = 0 <;> simp [Part.inp, Part.setInp, h]

@[simp] theorem Part.arr_setPort (q : Port) (y : PortSt) : (x.setPort q y).arr a = x.arr a := by simp [Part.arr]
@[simp] theorem Part.inp_setPort (q : Port) (y : PortSt) : (x.setPort q y).inp a = x.inp a := by simp [Part.inp]
end

@[simp] theorem ArraySt.setCtx_cur (x : ArraySt) (c : Fin 2) (v : Ctx) : (x.setCtx c v).cur = x.cur := by
  by_cases h : c = 0 <;> simp [ArraySt.setCtx, h]

@[simp] theorem ArraySt.setCtx_ins (x : ArraySt) (c : Fin 2) (v : Ctx) : (x.setCtx c v).ins = x.ins := by
  by_cases h : c = 0 <;> simp [ArraySt.setCtx, h]

section
variable (d : Dev) (p : PartId) (a : Fin 2)

@[simp] theorem Dev.part_setArr (v : ArraySt) : (d.setArr p a v).part p = (d.part p).setArr a v := Dev.part_modPart_same ..

theorem Dev.setArr_arr : d.setArr p a (d.arr p a) = d := by
  rw [Dev.setArr, Dev.modPart, Dev.arr, Part.setArr_arr]
  simp [Dev.setPart, Dev.part]

@[simp] theorem Dev.part_complete (q : Port) (n : Nat) : (d.complete p q n).part p = (d.part p).setPort q ((d.port p q).complete n) :=
  Dev.part_modPort_same ..
end

/-! ## An array that runs nothing -/

theorem ArraySt.take_idle {x : ArraySt} (hcur : x.cur = none) (hins : x.ins = []) (o : Option Port) : x.take o = x := by
  simp [ArraySt.take, ArraySt.pick, hcur, hins]

theorem Dev.arrayRun_idle {d : Dev} {p : PartId} {a : Fin 2} (hcur : (d.arr p a).cur = none) (hins : (d.arr p a).ins = []) :
    d.arrayRun p a = d := by
  rw [Dev.arrayRun, Dev.arrayGo, ArraySt.take_idle hcur hins, hcur, Dev.setArr_arr]

/-! ## What a drain hands over -/

section
variable {d : Dev} {p : PartId} {a : Fin 2} {tok : DrainTok}

/-- Rows that fit the input's 32 slots reach it whole (R92). -/
theorem Dev.inp_deliver_rows (w : W64) {rows : List (List F32)} (h : rows.length ≤ 32) :
    (((d.deliver p a w 1 rows).part p).inp a).rows = rows := by
  simp [Dev.deliver, fitRows, List.take_of_length_le h]

theorem Dev.arr_deliver (w : W64) (n : Nat) (rows : List (List F32)) :
    (d.deliver p a w n rows).arr p a = { d.arr p a with emit := rows.drop (fitRows n) } := by
  simp [Dev.deliver, Dev.arr]

/-- Retiring a token leaves the accumulator inputs, where the array has no instruction to go on with. -/
theorem Dev.inp_popToken (tk : Option TopkSt) (hcur : (d.arr p a).cur = none) (hins : (d.arr p a).ins = []) (b : Fin 2) :
    ((d.popToken p a tok tk).part p).inp b = (d.part p).inp b := by
  simp only [Dev.popToken]
  split
  all_goals
    rw [Dev.arrayRun_idle (by simpa [Dev.arr] using hcur) (by simpa [Dev.arr] using hins)]
    simp

/-- R71: the rows that a drain hands over carry +0 in the columns at or beyond the token's. -/
theorem Dev.inp_drainOne_rows {rest : List DrainTok} (hf : d.fenced p = false) (hcur : (d.arr p a).cur = none) (hins : (d.arr p a).ins = [])
    (htoks : (d.arr p a).toks = tok :: rest) (htopk : tok.topk = none) (hrows : tok.rows ≤ 32) (hemit : (d.arr p a).emit = [])
    (hfree : ((d.part p).inp a).free = true) :
    (((d.drainOne p a).part p).inp a).rows = tileRows (maskCols tok.cols ((d.arr p a).ctx tok.ctx).drain.1) tok.rows := by
  simp only [Dev.drainOne, Dev.arrayRun_idle hcur hins, htoks, htopk, hf, hemit, hfree, List.isEmpty_nil, Bool.not_true, Bool.or_self,
    Bool.false_eq_true, if_false]
  rw [Dev.inp_popToken _ (by rw [Dev.arr_deliver, hcur]) (by rw [Dev.arr_deliver, hins]), Dev.inp_deliver_rows _ (by simpa [tileRows])]

end

theorem exec_drain (p : PartId) (a : Fin 2) (s : State) : exec (.drain p a) s = .next { s with dev := s.dev.drainOne p a } := rfl

/-! ## A tile wider than its token -/

/-- One row of 8, 8, 4, 4 and zeros, rows of zeros below: what a hold of four columns and then a hold of two leave in a context. -/
def wideTile : List F32 := [0x41000000, 0x41000000, 0x40800000, 0x40800000] ++ List.replicate 1020 f32Zero

/-- The token of the second hold, whose DRAIN is set: one row of two columns (R68). -/
def narrowToken : DrainTok := ⟨1, .f, 0, 7, 1, 2, none, 0, false, false, true⟩

/-- The module in reset with that tile in context 0 of array 0 of partition 0 and that token behind it. -/
def wideTileNarrowToken : State :=
  State.reset.onDev (fun d => d.setArr 0 0 { d.arr 0 0 with ctx0 := ⟨[none, some wideTile], 2, false, false⟩, toks := [narrowToken] })

/-- Refutes O9: the statement has the rows of the collapsed tile at the input as they are, but a drain puts +0 in the columns at or beyond the
token's (R71). The tile of `wideTileNarrowToken` has 4 in column 2, and its token has two columns. -/
theorem not_arraysDrainAndStartPairs : ¬ Obligations.ArraysDrainAndStartPairs := by
  intro ⟨hdrain, _⟩
  have hf : wideTileNarrowToken.dev.fenced 0 = false := by decide +kernel
  have hcur : (wideTileNarrowToken.dev.arr 0 0).cur = none := by decide +kernel
  have hins : (wideTileNarrowToken.dev.arr 0 0).ins = [] := by decide +kernel
  have htoks : (wideTileNarrowToken.dev.arr 0 0).toks = [narrowToken] := by decide +kernel
  have hemit : (wideTileNarrowToken.dev.arr 0 0).emit = [] := by decide +kernel
  have hfree : ((wideTileNarrowToken.dev.part 0).inp 0).free = true := by decide +kernel
  obtain ⟨t, hexec, -, hinp, -⟩ := hdrain 0 0 wideTileNarrowToken narrowToken [] hf hcur hins htoks rfl (by decide) hemit hfree
  obtain rfl := Host.Outcome.next.inj ((exec_drain ..).symm.trans hexec)
  have hmasked := Dev.inp_drainOne_rows hf hcur hins htoks rfl (by decide) hemit hfree
  have htile : ((wideTileNarrowToken.dev.arr 0 0).ctx narrowToken.ctx).drain.1 = wideTile := by decide +kernel
  have hsame : tileRows (maskCols 2 wideTile) 1 = tileRows wideTile 1 := htile ▸ hmasked.symm.trans (congrArg AccIn.rows hinp)
  exact absurd hsame (by decide +kernel)

end Sys2Proof.Machine
end

section
/-! SUPPORT. What the scalar cores' control and port instructions do: branches, jumps and waits, a core that stops, words for the scalar issue
port, and releases (R110, R111, R113, R124). -/
namespace Sys2Proof.Machine

/-! ## The status of the cores (R113) -/

/-- RUNNING of a core in SCALAR_STATUS. -/
def Dev.coreRunning (d : Dev) (p : PartId) (c : Fin 6) : Bool := bit (d.reg (R.scalarStatus p)) (34 + c.val)

/-- FAULTED of a core in SCALAR_STATUS. -/
def Dev.coreFaulted (d : Dev) (p : PartId) (c : Fin 6) : Bool := bit (d.reg (R.scalarStatus p)) (22 + c.val)

section
variable (d : Dev) (p : PartId) (c k : Fin 6) (b : Bool)

@[simp] theorem Dev.coreRunning_setRunning :
    (d.setFlag (R.scalarStatus p) (34 + c.val) b).coreRunning p k = if k = c then b else d.coreRunning p k := by
  have hc := c.isLt
  rw [Dev.coreRunning, Dev.reg_setFlag_same]
  split
  · next e => rw [e, bit_putBit_same _ _ _ (by omega)]
  · next e => rw [bit_putBit_other _ _ _ _ (by omega) (by omega), Dev.coreRunning]

@[simp] theorem Dev.coreFaulted_setFaulted :
    (d.setFlag (R.scalarStatus p) (22 + c.val) b).coreFaulted p k = if k = c then b else d.coreFaulted p k := by
  have hc := c.isLt
  rw [Dev.coreFaulted, Dev.reg_setFlag_same]
  split
  · next e => rw [e, bit_putBit_same _ _ _ (by omega)]
  · next e => rw [bit_putBit_other _ _ _ _ (by omega) (by omega), Dev.coreFaulted]

@[simp] theorem Dev.coreFaulted_setRunning : (d.setFlag (R.scalarStatus p) (34 + c.val) b).coreFaulted p k = d.coreFaulted p k := by
  have hc := c.isLt
  have hk := k.isLt
  rw [Dev.coreFaulted, Dev.reg_setFlag_same, bit_putBit_other _ _ _ _ (by omega) (by omega), Dev.coreFaulted]

@[simp] theorem Dev.coreRunning_setFaulted : (d.setFlag (R.scalarStatus p) (22 + c.val) b).coreRunning p k = d.coreRunning p k := by
  have hc := c.isLt
  have hk := k.isLt
  rw [Dev.coreRunning, Dev.reg_setFlag_same, bit_putBit_other _ _ _ _ (by omega) (by omega), Dev.coreRunning]

@[simp] theorem Dev.core_setFlag (o i : Nat) : (d.setFlag o i b).core p k = d.core p k := rfl

@[simp] theorem Dev.coreRunning_setCore (x : Core) : (d.setCore p c x).coreRunning p k = d.coreRunning p k := by
  simp [Dev.coreRunning]

@[simp] theorem Dev.coreFaulted_setCore (x : Core) : (d.setCore p c x).coreFaulted p k = d.coreFaulted p k := by
  simp [Dev.coreFaulted]
end

/-! ## A core that stops (R113, R410, R413) -/

/-- The partitions' inner states, memory and register `o` are as they were. -/
structure Dev.Keeps (o : Nat) (d D : Dev) : Prop where
  parts : D.parts = d.parts
  mem : D.mem = d.mem
  reg : D.reg o = d.reg o

theorem Dev.keeps_refl (o : Nat) (d : Dev) : d.Keeps o d := ⟨rfl, rfl, rfl⟩

section
variable {o : Nat} {d D : Dev} (h : d.Keeps o D)
include h

theorem Dev.Keeps.setReg {r : Nat} (v : W64) (hr : o ≠ r) : d.Keeps o (D.setReg r v) :=
  ⟨h.parts, h.mem, (Dev.reg_setReg_other _ _ _ _ hr).trans h.reg⟩

theorem Dev.Keeps.setFld {r : Nat} (hi lo v : Nat) (hr : o ≠ r) : d.Keeps o (D.setFld r hi lo v) := h.setReg _ hr

theorem Dev.Keeps.setInc (t : Tab IncSt) : d.Keeps o { D with inc := t } := ⟨h.parts, h.mem, h.reg⟩

theorem Dev.Keeps.setBoot (b : Boot) : d.Keeps o { D with boot := b } := ⟨h.parts, h.mem, h.reg⟩

end

section
variable {o : Nat} (ho : 0x100000 ≤ o)
include ho

theorem R.ne_inc_of_part (n k : Nat) : o ≠ R.inc n k := by
  unfold R.inc
  omega

theorem R.ne_incStatus_of_part : o ≠ R.incStatus := by
  unfold R.incStatus
  omega

theorem Dev.Keeps.incRecount {d D : Dev} (h : d.Keeps o D) : d.Keeps o D.incRecount := by
  unfold Dev.incRecount
  extract_lets n E
  have hE : d.Keeps o E := h.setFld 63 56 _ (R.ne_incStatus_of_part ho)
  split
  · exact hE.setBoot _
  · exact hE

/-- Incidents are kept in the module's own registers, which stand below the partitions' blocks (R411, R413). -/
theorem Dev.Keeps.incident {d D : Dev} (h : d.Keeps o D) (k : IncKey) (count reporter : Nat) (step : W64) (epoch : Nat) :
    d.Keeps o (D.incident k count reporter step epoch) := by
  have hinc := R.ne_inc_of_part ho
  have hst := R.ne_incStatus_of_part ho
  unfold Dev.incident
  split
  · next n _ =>
    extract_lets E1 E2
    have hE : d.Keeps o E2 := (h.setFld 31 0 _ (hinc n 3)).setReg _ (hinc n 5)
    split
    · exact hE.setInc _
    · exact hE
  · split
    · exact h.setFld 55 40 _ hst
    · next n _ =>
      extract_lets num E1 E2 E3 E4 E5 E6 b E7
      have h3 : d.Keeps o E3 := (((h.setReg _ (hinc n 0)).setReg _ (hinc n 1)).setReg _ (hinc n 2)).setReg _ (hinc n 3)
      have h4 : d.Keeps o E4 := ((h3.setReg _ (hinc n 4)).setReg _ (hinc n 5)).setReg _ (hinc n 6)
      have h6 : d.Keeps o E6 := ((h4.setReg _ (hinc n 7)).setFld 39 0 _ hst).setInc _
      refine Dev.Keeps.incRecount ho ?_
      unfold E7
      split
      · exact h6.setBoot _
      · exact h6

end

/-- A fault record leaves the status of the partition's cores, the inner states and memory (R410). -/
theorem Dev.keeps_record (d : Dev) (p : PartId) (unit : Nat) (code : Status) (detail addr : Nat) (step : W64) :
    d.Keeps (R.scalarStatus p) (d.record p unit code detail addr step) := by
  have hrec : ∀ n k, R.scalarStatus p ≠ R.faultRec p n k := by
    intro n k
    simp only [R.scalarStatus, R.faultRec, R.part]
    omega
  have hhead : R.scalarStatus p ≠ R.faultHead p := by
    simp only [R.scalarStatus, R.faultHead, R.part]
    omega
  have hring : d.Keeps (R.scalarStatus p) (d.ringWrite p unit code detail addr step) := by
    unfold Dev.ringWrite
    extract_lets n E1 E2 E3
    have h2 : d.Keeps (R.scalarStatus p) E2 := ((Dev.keeps_refl _ _).setReg _ (hrec n 0)).setReg _ (hrec n 1)
    exact ((h2.setReg _ (hrec n 2)).setReg _ (hrec n 3)).setFld 31 0 _ hhead
  exact hring.incident (by unfold R.scalarStatus R.part; omega) _ _ _ _ _

section
variable (d : Dev) (p : PartId) (c k : Fin 6) (x : Core)

@[simp] theorem Dev.core_setCore_same : (d.setCore p c x).core p c = x := by
  rw [Dev.core, Dev.setCore, Dev.part_modPart_same]
  exact Vector.getElem_set_self ..

theorem Dev.core_setCore_other (h : k ≠ c) : (d.setCore p c x).core p k = d.core p k := by
  rw [Dev.core, Dev.setCore, Dev.part_modPart_same]
  exact Vector.getElem_set_ne c.isLt k.isLt fun e => h (Fin.ext e.symm)

/-- A core that faults stops as FAULTED, at its instruction and with what it holds; memory and the other partitions stay (R113). -/
theorem Dev.coreFault_spec (code : Status) (addr : Nat) : let D := d.coreFault p c code addr
    D.coreFaulted p c = true ∧ D.coreRunning p c = false
      ∧ D.core p c = { d.core p c with wait := none } ∧ D.mem = d.mem ∧ ∀ u, u ≠ p → D.part u = d.part u := by
  obtain ⟨hparts, hmem, hreg⟩ := Dev.keeps_record (d.coreStop p c) p (4 + c.val) code (d.corePc p c / 8) addr (d.part p).ps.step
  have hstop : (d.coreStop p c).reg (R.scalarStatus p)
      = ((d.setFlag (R.scalarStatus p) (22 + c.val) true).setFlag (R.scalarStatus p) (34 + c.val) false).reg (R.scalarStatus p) :=
    Dev.modPart_reg ..
  have hpart : ∀ u, (d.coreFault p c code addr).part u = (d.coreStop p c).part u := fun u => by
    rw [Dev.part, Dev.coreFault, hparts, Dev.part]
  refine ⟨?_, ?_, ?_, hmem.trans ?_, fun u hu => ?_⟩
  · rw [Dev.coreFaulted, Dev.coreFault, hreg, hstop, ← Dev.coreFaulted]
    simp
  · rw [Dev.coreRunning, Dev.coreFault, hreg, hstop, ← Dev.coreRunning]
    simp
  · rw [Dev.core, hpart, Dev.coreStop, Dev.part_modPart_same]
    exact Vector.getElem_set_self ..
  · simp [Dev.coreStop]
  · rw [hpart, Dev.coreStop, Dev.part_modPart_other _ _ _ _ hu]
    simp

end

/-! ## Branches, jumps and waits -/

theorem exec_bcc (p : PartId) (c : Fin 6) (w : KWord) (s : State) : exec (.bcc p c w) s = execBcc p c w s := rfl
theorem exec_jal (p : PartId) (c : Fin 6) (w : KWord) (s : State) : exec (.jal p c w) s = execJal p c w s := rfl
theorem exec_jalr (p : PartId) (c : Fin 6) (w : KWord) (s : State) : exec (.jalr p c w) s = execJalr p c w s := rfl
theorem exec_swait (p : PartId) (c : Fin 6) (w : KWord) (s : State) : exec (.swait p c w) s = execSwait p c w s := rfl
theorem exec_ctlr (p : PartId) (c : Fin 6) (w : KWord) (s : State) : exec (.ctlr p c w) s = execCtlr p c w s := rfl
theorem exec_ctlw (p : PartId) (c : Fin 6) (w : KWord) (s : State) : exec (.ctlw p c w) s = execCtlw p c w s := rfl
theorem exec_issr (p : PartId) (c : Fin 6) (w : KWord) (s : State) : exec (.issr p c w) s = execIssr p c w s := rfl
theorem exec_release (p : PartId) (c : Fin 6) (w : KWord) (s : State) : exec (.release p c w) s = execRelease p c w s := rfl
theorem exec_swaitPass (p : PartId) (c : Fin 6) (s : State) : exec (.swaitPass p c) s = execSwaitPass p c s := rfl

/-- The codes of BCC and what each compares (R124, log entry 61). -/
theorem bccMet_spec {f : BitVec 8} (h : f.toNat < 6) (a b : W64) : ∃ m, bccMet f a b = some m ∧ (m = true ↔
    (f = 0 ∧ a = b) ∨ (f = 1 ∧ a ≠ b) ∨ (f = 2 ∧ a.toInt < b.toInt) ∨ (f = 3 ∧ b.toInt ≤ a.toInt)
      ∨ (f = 4 ∧ a.toNat < b.toNat) ∨ (f = 5 ∧ b.toNat ≤ a.toNat)) := by
  have hf : f = 0 ∨ f = 1 ∨ f = 2 ∨ f = 3 ∨ f = 4 ∨ f = 5 := by bv_omega
  obtain rfl | rfl | rfl | rfl | rfl | rfl := hf <;> exact ⟨_, rfl, by simp⟩

theorem wordsFrom_eq (pc : Nat) (w : KWord) : wordsFrom pc w = (((pc : Int) + 8 * w.imm.toInt) % 2 ^ 48).toNat := rfl

theorem wordsFrom_cast (pc : Nat) (w : KWord) : (wordsFrom pc w : Int) = ((pc : Int) + 8 * w.imm.toInt) % 2 ^ 48 := by
  rw [wordsFrom_eq]
  omega

/-- A core that only moves its program counter writes x0. -/
theorem wroteX_pc {x : Core} (pc : Nat) (h : x.wait = none) : wroteX 0 0 pc x { x with pc := pc } :=
  ⟨rfl, fun r => Core.getX_putX x 0 r 0, rfl, h, rfl, rfl⟩

/-- A core that jumps writes its link register. -/
theorem wroteX_link {x : Core} (rd : BitVec 5) (v : W64) (pc : Nat) (h : x.wait = none) : wroteX rd v pc x { x.putX rd v with pc := pc } := by
  obtain ⟨_, hx, hrest⟩ := wroteX_putX_step x rd v 0 h
  exact ⟨rfl, hx, hrest⟩

section
variable {p : PartId} {c : Fin 6} {w : KWord} {s : State} {x : Core} (h : s.dev.coreRuns p c x (if w.x then 2 else 1))
include h

/-- An instruction that gives its core new contents and does nothing else. -/
theorem scalar_coreGo {ok : Bool} {body : State → Core → SOp} {y : Core} (hok : ok = true) (hb : body s x = s.coreGo p c y) :
    ∃ t, onState (fun s => s.scalar p c w.x ok (body s)) s = .next t ∧ onlyCore p c y s t :=
  ⟨_, onState_scalar h hok (.inl hb), onlyCore_setCore ..⟩

theorem exec_bcc_goes {m : Bool} (hok : kBare w false true true true true = true)
    (hm : bccMet w.func (x.getX w.rs1) (x.getX w.rs2) = some m) :
    ∃ t, exec (.bcc p c w) s = .next t ∧ onlyCore p c (if m then { x with pc := wordsFrom x.pc w } else x.step 1) s t := by
  rw [exec_bcc, execBcc]
  exact scalar_coreGo h hok (by simp only [hm])

theorem exec_jal_goes (hok : kBare w true false false false true = true) : ∃ t, exec (.jal p c w) s = .next t
    ∧ onlyCore p c { x.putX w.rd (BitVec.ofNat 64 (x.pc + 8)) with pc := wordsFrom x.pc w } s t := by
  rw [exec_jal, execJal]
  exact scalar_coreGo h hok rfl

theorem exec_jalr_goes (hok : kBare w true true false false true = true) : ∃ t, exec (.jalr p c w) s = .next t
    ∧ onlyCore p c { x.putX w.rd (BitVec.ofNat 64 (x.pc + 8)) with pc := x.addr w } s t := by
  rw [exec_jalr, execJalr]
  exact scalar_coreGo h hok rfl

/-- A wait that no rule refuses goes on or holds its core (R110, R129). -/
theorem exec_swait_waits (hok : kBare w false true true true false = true)
    (hbad : s.dev.swaitBad p x w.func.toNat (x.getX w.rs1) = none) : ∃ t, exec (.swait p c w) s = .next t
    ∧ onlyCore p c (if s.dev.swaitMet p w.func.toNat (x.getX w.rs1) (x.getX w.rs2) then { x with pc := x.pc + 8 }
      else { x with wait := some (w.func, x.getX w.rs1, x.getX w.rs2) }) s t := by
  rw [exec_swait, execSwait]
  refine scalar_coreGo h hok ?_
  simp only [hbad]
  split <;> rfl

/-! ## Registers of the own block -/

theorem exec_ctlr_reads (hok : kBare w true true false false true = true) (hc : inCtl (x.addr w) = true)
    (hk : inBlock p (x.addr w - ctlBase) = true) {v : W64} {D : Dev}
    (hg : s.dev.regGet (coreAgent p x) (x.addr w - ctlBase) = .inl (v, D)) :
    exec (.ctlr p c w) s = .next { s with dev := D.setCore p c ((x.putX w.rd v).step 1) } := by
  rw [exec_ctlr, execCtlr]
  refine onState_scalar h hok (.inl ?_)
  simp only [hc, hk, Bool.and_self, if_true, State.coreRead_reads hg]

theorem exec_ctlw_writes (hok : kBare w false true true false true = true) (hc : inCtl (x.addr w) = true)
    (hk : inBlock p (x.addr w - ctlBase) = true) {u : State}
    (hp : s.regPut (coreAgent p x) (x.addr w - ctlBase) (x.getX w.rs2) = (u, none)) :
    exec (.ctlw p c w) s = .next { u with dev := u.dev.setCore p c ((u.dev.core p c).step 1) } := by
  rw [exec_ctlw, execCtlw]
  refine onState_scalar h hok (.inl ?_)
  simp only [hc, hk, Bool.and_self, if_true, State.coreWrite_writes hp]

/-! ## Words for the scalar issue port (R111, R113, R122) -/

/-- An instruction that a rule refuses stops its core (R113). -/
theorem onState_scalar_stop {ok : Bool} {body : State → Core → SOp} {code : Status} {a : Nat} (hok : ok = true)
    (hb : body s x = .stop code a) :
    onState (fun s => s.scalar p c w.x ok (body s)) s = .next (s.onDev (fun d => d.coreFault p c code a)) := by
  obtain ⟨rfl, hrun, hwait, hpc, hreach⟩ := h
  have hf : s.dev.fetchBad p (s.dev.core p c).pc (if w.x then 2 else 1) = none := by
    unfold Dev.fetchBad
    rw [if_neg (by simpa using hpc), hreach]
  refine onState_eq _ _ _ ?_
  unfold State.scalar
  simp [hrun, hwait, hf, hok, hb]

theorem exec_issr_refused (hok : kBare w false true true false false = true) (hopen : portOpen p c (x.getX w.rs1) = false) :
    exec (.issr p c w) s = .next (s.onDev (fun d => d.coreFault p c St.badDescriptor 0)) := by
  rw [exec_issr, execIssr]
  exact onState_scalar_stop h hok (by simp [hopen])

theorem exec_issr_enters (hok : kBare w false true true false false = true) (hopen : portOpen p c (x.getX w.rs1) = true)
    (hq : x.queue.length < 8) : ∃ t, exec (.issr p c w) s = .next t ∧ onlyCore p c
      { x with pc := x.pc + 8, queue := x.queue ++ [(x.getX w.rs1, if bit (x.getX w.rs1) 55 then some (x.getX w.rs2) else none)] } s t := by
  rw [exec_issr, execIssr]
  refine scalar_coreGo h hok ?_
  simp [hopen, Nat.not_le.mpr hq, Core.push, Core.step]

/-- A full queue stalls its core (R111). -/
theorem exec_issr_stalls (hok : kBare w false true true false false = true) (hopen : portOpen p c (x.getX w.rs1) = true)
    (hq : 8 ≤ x.queue.length) : exec (.issr p c w) s = .next s := by
  rw [exec_issr, execIssr]
  exact onState_scalar h hok (.inr (by simp [hopen, hq]))

end

/-- A vector instruction is the issue of its form (R119, R123). -/
theorem exec_vectorRow {p : PartId} {q : Port} {u : TWord} {i : Instr} {f : VForm} (hi : (i, f) ∈ vectorRows p q u) (s : State) :
    exec i s = onDev (fun d => d.vecIssue p q u f) s :=
  (List.map_inj_left (f := fun r => exec r.1 s) (g := fun r => onDev (fun d => d.vecIssue p q u r.2) s)).mp rfl (i, f) hi

/-- So is a move instruction (R120, R123). -/
theorem exec_moveRow {p : PartId} {q : Port} {u : TWord} {i : Instr} {f : MForm} (hi : (i, f) ∈ moveRows p q u) (s : State) :
    exec i s = onDev (fun d => d.moveIssue p q u f) s :=
  (List.map_inj_left (f := fun r => exec r.1 s) (g := fun r => onDev (fun d => d.moveIssue p q u r.2) s)).mp rfl (i, f) hi

/-- A word that is not the scalar issue port's next one enters its core's queue, as a word of the core's program (R111, R124). -/
theorem Dev.issue_enters {d : Dev} {p : PartId} {c : Fin 6} {x : Core} {u : TWord} {w0 : W64} (body : Dev → Iss)
    (h : d.coreRuns p c x u.len) (hf : d.fenced p = false) (hhead : d.portHead p c w0 u.snd = false) (hq : x.queue.length < 8) :
    d.issue p (.s c) w0 u.snd body = d.setCore p c { x with pc := x.pc + 8 * u.len, queue := x.queue ++ [(w0, u.snd)] } := by
  have hlen : (if u.snd.isSome then 2 else 1) = u.len := by unfold TWord.snd TWord.len; cases u.x <;> rfl
  obtain ⟨rfl, hrun, hwait, hpc, hreach⟩ := h
  have hfetch : d.fetchBad p (d.core p c).pc u.len = none := by
    unfold Dev.fetchBad
    rw [if_neg (by simpa using hpc), hreach]
  simp [Dev.issue, Dev.portIssue, hhead, Dev.coreWord, hf, hrun, hwait, hlen, hfetch, Core.push, Nat.not_le.mpr hq, Core.step]

/-! ## Releases (R111, R113) -/

/-- What a release of some cores of a partition does: each of them runs, one that had stopped is no longer FAULTED, and only one that neither ran nor
had stopped is started anew. -/
structure Dev.Released (p : PartId) (r : Fin 6 → Prop) (d D : Dev) : Prop where
  mem : D.mem = d.mem
  part : ∀ u, u ≠ p → D.part u = d.part u
  reg : ∀ o, o ≠ R.scalarStatus p → D.reg o = d.reg o
  done : ∀ k, r k → D.coreRunning p k = true ∧ D.coreFaulted p k = (d.coreRunning p k && d.coreFaulted p k)
  other : ∀ k, ¬r k → D.coreRunning p k = d.coreRunning p k ∧ D.coreFaulted p k = d.coreFaulted p k
  core : ∀ k, (¬r k ∨ d.coreRunning p k = true ∨ d.coreFaulted p k = true) → D.core p k = d.core p k

section
variable (d : Dev) (p : PartId) (c : Fin 6)

theorem Dev.coreRelease_running (h : d.coreRunning p c = true) : d.coreRelease p c = d := if_pos h

theorem Dev.coreRelease_faulted (h : d.coreRunning p c = false) (hf : d.coreFaulted p c = true) : d.coreRelease p c
    = (d.setFlag (R.scalarStatus p) (22 + c.val) false).setFlag (R.scalarStatus p) (34 + c.val) true :=
  (if_neg (by simpa [Dev.coreRunning] using h)).trans (if_pos hf)

/-- A core that has not run starts at a free address (log entry 65). -/
theorem Dev.coreRelease_fresh (h : d.coreRunning p c = false) (hf : d.coreFaulted p c = false) : ∃ x, d.coreRelease p c
    = (d.free.2.setCore p c x).setFlag (R.scalarStatus p) (34 + c.val) true :=
  ⟨_, (if_neg (by simpa [Dev.coreRunning] using h)).trans (if_neg (by simpa [Dev.coreFaulted] using hf))⟩

@[simp] theorem Dev.coreRunning_free : d.free.2.coreRunning p c = d.coreRunning p c := rfl
@[simp] theorem Dev.coreFaulted_free : d.free.2.coreFaulted p c = d.coreFaulted p c := rfl

theorem Dev.released_coreRelease : d.Released p (· = c) (d.coreRelease p c) := by
  cases hrun : d.coreRunning p c with
  | true =>
    rw [Dev.coreRelease_running _ _ _ hrun]
    exact ⟨rfl, fun _ _ => rfl, fun _ _ => rfl, by rintro _ rfl; simp [hrun], fun _ _ => ⟨rfl, rfl⟩, fun _ _ => rfl⟩
  | false =>
    cases hflt : d.coreFaulted p c with
    | true =>
      rw [Dev.coreRelease_faulted _ _ _ hrun hflt]
      refine ⟨by simp, fun _ _ => by simp, fun o ho => ?_, by rintro _ rfl; simp [hrun], fun k hk => by simp [hk], fun _ _ => rfl⟩
      rw [Dev.reg_setFlag_other _ _ _ _ _ ho, Dev.reg_setFlag_other _ _ _ _ _ ho]
    | false =>
      obtain ⟨x, hx⟩ := Dev.coreRelease_fresh d p c hrun hflt
      rw [hx]
      refine ⟨by simp, fun u hu => ?_, fun o ho => ?_, by rintro _ rfl; simp [hrun, hflt], fun k hk => by simp [hk], fun k hk => ?_⟩
      · rw [Dev.setFlag_part, Dev.setCore, Dev.part_modPart_other _ _ _ _ hu, Dev.free_part]
      · rw [Dev.reg_setFlag_other _ _ _ _ _ ho, Dev.setCore_reg, Dev.free_reg]
      · have hne : k ≠ c := by rintro rfl; simp [hrun, hflt] at hk
        rw [Dev.core_setFlag, Dev.core_setCore_other _ _ _ _ _ hne, Dev.core, Dev.free_part, Dev.core]
end

theorem Dev.Released.trans {p : PartId} {r q : Fin 6 → Prop} {d D E : Dev} (h1 : d.Released p r D) (h2 : D.Released p q E) :
    d.Released p (fun k => r k ∨ q k) E := by
  refine ⟨h2.mem.trans h1.mem, fun u hu => (h2.part u hu).trans (h1.part u hu), fun o ho => (h2.reg o ho).trans (h1.reg o ho),
    fun k hk => ?_, fun k hk => ?_, fun k hk => ?_⟩
  · by_cases hr : r k
    · obtain ⟨hrun, hflt⟩ := h1.done k hr
      by_cases hq : q k
      · obtain ⟨hrun', hflt'⟩ := h2.done k hq
        exact ⟨hrun', by rw [hflt', hrun, hflt, Bool.true_and]⟩
      · obtain ⟨hrun', hflt'⟩ := h2.other k hq
        exact ⟨hrun'.trans hrun, hflt'.trans hflt⟩
    · obtain ⟨hrun, hflt⟩ := h1.other k hr
      rw [← hrun, ← hflt]
      exact h2.done k (hk.resolve_left hr)
  · obtain ⟨hr, hq⟩ := not_or.mp hk
    obtain ⟨hrun, hflt⟩ := h1.other k hr
    obtain ⟨hrun', hflt'⟩ := h2.other k hq
    exact ⟨hrun'.trans hrun, hflt'.trans hflt⟩
  · have hcore := h1.core k (hk.imp_left fun hn => (not_or.mp hn).1)
    rw [← hcore]
    refine h2.core k ?_
    by_cases hr : r k
    · exact .inr (.inl (h1.done k hr).1)
    · obtain ⟨hrun, hflt⟩ := h1.other k hr
      rw [hrun, hflt]
      exact hk.imp_left fun hn => (not_or.mp hn).2

theorem Dev.released_each (p : PartId) (l : List (Fin 6)) : ∀ d : Dev, d.Released p (· ∈ l) (d.each l (fun d c => d.coreRelease p c)) := by
  induction l with
  | nil => exact fun d => ⟨rfl, fun _ _ => rfl, fun _ _ => rfl, by simp, fun _ _ => ⟨rfl, rfl⟩, fun _ _ => rfl⟩
  | cons c t ih =>
    intro d
    simp only [List.mem_cons]
    exact (Dev.released_coreRelease d p c).trans (ih (d.coreRelease p c))

/-- RELEASE of core 0 releases the cores that its immediate names. -/
theorem exec_release_releases {p : PartId} {w : KWord} {s : State} {x : Core} (h : s.dev.coreRuns p 0 x (if w.x then 2 else 1))
    (hok : kBare w false false false false true = true) (hi : bits w.imm 31 6 = 0) : ∃ D : Dev,
      exec (.release p 0 w) s = .next { s with dev := D }
        ∧ (s.dev.setCore p 0 (x.step 1)).Released p (fun k => bit w.imm k.val = true) D := by
  refine ⟨(s.dev.setCore p 0 (x.step 1)).each ((List.finRange 6).filter fun c => bit w.imm c.val) (fun d c => d.coreRelease p c), ?_, ?_⟩
  · rw [exec_release, execRelease]
    exact onState_scalar h (by simp [hok, hi]) (.inl rfl)
  · simpa using Dev.released_each p ((List.finRange 6).filter fun c => bit w.imm c.val) (s.dev.setCore p 0 (x.step 1))

/-- Settles O30: each clause is one of the cases above. -/
theorem scalarControlAndPortInstructions : Obligations.ScalarControlAndPortInstructions := by
  rintro p c w s x a b rfl rfl
  refine ⟨fun h1 hx => ?_, ?_, ?_⟩
  · have h : s.dev.coreRuns p c x (if w.x then 2 else 1) := by simpa [hx] using h1
    have hwait := Dev.wait_of_coreRuns h
    refine ⟨?_, fun h1 h2 hf => ?_, fun h2 hf => ?_, fun hd hi hbad => ?_, ?_,
      fun hd hf hi => ⟨fun ho => ?_, fun ho hq => ?_, fun ho hq => ?_⟩, ?_⟩
    · rintro met rfl hf hd
      obtain ⟨m, hm, hmet⟩ := bccMet_spec hf (x.getX w.rs1) (x.getX w.rs2)
      obtain ⟨t, ht, honly⟩ := exec_bcc_goes h (by simp [kBare, hx, hd]) hm
      rw [← hmet]
      cases m with
      | true => exact ⟨t, _, ht, honly, wroteX_pc _ hwait, fun _ => wordsFrom_cast .., fun hn => absurd rfl hn⟩
      | false => exact ⟨t, _, ht, honly, wroteX_pc _ hwait, fun hn => absurd hn (by simp), fun _ => rfl⟩
    · obtain ⟨t, ht, honly⟩ := exec_jal_goes h (by simp [kBare, hx, h1, h2, hf])
      exact ⟨t, _, ht, honly, wroteX_link _ _ _ hwait⟩
    · obtain ⟨t, ht, honly⟩ := exec_jalr_goes h (by simp [kBare, hx, h2, hf])
      exact ⟨t, _, ht, honly, wroteX_link _ _ _ hwait⟩
    · obtain ⟨t, ht, honly⟩ := exec_swait_waits h (by simp [kBare, hx, hd, hi]) hbad
      exact ⟨t, _, ht, honly, rfl⟩
    · rintro k rfl hc hk hf
      refine ⟨fun h2 v D hg => ?_, fun hd u hp => ?_⟩
      · exact ⟨_, exec_ctlr_reads h (by simp [kBare, hx, h2, hf]) hc hk hg, wroteX_putX_step x w.rd v 1 hwait⟩
      · exact exec_ctlw_writes h (by simp [kBare, hx, hd, hf]) hc hk hp
    · obtain ⟨hflt, hrun, hcore, hmem, hpart⟩ := Dev.coreFault_spec s.dev p c St.badDescriptor 0
      have ⟨hcx, _⟩ := h
      refine ⟨_, exec_issr_refused h (by simp [kBare, hx, hd, hf, hi]) ho, hflt, hrun, hcore.trans ?_, hmem, hpart⟩
      rw [hcx, ← hwait]
    · obtain ⟨t, ht, honly⟩ := exec_issr_enters h (by simp [kBare, hx, hd, hf, hi]) ho hq
      exact ⟨t, _, ht, honly, rfl⟩
    · exact exec_issr_stalls h (by simp [kBare, hx, hd, hf, hi]) ho hq
    · rintro rfl hd h1 h2 hf hi
      have ⟨_, hrun0, _⟩ := h
      obtain ⟨D, hexec, hrel⟩ := exec_release_releases h (by simp [kBare, hx, hd, h1, h2, hf]) hi
      refine ⟨_, hexec, fun o ho => ?_, fun u hu => ?_, ?_, ?_, ?_⟩
      · rw [hrel.reg o (by simpa using ho), Dev.setCore_reg]
      · rw [hrel.part u hu, Dev.setCore, Dev.part_modPart_other _ _ _ _ hu]
      · rw [hrel.mem, Dev.setCore_mem]
      · rw [hrel.core 0 (.inr (.inl ((Dev.coreRunning_setCore ..).trans hrun0))), Dev.core_setCore_same]
        rfl
      · rintro k _ _ _ _ rfl rfl rfl rfl
        have hrun := Dev.coreRunning_setCore s.dev p 0 k (x.step 1)
        have hflt := Dev.coreFaulted_setCore s.dev p 0 k (x.step 1)
        refine ⟨fun hk => ?_, fun hk => ?_, fun hk0 hk => ?_⟩
        · obtain ⟨hr, hf⟩ := hrel.done k hk
          exact ⟨hr, by rw [hrun, hflt] at hf; exact hf⟩
        · obtain ⟨hr, hf⟩ := hrel.other k (by simp [hk])
          exact ⟨hr.trans hrun, hf.trans hflt⟩
        · rw [hrel.core k, Dev.core_setCore_other _ _ _ _ _ hk0]
          rw [hrun, hflt]
          exact hk.imp_left fun hn => by simp [hn]
  · intro u i w0 hi h hf hhead hq
    rcases hi with ⟨f, hmem, rfl⟩ | ⟨f, hmem, rfl⟩
    · exact ⟨_, _, (exec_vectorRow hmem s).trans (onDev_eq _ _ _ (Dev.issue_enters _ h hf hhead hq)), onlyCore_setCore .., rfl⟩
    · exact ⟨_, _, (exec_moveRow hmem s).trans (onDev_eq _ _ _ (Dev.issue_enters _ h hf hhead hq)), onlyCore_setCore .., rfl⟩
  · rintro f n v rfl hw hm
    refine ⟨_, _, (exec_swaitPass p c s).trans (onDev_eq _ _ _ (if_pos ?_)), onlyCore_setCore .., rfl⟩
    simp [Dev.swaitReady, hw, hm]

end Sys2Proof.Machine
end

section
/-! SUPPORT. The vector engine's writes: one-dimensional FP32 tensors, runs of elements, an instruction that completes, and the tile that a VACC
takes from its input (R86, R88, R92 to R98). -/
namespace Sys2Proof.Machine

/-! ## One-dimensional FP32 tensors -/

/-- A tensor of `n` FP32 elements, one behind the other from its base on. -/
def Desc.Line (x : Desc) (n : Nat) : Prop := x.rank = 0 ∧ x.fmt = 0 ∧ x.size.getD 0 0 = n ∧ x.stride = [1, 0, 0, 0]

section
variable {x : Desc} {n : Nat} (h : x.Line n)
include h

theorem Desc.Line.dims_eq : x.dims = [n, 1, 1, 1] := by
  obtain ⟨hr, _, hs, _⟩ := h
  simp [Desc.dims, Desc.dim, hr, ← hs]

theorem Desc.Line.count_eq : x.count = n := by simp [Desc.count, prodL, h.dims_eq]

theorem Desc.Line.not_blocked : x.blocked = false := by
  obtain ⟨_, hf, _⟩ := h
  simp [Desc.blocked, fmtBlocked, hf]

theorem Desc.Line.ixOf_dims {k : Nat} (hk : k < n) : ixOf x.dims k = [k, 0, 0, 0] := by
  simp [h.dims_eq, ixOf, Nat.mod_eq_of_lt hk, Nat.mod_one]

theorem Desc.Line.addr_off (k : Nat) : x.addr (x.off [k, 0, 0, 0]) = x.base + 4 * k := by
  have ⟨_, hf, _, hs⟩ := h
  simp only [Desc.addr, Desc.off, h.not_blocked, hs, hf, dotL, fmtBits]
  simp
  omega

/-- A dimension of size 1 has index 0, so nothing is broadcast (R87). -/
theorem Desc.Line.bcast_ix {k : Nat} (hk : k < n) : x.bcast [k, 0, 0, 0] = [k, 0, 0, 0] := by
  have ⟨hr, _, hs, _⟩ := h
  have h0 : x.dim 0 = n := by simp [Desc.dim, ← hs]
  simp [Desc.bcast, List.mapIdx_cons, h0]
  omega

theorem Desc.Line.wrCode_ix (d : Dev) (k code : Nat) : d.wrCode x [k, 0, 0, 0] code = d.wr (x.base + 4 * k) (leBytes 4 code) := by
  have ⟨_, hf, _⟩ := h
  simp [Dev.wrCode, h.addr_off, hf, fmtBits]

theorem Desc.Line.rdF32_ix (d : Dev) (k : Nat) : d.rdF32 x [k, 0, 0, 0] = toF32 (decElem 0 (d.rdN (x.base + 4 * k) 4)) := by
  have ⟨_, hf, _⟩ := h
  simp [Dev.rdF32, Dev.rdVal, Dev.rdCode, h.not_blocked, h.addr_off, hf, fmtBits]

end

/-- The code of an FP32 element has 32 bits. -/
theorem convElem_f32_lt (r : Rnd) (v : Val) : (convElem 0 r v).1 < 2 ^ 32 := by
  have hf : fmtEnc 0 = .flt .f32 := rfl
  unfold convElem
  rw [hf]
  cases v with
  | nan => simp [FFmt.f32]
  | inf neg => cases neg <;> simp [FFmt.f32]
  | fin neg m e =>
    dsimp only
    split
    · cases neg <;> simp [FFmt.f32]
    · split
      · cases neg <;> simp [FFmt.f32]
      · next hk =>
        simp only [FFmt.f32] at hk ⊢
        split <;> omega

/-! ## Runs of elements -/

/-- Nothing changed but memory and its error marks. -/
def Dev.OnlyMem (d D : Dev) : Prop := D = { d with mem := D.mem, poison := D.poison }

theorem Dev.OnlyMem.trans {d D E : Dev} (h1 : d.OnlyMem D) (h2 : D.OnlyMem E) : d.OnlyMem E := by
  rw [Dev.OnlyMem] at h1 h2 ⊢
  rw [h2, h1]

theorem Dev.OnlyMem.parts {d D : Dev} (h : d.OnlyMem D) : D.parts = d.parts := by rw [h]
theorem Dev.OnlyMem.flows {d D : Dev} (h : d.OnlyMem D) : D.flows = d.flows := by rw [h]

theorem Dev.onlyMem_wrCode (d : Dev) (x : Desc) (ix : List Nat) (code : Nat) : d.OnlyMem (d.wrCode x ix code) := by
  unfold Dev.wrCode
  dsimp only
  split <;> rfl

theorem Dev.onlyMem_storeRun (x : Desc) (sr : Bool) (k : RndKey) (l : List Lane) : ∀ (d : Dev) (i : Nat),
    d.OnlyMem (d.storeRun x sr k i l).1 := by
  induction l with
  | nil => exact fun _ _ => rfl
  | cons a t ih =>
    intro d i
    cases a with
    | keep => exact ih d (i + 1)
    | val v c => exact (Dev.onlyMem_wrCode d x (ixOf x.dims i) _).trans (ih _ (i + 1))

theorem Desc.rnd_of_not_sr {x : Desc} (h : kindSr x.kind = false) (key : RndKey) (j : Nat) : x.rnd false key j = .rne := by
  simp [Desc.rnd, h]

/-- The values of a run stand behind one another in memory, each as it converts, and nothing else changes (R97). -/
theorem Dev.storeRun_line {x : Desc} {n : Nat} (hx : x.Line n) (hsr : kindSr x.kind = false) (key : RndKey) (vs : List Val) :
    ∀ (d : Dev) (i : Nat), i + vs.length ≤ n →
    let m := (d.storeRun x false key i (vs.map (Lane.val · true))).1
    (∀ (k : Nat) (hk : k < vs.length), m.rdN (x.base + 4 * (i + k)) 4 = (convElem 0 .rne vs[k]).1)
      ∧ ∀ a, a < x.base + 4 * i ∨ x.base + 4 * (i + vs.length) ≤ a → memGet m.mem a = memGet d.mem a := by
  have ⟨_, hf, _⟩ := hx
  induction vs with
  | nil => exact fun d i _ => ⟨fun k hk => absurd hk (by simp), fun _ _ => rfl⟩
  | cons v t ih =>
    intro d i hi
    simp only [List.length_cons] at hi
    obtain ⟨hin, hout⟩ := ih (d.wr (x.base + 4 * i) (leBytes 4 (convElem 0 .rne v).1)) (i + 1) (by omega)
    have hstep : (d.storeRun x false key i ((v :: t).map (Lane.val · true))).1
        = ((d.wr (x.base + 4 * i) (leBytes 4 (convElem 0 .rne v).1)).storeRun x false key (i + 1) (t.map (Lane.val · true))).1 := by
      simp only [List.map_cons, Dev.storeRun, if_true, Desc.rnd_of_not_sr hsr, hf, hx.ixOf_dims (show i < n by omega), hx.wrCode_ix]
    dsimp only
    rw [hstep]
    refine ⟨fun k hk => ?_, fun a ha => ?_⟩
    · cases k with
      | zero =>
        have hread := memRead_congr _ _ 4 (x.base + 4 * (i + 0)) fun a _ ha => hout a (.inl (by omega))
        rw [Dev.rdN, hread, ← Dev.rdN, Dev.rdN_of_memWrite rfl, Nat.mod_eq_of_lt (convElem_f32_lt ..)]
        rfl
      | succ k =>
        rw [show i + (k + 1) = i + 1 + k by omega]
        exact hin k (by simpa using hk)
    · simp only [List.length_cons] at ha
      rw [hout a (by omega)]
      exact memGet_memWrite_outside _ _ _ _ (by rw [leBytes_length]; omega)

section
variable (d : Dev) (p : PartId) (layer : Nat) (e : Ev)
@[simp] theorem Dev.count_mem : (d.count p layer e).mem = d.mem := by simp [Dev.count]
@[simp] theorem Dev.count_parts : (d.count p layer e).parts = d.parts := by simp [Dev.count]
@[simp] theorem Dev.count_flows : (d.count p layer e).flows = d.flows := by simp [Dev.count]
end

/-! ## An instruction that leaves the engine, or stays in it -/

section
variable (x : Part) (n m : Fin 2) (i : VIns)

@[simp] theorem Part.vq_setInp (v : AccIn) : (x.setInp n v).vq = x.vq := by unfold Part.setInp; split <;> rfl

theorem Part.inp_setInp (v : AccIn) : (x.setInp n v).inp m = if m = n then v else x.inp m := by
  have h01 : (1 : Fin 2) ≠ 0 := by decide
  obtain rfl | rfl : n = 0 ∨ n = 1 := by omega
  all_goals obtain rfl | rfl : m = 0 ∨ m = 1 := by omega
  all_goals simp [Part.inp, Part.setInp]

@[simp] theorem Part.arr_setInp (v : AccIn) : (x.setInp n v).arr m = x.arr m := by
  unfold Part.setInp
  split <;> rfl

/-- A claim leaves the engine's queue, and what stands at an input. -/
theorem Part.claimInput_spec : (x.claimInput n).vq = x.vq ∧ ((x.claimInput n).inp m).status = (x.inp m).status
    ∧ ((x.claimInput n).inp m).rows = (x.inp m).rows := by
  unfold Part.claimInput
  split
  · exact ⟨rfl, rfl, rfl⟩
  · split
    · rw [Part.inp_setInp]
      refine ⟨Part.vq_setInp .., ?_⟩
      split
      · next e => exact ⟨e ▸ rfl, e ▸ rfl⟩
      · exact ⟨rfl, rfl⟩
    · exact ⟨rfl, rfl, rfl⟩

theorem Part.inp_vecDrop : (x.vecDrop i).inp m
    = if (x.inp m).claim = some (i.port.num, i.id) then { x.inp m with claim := none } else x.inp m := by
  obtain rfl | rfl : m = 0 ∨ m = 1 := by omega
  all_goals rfl
end

section
variable (d : Dev) (p : PartId) (i : VIns)

@[simp] theorem Dev.vecDone_mem : (d.vecDone p i).mem = d.mem := by simp [Dev.vecDone, Dev.claimInputs, Dev.backToWork]
@[simp] theorem Dev.vecDone_flows : (d.vecDone p i).flows = d.flows := by simp [Dev.vecDone, Dev.claimInputs, Dev.backToWork]

theorem Dev.part_vecDone_other {u : PartId} (h : u ≠ p) : (d.vecDone p i).part u = d.part u := by
  simp only [Dev.vecDone, Dev.claimInputs, Dev.backToWork, Dev.complete, Dev.part_modPart_other _ _ _ _ h,
    Dev.part_modPort_other _ _ _ _ _ h]

/-- A completed instruction is no longer in the engine, and what stands at the inputs stays (R92). -/
theorem Dev.part_vecDone (m : Fin 2) : (∀ j ∈ ((d.vecDone p i).part p).vq, ¬(j.port.num = i.port.num ∧ j.id = i.id))
    ∧ (((d.vecDone p i).part p).inp m).status = ((d.part p).inp m).status
    ∧ (((d.vecDone p i).part p).inp m).rows = ((d.part p).inp m).rows := by
  obtain ⟨x, y, hpart, hx⟩ : ∃ (x : Part) (y : PortSt), (d.vecDone p i).part p = (((x.vecDrop i).setPort i.port y).claimInput 0).claimInput 1
      ∧ x.inp m = (d.part p).inp m :=
    ⟨_, _, by rw [Dev.vecDone, Dev.claimInputs, Dev.part_modPart_same, Dev.complete, Dev.part_modPort_same, Dev.part_modPart_same],
      by rw [Dev.backToWork, Dev.part_modPart_same]; rfl⟩
  obtain ⟨hq1, hs1, hr1⟩ := Part.claimInput_spec (((x.vecDrop i).setPort i.port y).claimInput 0) 1 m
  obtain ⟨hq0, hs0, hr0⟩ := Part.claimInput_spec ((x.vecDrop i).setPort i.port y) 0 m
  rw [hpart, hq1, hs1, hr1, hq0, hs0, hr0, Part.inp_setPort, Part.inp_vecDrop, hx, Part.setPort_vq]
  refine ⟨fun j hj ⟨hnum, hid⟩ => ?_, by split <;> rfl, by split <;> rfl⟩
  simpa [hnum, hid] using (List.mem_filter.mp hj).2

@[simp] theorem Dev.vecReplace_mem : (d.vecReplace p i).mem = d.mem := by simp [Dev.vecReplace]
@[simp] theorem Dev.vecReplace_flows : (d.vecReplace p i).flows = d.flows := by simp [Dev.vecReplace]

theorem Dev.part_vecReplace_other {u : PartId} (h : u ≠ p) : (d.vecReplace p i).part u = d.part u := Dev.part_modPart_other _ _ _ _ h

/-- An instruction that goes on stands in its place, and an input it has claimed is still its own. -/
theorem Dev.claimant_vecReplace {j : VIns} {n : Fin 2} (h : (d.part p).claimant n = some j) (hp : i.port.num = j.port.num) (hid : i.id = j.id) :
    ((d.vecReplace p i).part p).claimant n = some i := by
  rw [Dev.vecReplace, Dev.part_modPart_same]
  unfold Part.claimant at h ⊢
  have hinp : ({ d.part p with vq := (d.part p).vq.map (fun k => if k.port.num = i.port.num ∧ k.id = i.id then i else k) } : Part).inp n
      = (d.part p).inp n := rfl
  rw [hinp]
  cases hc : ((d.part p).inp n).claim with
  | none => simp [hc] at h
  | some c =>
    obtain ⟨q, id⟩ := c
    simp only [hc] at h ⊢
    have hj := List.find?_some h
    simp only [Bool.and_eq_true, beq_iff_eq] at hj
    obtain ⟨hq, hi⟩ := hj
    have hsame : (fun k : VIns => k.port.num == q && k.id == id) ∘ (fun k => if k.port.num = i.port.num ∧ k.id = i.id then i else k)
        = fun k => k.port.num == q && k.id == id := by
      funext k
      simp only [Function.comp]
      split
      · next hk => rw [hk.1, hk.2]
      · rfl
    rw [List.find?_map, hsame, h]
    simp [hp, hid]
end

/-! ## A segment of the engine (R86, R88) -/

theorem exec_vectorSegment (p : PartId) (s : State) : exec (.vectorSegment p) s = execVectorSegment p s := rfl

/-- The instruction that takes the lanes has a turn, in a device that notes its port as the last served and is otherwise the same. -/
theorem exec_vectorSegment_turn {p : PartId} {s : State} {i : VIns} (hf : s.dev.fenced p = false) (hpick : s.dev.vecPick p = some i)
    (hread : s.dev.vecReadCheck i = none) : ∃ D : Dev, exec (.vectorSegment p) s = .next { s with dev := D.vecTurn p i }
      ∧ D.mem = s.dev.mem ∧ D.flows = s.dev.flows ∧ ∀ u, u ≠ p → D.part u = s.dev.part u := by
  have hnote : ∀ f, (s.dev.modPart p f).vecReadCheck i = s.dev.vecReadCheck i := fun _ => rfl
  by_cases hport : i.port.num < 3
  · refine ⟨s.dev.modPart p (fun x => { x with vLast := i.port.num }), (exec_vectorSegment p s).trans (onDev_eq _ _ _ ?_), by simp, by simp,
      fun u hu => Dev.part_modPart_other _ _ _ _ hu⟩
    simp only [hf, hpick, hport, hnote, hread, Bool.false_eq_true, if_false, if_true, ite_self]
  · refine ⟨s.dev, (exec_vectorSegment p s).trans (onDev_eq _ _ _ ?_), rfl, rfl, fun _ _ => rfl⟩
    simp only [hf, hpick, hport, hread, Bool.false_eq_true, if_false, ite_self]

theorem map_getD_range {α : Type} (l : List α) (z : α) : (List.range l.length).map (fun j => l.getD j z) = l := by
  refine List.ext_getElem (by simp) fun k h1 h2 => ?_
  simp [h2]

/-- Lanes of an unblocked destination are stored as a run, and staged nowhere (R97). -/
theorem Dev.stageStore_unblocked {d : Dev} {p : PartId} {i : VIns} {x : Desc} (hx : x.blocked = false) (sr : Bool) (lo : Nat)
    (lanes : List Lane) : ∃ e, (d.stageStore p i x sr lo lanes).1 = (d.storeRun x sr (i.key p) lo lanes).1.count p x.layer.toNat e := by
  refine ⟨(d.storeRun x sr (i.key p) lo lanes).2, ?_⟩
  simp only [Dev.stageStore, Dev.storeRange, hx, Bool.false_eq_true, if_false, Nat.add_sub_cancel_left, map_getD_range]

/-- A turn that gives all elements of an unblocked destination stores them as one run and completes its instruction. -/
theorem Dev.stageTurn_whole {d : Dev} {p : PartId} {i : VIns} {x : Desc} (hx : x.blocked = false) (sr : Bool) {lanes : List Lane}
    (hall : x.count ≤ lanes.length) (next : Nat) : ∃ e, d.stageTurn p i x sr 0 lanes next
      = ((d.storeRun x sr (i.key p) 0 lanes).1.count p x.layer.toNat e).vecDone p i := by
  obtain ⟨e, he⟩ := Dev.stageStore_unblocked (d := d) (p := p) (i := i) hx sr 0 lanes
  refine ⟨e, ?_⟩
  rw [Dev.stageTurn, if_pos (by omega), he]

/-- A turn that gives all values of a line: each stands in memory as it converts, nothing else in memory has changed, and the instruction is gone
from the engine (R86, R97). -/
theorem Dev.stageTurn_line {x : Desc} {vs : List Val} (hx : x.Line vs.length) (hsr : kindSr x.kind = false) (d : Dev) (p : PartId) (i : VIns)
    (next : Nat) : let D := d.stageTurn p i x false 0 (vs.map (Lane.val · true)) next
    (∀ (k : Nat) (hk : k < vs.length), D.rdN (x.base + 4 * k) 4 = (convElem 0 .rne vs[k]).1)
      ∧ (∀ a, a < x.base ∨ x.base + 4 * vs.length ≤ a → memGet D.mem a = memGet d.mem a) ∧ (∀ u, u ≠ p → D.part u = d.part u)
      ∧ D.flows = d.flows ∧ ∀ j ∈ (D.part p).vq, ¬(j.port.num = i.port.num ∧ j.id = i.id) := by
  obtain ⟨e, hturn⟩ := Dev.stageTurn_whole (d := d) (p := p) (i := i) hx.not_blocked false (lanes := vs.map (Lane.val · true))
    (by simp [hx.count_eq]) next
  obtain ⟨hin, hout⟩ := Dev.storeRun_line hx hsr (i.key p) vs d 0 (by omega)
  have hrun := Dev.onlyMem_storeRun x false (i.key p) (vs.map (Lane.val · true)) d 0
  dsimp only
  rw [hturn]
  refine ⟨fun k hk => ?_, fun a ha => ?_, fun u hu => ?_, ?_, (Dev.part_vecDone _ p i 0).1⟩
  · rw [Dev.rdN, Dev.vecDone_mem, Dev.count_mem, ← Dev.rdN]
    simpa using hin k hk
  · rw [Dev.vecDone_mem, Dev.count_mem]
    exact hout a (by omega)
  · rw [Dev.part_vecDone_other _ _ _ hu, Dev.part, Dev.count_parts, hrun.parts, Dev.part]
  · rw [Dev.vecDone_flows, Dev.count_flows, hrun.flows]

/-! ## Elementwise instructions of two sources -/

/-- The FP32 operation of a two-source elementwise opcode (R81, R82, R123). -/
def VIns.computes (i : VIns) (op : F32 → F32 → F32) : Prop :=
  (i.opc = 0x30 ∧ op = f32Add) ∨ (i.opc = 0x31 ∧ op = f32Sub) ∨ (i.opc = 0x32 ∧ op = f32Mul) ∨ (i.opc = 0x34 ∧ op = f32Min)
    ∨ (i.opc = 0x35 ∧ op = f32Max) ∨ (i.opc = 0x38 ∧ op = f32Div)

/-- What an operation of two FP32 lines gives at element `k`. -/
def Dev.lineVal (d : Dev) (op : F32 → F32 → F32) (y z : Desc) (k : Nat) : Val :=
  ofF32 (op (toF32 (decElem 0 (d.rdN (y.base + 4 * k) 4))) (toF32 (decElem 0 (d.rdN (z.base + 4 * k) 4))))

section
variable {i : VIns} {op : F32 → F32 → F32} (h : i.computes op)
include h

/-- It neither computes integers nor converts alone. -/
theorem VIns.computes.opc_ne : i.opc ≠ 0x3A ∧ i.opc ≠ 0x44 := by
  obtain ⟨h, _⟩ | ⟨h, _⟩ | ⟨h, _⟩ | ⟨h, _⟩ | ⟨h, _⟩ | ⟨h, _⟩ := h <;> rw [h] <;> decide

theorem VIns.computes.vecOp_eq (x : Part) (a b c : F32) : x.vecOp i a b c = op a b := by
  obtain ⟨h, rfl⟩ | ⟨h, rfl⟩ | ⟨h, rfl⟩ | ⟨h, rfl⟩ | ⟨h, rfl⟩ | ⟨h, rfl⟩ := h <;> rw [Part.vecOp, h] <;> rfl

theorem VIns.computes.not_sr : i.sr = false := by
  obtain ⟨_, hcvt⟩ := h.opc_ne
  rw [VIns.sr, beq_false_of_ne hcvt, Bool.false_and]

/-- Its turn is a segment of its destination. -/
theorem VIns.computes.vecTurn_eq {x : Desc} (hd : i.d = some x) (d : Dev) (p : PartId) : d.vecTurn p i = d.elemSegment p i x := by
  obtain ⟨h, _⟩ | ⟨h, _⟩ | ⟨h, _⟩ | ⟨h, _⟩ | ⟨h, _⟩ | ⟨h, _⟩ := h <;> rw [Dev.vecTurn, h, hd] <;> rfl

section
variable {x y z : Desc} {n : Nat} (hx : x.Line n) (hy : y.Line n) (hz : z.Line n) (h1 : i.s1 = some y) (h2 : i.s2 = some z)
  (hmask : TWordMaskKind i.w = 0) (hbf : opf i.w 1 = false) (hsc : opf i.w 3 = false)
include hx hy hz h1 h2 hmask hbf hsc

/-- Without a mask and scalars the lane of element `k` has the operation of its sources' elements (R86, R89). -/
theorem VIns.computes.elemLane_eq (d : Dev) (p : PartId) {k : Nat} (hk : k < n) : d.elemLane p i x k = .val (d.lineVal op y z k) true := by
  obtain ⟨hint, _⟩ := h.opc_ne
  have hact : d.active i k [k, 0, 0, 0] = true := by simp only [Dev.active, hmask]
  simp only [Dev.elemLane, hx.ixOf_dims hk, hact, if_true, Dev.elemVal, if_neg hint, hbf, hsc, h1, h2, Dev.srcAt, h.vecOp_eq,
    hy.bcast_ix hk, hz.bcast_ix hk, hy.rdF32_ix, hz.rdF32_ix, Bool.false_eq_true, if_false, Dev.lineVal]

/-- A destination of one segment takes all of its values in the instruction's first turn, all sources read before (R86, R88). -/
theorem VIns.computes.vecTurn_line (hd : i.d = some x) (hpos : i.pos = 0) (hn : n ≤ 512) (d : Dev) (p : PartId) :
    d.vecTurn p i = d.stageTurn p i x false 0 (((List.range n).map (d.lineVal op y z)).map (Lane.val · true)) 1 := by
  have hlanes : i.segLanes x (d.elemLane p i x) = ((List.range n).map (d.lineVal op y z)).map (Lane.val · true) := by
    rw [VIns.segLanes, hpos, hx.count_eq, List.map_map, Nat.mul_zero, Nat.sub_zero, show Nat.min 512 n = n from Nat.min_eq_right hn]
    refine List.map_congr_left fun k hk => ?_
    rw [Nat.zero_add]
    exact h.elemLane_eq hx hy hz h1 h2 hmask hbf hsc d p (List.mem_range.mp hk)
  rw [h.vecTurn_eq hd, Dev.elemSegment, Dev.segTurn, h.not_sr, hlanes, hpos]

end

end

/-! ## Accumulator tiles (R92 to R96) -/

theorem exec_vaccTile (p : PartId) (n : Fin 2) (s : State) : exec (.vaccTile p n) s = .next { s with dev := s.dev.vaccTile p n } := rfl

section
variable (d : Dev) (p : PartId) (n : Fin 2) (w : W64)

/-- Status bits alone change in VEC_STATUS (R95). -/
theorem Dev.noteTile_only : d.noteTile p n w = { d with regs := (d.noteTile p n w).regs } := by
  unfold Dev.noteTile
  dsimp only
  split <;> split <;> split <;> rfl

/-- An input whose array emits nothing more is emptied (R92). -/
theorem Dev.freeInput_of_not_emitting (h : (d.arr p n).emit = []) : d.freeInput p n
    = d.modPart p (fun x => x.setInp n { x.inp n with status := none, rows := [], short := false }) := by
  have hemit : ((d.modPart p (fun x => x.setInp n { x.inp n with status := none, rows := [], short := false })).arr p n).emit = [] := by
    rw [Dev.arr, Dev.part_modPart_same, Part.arr_setInp]
    exact h
  rw [Dev.freeInput, hemit]
  rfl

end

/-- One more lane of an unblocked tensor is stored, and its events are added to those before. -/
def storeLane (x : Desc) (key : RndKey) (z : Dev × Ev) (e : Nat × Lane) : Dev × Ev :=
  ((z.1.storeRun x false key e.1 [e.2]).1, z.2.add (z.1.storeRun x false key e.1 [e.2]).2)

theorem onlyMem_storeLanes (x : Desc) (key : RndKey) (l : List (Nat × Lane)) : ∀ z : Dev × Ev, z.1.OnlyMem (l.foldl (storeLane x key) z).1 := by
  induction l with
  | nil => exact fun _ => rfl
  | cons e t ih => exact fun z => (Dev.onlyMem_storeRun x false key [e.2] z.1 e.1).trans (ih _)

/-- Single elements of an unblocked tensor go to memory one after the other, and their events are counted (R51, R97). -/
theorem Dev.storeSome_unblocked {x : Desc} (hx : x.blocked = false) (d : Dev) (p : PartId) (key : RndKey) (l : List (Nat × Lane)) :
    d.storeSome p x key l = (l.foldl (storeLane x key) (d, {})).1.count p x.layer.toNat (l.foldl (storeLane x key) (d, {})).2 := by
  simp only [Dev.storeSome, hx, Bool.false_eq_true, if_false]
  rfl

theorem Dev.parts_storeSome_unblocked {x : Desc} (hx : x.blocked = false) (d : Dev) (p : PartId) (key : RndKey) (l : List (Nat × Lane)) :
    (d.storeSome p x key l).parts = d.parts ∧ (d.storeSome p x key l).flows = d.flows := by
  rw [Dev.storeSome_unblocked hx, Dev.count_parts, Dev.count_flows]
  exact ⟨(onlyMem_storeLanes x key l (d, {})).parts, (onlyMem_storeLanes x key l (d, {})).flows⟩

theorem Part.claimant_setInp (y : Part) (n : Fin 2) (v : AccIn) (h : v.claim = (y.inp n).claim) :
    (y.setInp n v).claimant n = y.claimant n := by
  rw [Part.claimant, Part.inp_setInp_same, h, Part.vq_setInp, ← Part.claimant]

/-- What a tile leaves of an input whose array emits nothing more: it is empty, and claimed as before (R92, R95). -/
theorem Dev.freeInput_noteTile (d : Dev) (p : PartId) (n : Fin 2) (w : W64) (hemit : (d.arr p n).emit = []) :
    let D := (d.noteTile p n w).freeInput p n
    D.flows = d.flows ∧ (∀ u, u ≠ p → D.part u = d.part u)
      ∧ ((D.part p).inp n).status = none ∧ ((D.part p).inp n).rows = [] ∧ (D.part p).claimant n = (d.part p).claimant n := by
  have hparts : (d.noteTile p n w).parts = d.parts := by rw [Dev.noteTile_only]
  have hflows : (d.noteTile p n w).flows = d.flows := by rw [Dev.noteTile_only]
  have hpart : ∀ u, (d.noteTile p n w).part u = d.part u := fun u => by rw [Dev.part, hparts, Dev.part]
  have hfree := Dev.freeInput_of_not_emitting (d.noteTile p n w) p n (by rw [Dev.arr, hpart]; exact hemit)
  dsimp only
  rw [hfree, Dev.part_modPart_same, hpart, Part.inp_setInp_same]
  refine ⟨by rw [Dev.modPart_flows, hflows], fun u hu => by rw [Dev.part_modPart_other _ _ _ _ hu, hpart], rfl, rfl, ?_⟩
  exact Part.claimant_setInp _ n { (d.part p).inp n with status := none, rows := [], short := false } rfl

/-- A tile of an unblocked destination is stored at once; behind the last one its VACC has completed, behind another it stands at its next tile
(R94, R96). -/
theorem Dev.tileMode_spec {i : VIns} {x : Desc} (hx : x.blocked = false) (d : Dev) (p : PartId) (rows cols : Nat) (vals : List (List F32))
    (last : Bool) : let D := d.tileMode p i x rows cols vals last
    D.mem = (d.storeSome p x (i.key p) (d.tileLanes p i x i.pos rows cols vals)).mem ∧ (∀ u, u ≠ p → D.part u = d.part u)
      ∧ D.flows = d.flows
      ∧ (∀ m, ((D.part p).inp m).status = ((d.part p).inp m).status ∧ ((D.part p).inp m).rows = ((d.part p).inp m).rows)
      ∧ (last = true → ∀ j ∈ (D.part p).vq, ¬(j.port.num = i.port.num ∧ j.id = i.id))
      ∧ (last = false → ∀ n, (d.part p).claimant n = some i → (D.part p).claimant n = some { i with pos := i.pos + 1 }) := by
  obtain ⟨E, hE⟩ : ∃ E, E = d.storeSome p x (i.key p) (d.tileLanes p i x i.pos rows cols vals) := ⟨_, rfl⟩
  obtain ⟨hparts, hflows⟩ := Dev.parts_storeSome_unblocked hx d p (i.key p) (d.tileLanes p i x i.pos rows cols vals)
  rw [← hE] at hparts hflows ⊢
  have hpart : ∀ u, E.part u = d.part u := fun u => by rw [Dev.part, hparts, Dev.part]
  have hD : d.tileMode p i x rows cols vals last = if last then E.vecDone p i else E.vecReplace p { i with pos := i.pos + 1 } := by
    simp only [Dev.tileMode, hx, Bool.false_and, Bool.false_eq_true, if_false, hE]
  dsimp only
  rw [hD]
  cases last with
  | true =>
    refine ⟨by simp, fun u hu => ?_, by simp [hflows], fun m => ?_, fun _ => ?_, by simp⟩
    · rw [if_pos rfl, Dev.part_vecDone_other _ _ _ hu, hpart]
    · obtain ⟨_, hs, hr⟩ := Dev.part_vecDone E p i m
      exact ⟨hs.trans (by rw [hpart]), hr.trans (by rw [hpart])⟩
    · obtain ⟨hgone, _⟩ := Dev.part_vecDone E p i 0
      exact hgone
  | false =>
    refine ⟨by simp, fun u hu => ?_, by simp [hflows], fun m => ?_, by simp, fun _ n hn => ?_⟩
    · exact (Dev.part_vecReplace_other _ _ _ hu).trans (hpart u)
    · rw [← hpart, if_neg (by simp), Dev.vecReplace, Dev.part_modPart_same]
      exact ⟨rfl, rfl⟩
    · exact Dev.claimant_vecReplace E p _ ((congrArg (Part.claimant · n) (hpart p)).trans hn) rfl rfl

/-- A tile whose status word is the one that its VACC expects is written as R94 places it, behind what it leaves in VEC_STATUS. -/
theorem Dev.vaccTile_writes {d : Dev} {p : PartId} {n : Fin 2} {i : VIns} {x : Desc} {w : W64} (hf : d.fenced p = false)
    (hclaim : (d.part p).claimant n = some i) (hstatus : ((d.part p).inp n).status = some w) (hd : i.d = some x)
    (hnum : bits w 63 48 = (bits i.w.w1 39 24 + i.pos) % 2 ^ 16) (htopk : bit w 6 = false) (hop : opf i.w 2 = false)
    (hread : i.pos = 0 → d.vecReadCheck i = none) (hbusy : d.extsBusy i.exts = false) (hemit : (d.arr p n).emit = []) :
    d.vaccTile p n = ((d.noteTile p n w).freeInput p n).tileMode p i x (bits w 20 15) (bits w 26 21) ((d.part p).inp n).rows
      (i.pos == bits i.w.w1 63 40) := by
  have hcheck : (if i.pos = 0 then d.vecReadCheck i else none) = none := by
    split
    · next h0 => exact hread h0
    · rfl
  simp [Dev.vaccTile, hclaim, hstatus, hd, hf, hbusy, hnum, htopk, hop, hcheck, hemit]

/-- Settles O27: a segment of the engine is the turn above, a tile of a VACC is written and the VACC completes or goes on. -/
theorem vectorEngineWritesItsDestination : Obligations.VectorEngineWritesItsDestination := by
  refine ⟨?_, ?_⟩
  · intro p s i x y z n op line hf hpick hd h1 h2 hpos hread hmask hbf hsc _ hn hsr hop hx hy hz
    obtain ⟨D, hexec, hmem, hflows, hpart⟩ := exec_vectorSegment_turn hf hpick hread
    have hlen : ((List.range n).map (D.lineVal op y z)).length = n := by simp
    obtain ⟨hval, hbut, hother, hfl, hgone⟩ := Dev.stageTurn_line (by rw [hlen]; exact hx) hsr D p i 1
    rw [hlen] at hbut
    rw [VIns.computes.vecTurn_line hop hx hy hz h1 h2 hmask hbf hsc hd hpos hn] at hexec
    refine ⟨_, hexec, ?_, ?_, fun u hu => (hother u hu).trans (hpart u hu), hfl.trans hflows, hgone⟩
    · rintro k hk a b rfl rfl
      exact (hval k (by rwa [hlen])).trans (by simp [Dev.lineVal, Dev.rdN, hmem])
    · intro a ha
      exact (hbut a ha).trans (by rw [hmem])
  · intro p n s i x w hf hclaim hstatus hd hnum htopk hop hread hx hbusy hemit
    obtain ⟨hflows, hother, hst, hrows, hclaimed⟩ := Dev.freeInput_noteTile s.dev p n w hemit
    obtain ⟨hmemT, hotherT, hflowsT, hinp, hlast, hnext⟩ := Dev.tileMode_spec (i := i) hx ((s.dev.noteTile p n w).freeInput p n) p
      (bits w 20 15) (bits w 26 21) ((s.dev.part p).inp n).rows (i.pos == bits i.w.w1 63 40)
    obtain ⟨hstT, hrowsT⟩ := hinp n
    refine ⟨_, exec_vaccTile p n s, ?_⟩
    rw [Dev.vaccTile_writes hf hclaim hstatus hd hnum htopk hop hread hbusy hemit]
    refine ⟨?_, hstT.trans hst, hrowsT.trans hrows, fun u hu => (hotherT u hu).trans (hother u hu), hflowsT.trans hflows,
      fun he => ?_, fun hne => ?_⟩
    · rintro D rfl
      exact hmemT
    · exact hlast (by simpa using he)
    · exact hnext (by simpa using hne) n (hclaimed.trans hclaim)

end Sys2Proof.Machine
end

section
/-! SUPPORT. The registers of the update units, the tables of watches and noise, and the micro-batch policy (R210 to R212, R247, R248). -/
namespace Sys2Proof.Machine

/-! ## W1C fields of a register write -/

/-- Writing a field with the value that it holds leaves the word. -/
theorem putBits_bits_self (w : W64) (hi lo : Nat) : putBits w hi lo (bits w hi lo) = w := by
  have hle : bits w hi lo * 2 ^ lo ≤ w.toNat :=
    Nat.le_trans (Nat.mul_le_mul_right _ (Nat.mod_le _ _)) (Nat.div_mul_le_self _ _)
  rw [putBits, Nat.mod_eq_of_lt (bits_lt w hi lo), Nat.sub_add_cancel hle, BitVec.ofNat_toNat, BitVec.setWidth_eq]

/-- A W1C field where no bit is written 1 keeps its content (R7). -/
theorem writeFld_w1c_keeps {v : W64} {f : Fld} (hacc : f.acc = .w1c) (hv : bits v f.hi f.lo = 0) (old : W64) : writeFld v old f = old := by
  have hx : Nat.xor (bits old f.hi f.lo) (Nat.land (bits old f.hi f.lo) 0) = bits old f.hi f.lo := by
    show bits old f.hi f.lo ^^^ (bits old f.hi f.lo &&& 0) = _
    rw [Nat.and_zero, Nat.xor_zero]
  simp only [writeFld, hacc, hv, hx, putBits_bits_self]

/-- A W1C field where every bit is written 1 is cleared (R7). -/
theorem writeFld_w1c_clears {v : W64} {f : Fld} (hacc : f.acc = .w1c) (hv : bits v f.hi f.lo = 2 ^ (f.hi + 1 - f.lo) - 1) (old : W64) :
    writeFld v old f = putBits old f.hi f.lo 0 := by
  have hx : Nat.xor (bits old f.hi f.lo) (Nat.land (bits old f.hi f.lo) (2 ^ (f.hi + 1 - f.lo) - 1)) = 0 := by
    show bits old f.hi f.lo ^^^ (bits old f.hi f.lo &&& (2 ^ (f.hi + 1 - f.lo) - 1)) = 0
    rw [Nat.and_two_pow_sub_one_of_lt_two_pow (bits_lt old f.hi f.lo), Nat.xor_self]
  simp only [writeFld, hacc, hv, hx]

/-- The order in which the fields of a register are listed does not matter. -/
theorem setsFields_perm {o : Nat} {l m : List (Nat × Nat × Nat)} {s t : State} (h : l.Perm m) (hs : setsFields o l s t) : setsFields o m s t := by
  obtain ⟨honly, hfld, hbit⟩ := hs
  exact ⟨honly, fun f hf => hfld f (h.mem_iff.mpr hf), fun i hi hn => hbit i hi fun f hf => hn f (h.mem_iff.mp hf)⟩

/-! ## UPDc_OPEN (R211) -/

theorem exec_updOpenClear (a : Agent) (p : PartId) (c : Fin 4) (s : State) : exec (.updOpenClear a p c) s = execUpdOpenClear a p c s := rfl

/-- A write of 1 to VALID leaves 0 in UPDc_OPEN. -/
theorem Dev.updOpenWrite_valid {v : W64} (hv : bit v 63 = true) (d : Dev) (p : PartId) (c : Fin 4) :
    d.updOpenWrite p c v = d.setReg (R.updOpen p c) 0 := if_pos hv

theorem exec_updOpenClear_accepted {a : Agent} {p : PartId} {c : Fin 4} {s : State} (h : s.dev.accepts a (R.updOpen p c)) :
    exec (.updOpenClear a p c) s = .next { s with dev := s.dev.setReg (R.updOpen p c) 0 } := by
  have hvalid : bit (BitVec.ofNat 64 (2 ^ 63)) 63 = true := by decide
  simp only [exec_updOpenClear, execUpdOpenClear, onAgent_eq a _ _ s h, WOut.ok, Dev.updOpenWrite_valid hvalid]

/-! ## UPDc_STATUS (R210) -/

theorem exec_updFaultClear (a : Agent) (p : PartId) (c : Fin 4) (s : State) : exec (.updFaultClear a p c) s = execUpdFaultClear a p c s := rfl

/-- UPDc_STATUS: CODE, STATE and FAULT_BLOCK are RO, the events and FAULT are W1C. -/
theorem regFields_updStatus (p : PartId) (c : Fin 4) : regFields (R.updStatus p c)
    = [⟨63, 56, .ro, 0⟩, ⟨55, 52, .ro, 0⟩, ⟨47, 16, .ro, 0⟩, ⟨7, 5, .w1c, 0⟩, ⟨0, 0, .w1c, 0⟩] := by
  rw [R.updStatus, regFields_part p _ (by omega) (by omega)]
  match c with
  | 0 => rfl
  | 1 => rfl
  | 2 => rfl
  | 3 => rfl

/-- A write of 1 stores 0 in FAULT and leaves every other bit, the three events' too. -/
theorem Dev.writeReg_updStatus_one (d : Dev) (p : PartId) (c : Fin 4) : d.writeReg (R.updStatus p c) 1 = d.setFld (R.updStatus p c) 0 0 0 := by
  have hw (old : W64) : writeWord (regFields (R.updStatus p c)) old 1
      = writeFld 1 (writeFld 1 old ⟨7, 5, .w1c, 0⟩) ⟨0, 0, .w1c, 0⟩ := by rw [regFields_updStatus]; rfl
  rw [Dev.writeReg, hw, writeFld_w1c_clears (f := ⟨0, 0, .w1c, 0⟩) rfl (by decide), writeFld_w1c_keeps rfl (by decide)]
  rfl

/-- A write of 1 clears FAULT, CODE and FAULT_BLOCK, one field after another. -/
theorem Dev.updStatusWrite_one (d : Dev) (p : PartId) (c : Fin 4) :
    d.updStatusWrite p c 1 = d.setFlds (R.updStatus p c) [(0, 0, 0), (63, 56, 0), (47, 16, 0)] := by
  rw [Dev.updStatusWrite, if_pos (by decide), Dev.writeReg_updStatus_one]
  rfl

theorem exec_updFaultClear_accepted {a : Agent} {p : PartId} {c : Fin 4} {s : State} (h : s.dev.accepts a (R.updStatus p c)) :
    ∃ t, exec (.updFaultClear a p c) s = .next t ∧ setsFields (R.updStatus p c) [(63, 56, 0), (47, 16, 0), (0, 0, 0)] s t := by
  refine ⟨_, by rw [exec_updFaultClear, execUpdFaultClear, onAgent_eq a _ _ s h], ?_⟩
  show setsFields _ _ s { s with dev := s.dev.updStatusWrite p c 1 }
  rw [Dev.updStatusWrite_one]
  exact setsFields_perm (by decide) (setsFields_setFlds _ _ s (by decide) (by decide))

/-! ## UPD_WATCH and COLL_NOISE (R212, R247) -/

theorem exec_updWatchWrite (a : Agent) (p : PartId) (v : W64) (s : State) : exec (.updWatchWrite a p v) s = execUpdWatchWrite a p v s := rfl
theorem exec_collNoiseWrite (a : Agent) (p : PartId) (v : W64) (s : State) : exec (.collNoiseWrite a p v) s = execCollNoiseWrite a p v s := rfl

/-- The address in a word's BASE is 0, or that of 32 KiB inside the partition's own bonded SRAM. -/
def tableBaseOk (p : PartId) (v : W64) : Prop :=
  bits v 47 15 = 0 ∨ (sramBase p ≤ bits v 47 15 * 2 ^ 15 ∧ bits v 47 15 * 2 ^ 15 + 2 ^ 15 ≤ sramBase p + 2 ^ 28)

theorem Dev.tableWrite_takes {p : PartId} {v : W64} (h : tableBaseOk p v) (d : Dev) (o : Nat) :
    (d.tableWrite p o v).1 = d.setFlds o [(47, 15, bits v 47 15)] := by
  have hc : bits v 47 15 * 2 ^ 15 = 0 ∨ (sramBase p ≤ bits v 47 15 * 2 ^ 15 ∧ bits v 47 15 * 2 ^ 15 + 2 ^ 15 ≤ sramBase p + 2 ^ 28) :=
    h.imp_left fun h0 => by rw [h0, Nat.zero_mul]
  unfold Dev.tableWrite
  rw [if_pos hc]
  rfl

/-- An accepted write of a table register, whichever of the two, sets BASE and nothing else. -/
theorem onAgent_tableWrite {a : Agent} {p : PartId} {o : Nat} {v : W64} {s : State} (hv : tableBaseOk p v) (h : s.dev.accepts a o) :
    ∃ t, onAgent a o (fun d => d.tableWrite p o v) s = .next t ∧ setsFields o [(47, 15, bits v 47 15)] s t := by
  refine ⟨_, onAgent_eq a o _ s h, ?_⟩
  rw [Dev.tableWrite_takes hv]
  exact setsFields_setFlds o _ s rfl (by simpa using bits_lt v 47 15)

/-! ## MB_POLICY (R248) -/

theorem exec_mbPolicyWrite (a : Agent) (p : PartId) (v : W64) (s : State) : exec (.mbPolicyWrite a p v) s = execMbPolicyWrite a p v s := rfl

/-- MAX, MIN and NEXT as a word gives them, as field writes. -/
def mbLimits (v : W64) : List (Nat × Nat × Nat) := [(63, 48), (47, 32), (31, 16)].map (fun f => (f.1, f.2, bits v f.1 f.2))

/-- What a write of MB_POLICY does to CHANGED, as field writes: set where NEXT changes, else cleared where 1 is written, else left. -/
def Dev.mbChanged (d : Dev) (p : PartId) (v : W64) : List (Nat × Nat × Nat) :=
  if bits v 31 16 ≠ d.fld (R.mbPolicy p) 31 16 then [(0, 0, 1)] else if bit v 0 then [(0, 0, 0)] else []

/-- The limits of a word stand in order, so that no clamp of R248 alters them, and tenant code gives MIN and MAX as they are. -/
structure Dev.mbFits (d : Dev) (p : PartId) (tenant : Bool) (v : W64) : Prop where
  tenantKeeps : tenant = true → bits v 63 48 = d.fld (R.mbPolicy p) 63 48 ∧ bits v 47 32 = d.fld (R.mbPolicy p) 47 32
  minPos : 0 < bits v 47 32
  minNext : bits v 47 32 ≤ bits v 31 16
  nextMax : bits v 31 16 ≤ bits v 63 48

section
variable {d : Dev} {p : PartId} {tenant : Bool} {v : W64}

theorem Dev.mbFits.min_eq (h : d.mbFits p tenant v) :
    (if tenant then d.fld (R.mbPolicy p) 47 32 else Nat.max 1 (bits v 47 32)) = bits v 47 32 := by
  split
  · next ht => exact (h.tenantKeeps ht).2.symm
  · exact Nat.max_eq_right h.minPos

theorem Dev.mbFits.max_eq (h : d.mbFits p tenant v) :
    (if tenant then d.fld (R.mbPolicy p) 63 48 else Nat.max (bits v 47 32) (bits v 63 48)) = bits v 63 48 := by
  split
  · next ht => exact (h.tenantKeeps ht).1.symm
  · exact Nat.max_eq_right (Nat.le_trans h.minNext h.nextMax)

theorem Dev.mbFits.next_eq (h : d.mbFits p tenant v) : Nat.min (bits v 63 48) (Nat.max (bits v 47 32) (bits v 31 16)) = bits v 31 16 := by
  rw [show Nat.max (bits v 47 32) (bits v 31 16) = bits v 31 16 from Nat.max_eq_right h.minNext]
  exact Nat.min_eq_right h.nextMax

/-- A write of MB_POLICY with limits in order stores them, and CHANGED after them. -/
theorem Dev.mbFits.mbWrite_eq (h : d.mbFits p tenant v) :
    (d.mbWrite p tenant v).1 = d.setFlds (R.mbPolicy p) (mbLimits v ++ d.mbChanged p v) := by
  simp only [Dev.mbWrite, h.min_eq, h.max_eq, h.next_eq, Dev.mbChanged, bne_iff_ne]
  split
  · rfl
  · split <;> rfl

end

/-- The fields of a write of MB_POLICY share no bit. -/
theorem fldsOk_mbWrite (d : Dev) (p : PartId) (v : W64) : fldsOk (mbLimits v ++ d.mbChanged p v) = true := by
  unfold Dev.mbChanged
  split
  · rfl
  · split <;> rfl

/-- Each value of a write of MB_POLICY fits its field. -/
theorem mbWrite_values_lt (d : Dev) (p : PartId) (v : W64) : ∀ f ∈ mbLimits v ++ d.mbChanged p v, f.2.2 < 2 ^ (f.1 + 1 - f.2.1) := by
  have hlimits : ∀ f ∈ mbLimits v, f.2.2 < 2 ^ (f.1 + 1 - f.2.1) := by
    intro f hf
    obtain ⟨g, _, rfl⟩ := List.mem_map.mp hf
    exact bits_lt v g.1 g.2
  have hchanged : ∀ f ∈ d.mbChanged p v, f.2.2 < 2 ^ (f.1 + 1 - f.2.1) := by
    unfold Dev.mbChanged
    split
    · decide
    · split <;> decide
  exact fun f hf => (List.mem_append.mp hf).elim (hlimits f) (hchanged f)

/-- A one-bit field that reads 1 or 0 is the bit. -/
theorem bit_of_bits {w : W64} {i n : Nat} (h : bits w i i = n) : bit w i = (n == 1) := by rw [bit_eq_bits, h]

/-- CHANGED behind a write of MB_POLICY: set where NEXT changed, else cleared where 1 was written. -/
theorem setsFields_mbChanged {s t : State} {p : PartId} {v : W64} (h : setsFields (R.mbPolicy p) (mbLimits v ++ s.dev.mbChanged p v) s t) :
    bit (t.dev.reg (R.mbPolicy p)) 0
      = (if bits v 31 16 ≠ s.dev.fld (R.mbPolicy p) 31 16 then true else !bit v 0 && bit (s.dev.reg (R.mbPolicy p)) 0) := by
  obtain ⟨_, hfld, hbit⟩ := h
  by_cases hne : bits v 31 16 ≠ s.dev.fld (R.mbPolicy p) 31 16
  · rw [if_pos hne]
    exact bit_of_bits (hfld (0, 0, 1) (by simp [Dev.mbChanged, hne]))
  · rw [if_neg hne]
    cases hv : bit v 0 with
    | true => exact bit_of_bits (hfld (0, 0, 0) (by rw [Dev.mbChanged, if_neg hne, hv]; simp))
    | false => exact hbit 0 (by decide) (by rw [Dev.mbChanged, if_neg hne, hv]; simp [mbLimits])

theorem exec_mbPolicyWrite_fits {a : Agent} {p : PartId} {v : W64} {s : State} (h : s.dev.accepts a (R.mbPolicy p))
    (hfits : s.dev.mbFits p (isTenant a) v) :
    ∃ t, exec (.mbPolicyWrite a p v) s = .next t ∧ setsFields (R.mbPolicy p) (mbLimits v ++ s.dev.mbChanged p v) s t := by
  refine ⟨_, by rw [exec_mbPolicyWrite, execMbPolicyWrite, onAgent_eq a _ _ s h], ?_⟩
  rw [hfits.mbWrite_eq]
  exact setsFields_setFlds _ _ s (fldsOk_mbWrite ..) (mbWrite_values_lt s.dev p v)

/-- Settles O16: each command by its own register's rule above. -/
theorem updateAndPolicyRegisters : Obligations.UpdateAndPolicyRegisters := by
  intro a p v s
  refine ⟨?_, ?_, ?_, ?_⟩
  · intro c h
    refine ⟨_, exec_updOpenClear_accepted h, onlyRegs_of _ s _ rfl fun o ho => ?_, Dev.reg_setReg_same ..⟩
    exact Dev.reg_setReg_other _ _ _ _ (by simpa using ho)
  · exact fun c h => exec_updFaultClear_accepted h
  · intro hv
    exact ⟨fun h => exec_updWatchWrite a p v s ▸ onAgent_tableWrite hv h, fun h => exec_collNoiseWrite a p v s ▸ onAgent_tableWrite hv h⟩
  · intro h htenant hmin hnext hmax
    obtain ⟨t, hexec, hset⟩ := exec_mbPolicyWrite_fits h ⟨htenant, hmin, hnext, hmax⟩
    have hchanged := setsFields_mbChanged hset
    obtain ⟨honly, hfld, _⟩ := hset
    have hlimit : ∀ g ∈ [(63, 48), (47, 32), (31, 16)], t.dev.fld (R.mbPolicy p) g.1 g.2 = bits v g.1 g.2 := fun g hg =>
      hfld (g.1, g.2, bits v g.1 g.2) (List.mem_append_left _ (List.mem_map_of_mem hg))
    exact ⟨t, hexec, honly, hlimit (63, 48) (by decide), hlimit (47, 32) (by decide), hlimit (31, 16) (by decide), hchanged⟩

end Sys2Proof.Machine
end

section
/-! SUPPORT. Installs of an armature image: what one that is accepted waits with, and what it leaves once it takes effect (R231 to R233, R243,
R244). -/
namespace Sys2Proof.Machine

theorem exec_armInstallGo (a : Agent) (p : PartId) (v : W64) (s : State) : exec (.armInstallGo a p v) s = execArmInstallGo a p v s := rfl
theorem exec_armInstallApply (ten : TenantId) (s : State) : exec (.armInstallApply ten) s = execArmInstallApply ten s := rfl

/-! ## Numbers in memory -/

theorem leNat_lt (l : List Byte) : leNat l < 256 ^ l.length := by
  induction l with
  | nil => simp [leNat]
  | cons b t ih =>
    have hb := b.isLt
    simp only [leNat, List.length_cons, Nat.pow_succ]
    omega

theorem Dev.rdN_lt (d : Dev) (a n : Nat) : d.rdN a n < 256 ^ n := by
  simpa [Dev.rdN] using leNat_lt (memRead d.mem a n)

/-- The tenant of a partition depends on the tenant table alone (R378, R379). -/
theorem Dev.tenantOf_congr {d D : Dev} (h : ∀ t, D.reg (R.tenCfg t) = d.reg (R.tenCfg t)) (p : PartId) : D.tenantOf p = d.tenantOf p := by
  simp only [Dev.tenantOf, Dev.holds, Dev.tenantValid, h]

/-! ## An install that is accepted (R233, R243) -/

/-- What an image at an address installs for a tenant: its epoch, and its groups with their tables resolved. -/
def Dev.imageInstall (d : Dev) (p : PartId) (t : TenantId) (i : Nat) : Install :=
  ⟨t, p, BitVec.ofNat 32 (d.rdN i 4), (d.imageEntries i).map (fun l => (entGroup l, d.groupFrom t l))⟩

section
variable (d : Dev) (p : PartId) (t : TenantId) (i : Nat)

/-- The epoch of an image takes four bytes, all of which are kept. -/
theorem Dev.imageInstall_epoch : (d.imageInstall p t i).epoch.toNat = d.rdN i 4 := by
  have h := d.rdN_lt i 4
  show (BitVec.ofNat 32 (d.rdN i 4)).toNat = _
  rw [BitVec.toNat_ofNat]
  exact Nat.mod_eq_of_lt h

theorem Dev.imageInstall_groups : (d.imageInstall p t i).groups.map (·.1) = (d.imageEntries i).map entGroup := by
  simp [Dev.imageInstall]

/-- The device in which an install waits without FORCE: STATE of ARM_STATUS is 1. -/
def Dev.installWaits (x : Install) : Dev :=
  ({ d with coll := { d.coll with installs := d.coll.installs ++ [x] } }).setFld (R.armStatus p) 55 52 1

end

/-- A write of GO without FORCE, of an image that no check refuses, lets its install wait. -/
theorem Dev.armWrite_waits {d : Dev} {p : PartId} {v : W64} {ten : TenantId} (hgo : bit v 63 = true) (hforce : bit v 62 = false)
    (hten : d.tenantOf p = some ten) (hok : (d.writeReg (R.armInstall p) v).installCheck p ten (bits v 47 6 * 64) = none) :
    let D := d.writeReg (R.armInstall p) v
    d.armWrite p v = D.installWaits p (D.imageInstall p ten (bits v 47 6 * 64)) := by
  have hten' : (d.writeReg (R.armInstall p) v).tenantOf p = some ten := by
    rw [← hten]
    refine Dev.tenantOf_congr (fun t => Dev.reg_setReg_other _ _ _ _ ?_) p
    unfold R.tenCfg R.armInstall R.part
    omega
  unfold Dev.armWrite
  simp only [hgo, hforce, hten', hok]
  rfl

section
variable (d : Dev) (p : PartId) (x : Install)
@[simp] theorem Dev.installWaits_mem : (d.installWaits p x).mem = d.mem := Dev.setFld_mem ..
@[simp] theorem Dev.installWaits_coll : (d.installWaits p x).coll = { d.coll with installs := d.coll.installs ++ [x] } := Dev.setFld_coll ..
end

theorem Dev.reg_installWaits_other {d : Dev} {p : PartId} {x : Install} {o : Nat} (h : o ≠ R.armStatus p) :
    (d.installWaits p x).reg o = d.reg o := Dev.reg_setFld_other _ _ _ _ _ _ h

/-! ## A table of groups (R233) -/

section
variable {α : Type}

/-- Entries put one after another. -/
def Tab.puts (t l : Tab α) : Tab α := l.foldl (fun t e => Tab.put t e.1 e.2) t

theorem Tab.find_puts_other (l : Tab α) {n : Nat} (h : n ∉ l.map (·.1)) : ∀ t : Tab α, Tab.find (t.puts l) n = Tab.find t n := by
  induction l with
  | nil => exact fun _ => rfl
  | cons e u ih =>
    intro t
    simp only [List.map_cons, List.mem_cons, not_or] at h
    exact (ih h.2 _).trans (Tab.find_put_other _ _ _ _ h.1)

theorem Tab.find_puts_mem (l : Tab α) (h : (l.map (·.1)).Nodup) {e : Nat × α} (he : e ∈ l) :
    ∀ t : Tab α, Tab.find (t.puts l) e.1 = some e.2 := by
  induction l with
  | nil => simp at he
  | cons f u ih =>
    intro t
    obtain ⟨hf, hu⟩ := List.nodup_cons.mp h
    rcases List.mem_cons.mp he with rfl | he
    · exact (Tab.find_puts_other u hf _).trans (Tab.find_put_same ..)
    · exact ih hu he _

end

/-! ## An install that takes effect (R233, R413, R244, R265) -/

/-- Memory, the collective engine and register `o` are as they were. -/
structure Dev.KeepsColl (o : Nat) (d D : Dev) : Prop where
  coll : D.coll = d.coll
  mem : D.mem = d.mem
  reg : D.reg o = d.reg o

theorem Dev.keepsColl_refl (o : Nat) (d : Dev) : d.KeepsColl o d := ⟨rfl, rfl, rfl⟩

section
variable {o : Nat} {d D : Dev} (h : d.KeepsColl o D)
include h

theorem Dev.KeepsColl.setReg {r : Nat} (v : W64) (hr : o ≠ r) : d.KeepsColl o (D.setReg r v) :=
  ⟨h.coll, h.mem, (Dev.reg_setReg_other _ _ _ _ hr).trans h.reg⟩

theorem Dev.KeepsColl.setFld {r : Nat} (hi lo v : Nat) (hr : o ≠ r) : d.KeepsColl o (D.setFld r hi lo v) := h.setReg _ hr

theorem Dev.KeepsColl.setFlag {r : Nat} (i : Nat) (b : Bool) (hr : o ≠ r) : d.KeepsColl o (D.setFlag r i b) := h.setReg _ hr

theorem Dev.KeepsColl.setInc (t : Tab IncSt) : d.KeepsColl o { D with inc := t } := ⟨h.coll, h.mem, h.reg⟩

theorem Dev.KeepsColl.setBoot (b : Boot) : d.KeepsColl o { D with boot := b } := ⟨h.coll, h.mem, h.reg⟩

theorem Dev.KeepsColl.each {α : Type} {f : Dev → α → Dev} (hf : ∀ E a, d.KeepsColl o E → d.KeepsColl o (f E a)) (l : List α) :
    d.KeepsColl o (D.each l f) := by
  induction l generalizing D with
  | nil => exact h
  | cons a t ih => exact ih (hf D a h)

theorem Dev.KeepsColl.incRecount (ho : o ≠ R.incStatus) : d.KeepsColl o D.incRecount := by
  unfold Dev.incRecount
  extract_lets n E
  have hE : d.KeepsColl o E := h.setFld 63 56 _ ho
  split
  · exact hE.setBoot _
  · exact hE

theorem Dev.KeepsColl.incEpoch (ho : o ≠ R.incStatus) (t : TenantId) : d.KeepsColl o (D.incEpoch t) := by
  refine h.each (fun E n hE => ?_) _
  unfold Dev.incClose
  split
  · exact (hE.setInc _).incRecount ho
  · exact hE

theorem Dev.KeepsColl.armReport {p : PartId} (ho : o ≠ R.armStatus p) (c : Status) : d.KeepsColl o (D.armReport p c) :=
  ((h.setFld 63 56 _ ho).setFld 55 52 _ ho).setFlag 32 _ ho

theorem Dev.KeepsColl.plogInstall (ho : ∀ p, o ≠ R.plogPos p) (t : TenantId) : d.KeepsColl o (D.plogInstall t) :=
  h.each (fun _ p hE => hE.setFld 31 0 _ (ho p)) _

end

section
variable (d : Dev) (x : Install)

/-- The engine with the groups of an install in place of the tenant's, whose numbers restart, and no install of the tenant's left. -/
def Dev.installColl : Coll :=
  { d.coll with
    groups := Tab.puts (d.coll.groups.filter (fun e => e.2.tenant != x.tenant)) x.groups
    nextNum := d.coll.nextNum.filter (fun e => !d.inRange x.tenant e.1)
    installs := d.coll.installs.filter (fun y => y.tenant != x.tenant)
    adverts := d.coll.adverts.filter (fun v => v.tenant != x.tenant || v.armEp == x.epoch) }

/-- The device with that engine, and with the image's epoch as the tenant's armature epoch. -/
def Dev.installGroups : Dev := { d with coll := d.installColl x }.setFld (R.collEpoch x.tenant) 63 32 x.epoch.toNat

/-- The device as an install leaves it before the engine goes on. -/
def Dev.installed : Dev := (((d.installGroups x).incEpoch x.tenant).armReport x.part St.ok).plogInstall x.tenant

theorem Dev.installNow_eq : d.installNow x = (d.installed x).collKick := rfl

theorem Dev.installGroups_mem : (d.installGroups x).mem = d.mem := Dev.setFld_mem ..

theorem Dev.installGroups_coll : (d.installGroups x).coll = d.installColl x := Dev.setFld_coll ..

theorem Dev.armEpoch_installGroups : (d.installGroups x).armEpoch x.tenant = x.epoch := by
  have h := x.epoch.isLt
  simp only [Dev.armEpoch, Dev.installGroups, Dev.fld_setFld_same _ _ 63 32 _ (by omega) (by omega)]
  rw [Nat.mod_eq_of_lt h, BitVec.ofNat_toNat, BitVec.setWidth_eq]

/-- What follows the new groups and epoch (incidents, ARM_STATUS, MIRRORED) leaves them. -/
theorem Dev.keepsColl_installed : (d.installGroups x).KeepsColl (R.collEpoch x.tenant) (d.installed x) := by
  have ht := x.tenant.isLt
  have hinc : R.collEpoch x.tenant ≠ R.incStatus := by
    unfold R.collEpoch R.incStatus
    omega
  have harm : R.collEpoch x.tenant ≠ R.armStatus x.part := by
    unfold R.collEpoch R.armStatus R.part
    omega
  have hpos (p : PartId) : R.collEpoch x.tenant ≠ R.plogPos p := by
    unfold R.collEpoch R.plogPos R.part
    omega
  exact (((Dev.keepsColl_refl _ _).incEpoch hinc x.tenant).armReport harm St.ok).plogInstall hpos x.tenant

theorem Dev.installed_spec : let D := d.installed x
    D.armEpoch x.tenant = x.epoch ∧ D.mem = d.mem ∧ D.coll.ops = d.coll.ops
      ∧ D.coll.installs = d.coll.installs.filter (fun y => y.tenant != x.tenant)
      ∧ D.coll.groups = Tab.puts (d.coll.groups.filter (fun e => e.2.tenant != x.tenant)) x.groups := by
  obtain ⟨hcoll, hmem, hreg⟩ := d.keepsColl_installed x
  have hepoch : (d.installed x).armEpoch x.tenant = x.epoch := by
    rw [← d.armEpoch_installGroups x]
    simp only [Dev.armEpoch, Dev.fld, hreg]
  refine ⟨hepoch, hmem.trans (d.installGroups_mem x), ?_⟩
  rw [hcoll, Dev.installGroups_coll]
  exact ⟨rfl, rfl, rfl⟩

end

/-- An install that waits takes effect where it stops no operation. -/
theorem exec_armInstallApply_installs {ten : TenantId} {s : State} {x : Install}
    (hfind : s.dev.coll.installs.find? (fun i => i.tenant == ten) = some x) (hstops : s.dev.installStops x = []) :
    exec (.armInstallApply ten) s = .next { s with dev := (s.dev.installed x).collKick } := by
  rw [exec_armInstallApply, execArmInstallApply]
  refine onDev_eq _ s _ ?_
  simp only [hfind, hstops, List.isEmpty_nil, if_true, Dev.installNow_eq]

/-- Settles O18: an accepted write lets the install of its image wait, and one that waits replaces the tenant's groups and epoch. -/
theorem installsReplaceTheArmature : Obligations.InstallsReplaceTheArmature := by
  unfold Obligations.InstallsReplaceTheArmature
  constructor
  case left =>
    intro a p v s ten i hacc hgo hforce hi hten hok
    subst hi
    have hwaits := Dev.armWrite_waits hgo hforce hten hok
    extract_lets D at hwaits
    let x := D.imageInstall p ten (bits v 47 6 * 64)
    refine ⟨{ s with dev := D.installWaits p x }, x, ?_, ?_, ?_, ?_, ?_, rfl, rfl, D.imageInstall_epoch ..,
      D.imageInstall_groups .., Dev.fld_setFld_same _ _ 55 52 1 (by omega) (by omega)⟩
    · rw [exec_armInstallGo, execArmInstallGo, onAgent_eq a _ _ s hacc]
      simp only [WOut.ok, hwaits]
      rfl
    · intro o ho
      simp only [List.mem_cons, List.not_mem_nil, or_false, not_or] at ho
      exact (Dev.reg_installWaits_other ho.2).trans (Dev.reg_setReg_other _ _ _ _ ho.1)
    · simp [D]
    · simp [D]
    · simp [D]
  case right =>
    intro ten s x hfind hstops
    obtain rfl : x.tenant = ten := by simpa using List.find?_some hfind
    obtain ⟨hepoch, hmem, hops, hinst, hgroups⟩ := s.dev.installed_spec x
    refine ⟨s.dev.installed x, exec_armInstallApply_installs hfind hstops, hepoch, hmem, hops, fun i hi => ?_, fun n hn => ?_,
      fun hnodup e he => ?_⟩
    · rw [hinst] at hi
      simpa using (List.mem_filter.mp hi).2
    · rw [hgroups]
      exact Tab.find_puts_other x.groups hn _
    · rw [hgroups]
      exact Tab.find_puts_mem x.groups hnodup he _

end Sys2Proof.Machine
end

section
/-! SUPPORT. Segments: where one that arrives goes, what the operation that takes it does, and what becomes of one that was held (R226, R227,
R251, R256, R403). -/
namespace Sys2Proof.Machine

theorem exec_collSeg (r : Req) (s : State) : exec (.collSeg r) s = execCollSeg r s := rfl
theorem exec_kvBlock (r : Req) (s : State) : exec (.kvBlock r) s = execKvBlock r s := rfl
theorem exec_heldSegmentRelease (n : Nat) (s : State) : exec (.heldSegmentRelease n) s = execHeldSegmentRelease n s := rfl

/-! ## The checks of R226 -/

section
variable {d : Dev} {r : Req} {m : SegIn} {kv : Bool}

theorem Dev.segCheck_noGroup (h : d.groupOf r.tenant m.grp = none) : d.segCheck r m kv = .drop 31 16 := by
  simp only [Dev.segCheck, h]

variable {g : Group} (hgrp : d.groupOf r.tenant m.grp = some g) (hsrc : m.seg.src < g.n) (hip : (g.rank m.seg.src).ip = r.src)
include hgrp hsrc hip

theorem Dev.segCheck_old (hold : (seqLt r.armEp (d.armEpoch r.tenant) || seqLt r.layEp (d.layEpoch r.tenant)) = true) :
    d.segCheck r m kv = .drop 63 48 := by
  simp [Dev.segCheck, hgrp, hip, Nat.not_le.mpr hsrc, hold]

theorem Dev.segCheck_newer (hold : (seqLt r.armEp (d.armEpoch r.tenant) || seqLt r.layEp (d.layEpoch r.tenant)) = false)
    (hne : r.armEp ≠ d.armEpoch r.tenant ∨ r.layEp ≠ d.layEpoch r.tenant) : d.segCheck r m kv = .hold := by
  have hne' : (r.armEp != d.armEpoch r.tenant || r.layEp != d.layEpoch r.tenant) = true := by simpa using hne
  simp [Dev.segCheck, hgrp, hip, Nat.not_le.mpr hsrc, hold, hne']

end

/-! ## A segment that arrives (R226, R227, R403) -/

section
variable {d : Dev} {r : Req} {kv fresh : Bool}

theorem Dev.segArrive_drop {hi lo : Nat} (h : d.segCheck r (decSeg r.payload) kv = .drop hi lo) :
    d.segArrive r kv fresh = d.bump R.collDrops hi lo 1 := by
  simp only [Dev.segArrive, h]

theorem Dev.segArrive_hold (h : d.segCheck r (decSeg r.payload) kv = .hold) :
    d.segArrive r kv true = { d with coll := { d.coll with held := d.coll.held ++ [r] } } := by
  simp only [Dev.segArrive, h, if_true]

theorem Dev.segArrive_take {x : CollOp} {g : Group} (h : d.segCheck r (decSeg r.payload) kv = .take x g) :
    d.segArrive r kv fresh = (d.segTake x g (decSeg r.payload).seg).advertise (some (x.n, g.host (decSeg r.payload).seg.src)) := by
  simp only [Dev.segArrive, h]

end

/-- The instruction that a segment arrives as: COLL_SEG, or KV_BLOCK of a key-value ring. -/
def segInstr (r : Req) (kv : Bool) : Instr := if kv then .kvBlock r else .collSeg r

/-- The opcode of that request. -/
def segOpcode (kv : Bool) : Nat := if kv then 0xA else 9

theorem exec_segInstr (r : Req) (kv : Bool) (s : State) : exec (segInstr r kv) s
    = onDev (fun d => d.takeReq r (segOpcode kv) (fun d => if d.segNoSlot r kv then d else d.segArrive r kv true)) s := by
  cases kv with
  | false => exact exec_collSeg r s
  | true => exact exec_kvBlock r s

section
variable {r : Req} {kv : Bool} {s : State}

theorem exec_segInstr_fenced (hm : r.mgmt = false) (hf : s.dev.fenced r.part = true) :
    exec (segInstr r kv) s = .next { s with dev := s.dev.nack r (segOpcode kv) St.partitionReset 0 } := by
  rw [exec_segInstr]
  refine onDev_eq _ s _ ?_
  simp [Dev.takeReq, hm, hf]

theorem exec_segInstr_noSlot (hf : s.dev.fenced r.part = false) (hslot : s.dev.segNoSlot r kv = true) : exec (segInstr r kv) s = .next s := by
  rw [exec_segInstr]
  refine onDev_eq _ s s.dev ?_
  simp [Dev.takeReq, hf, hslot]

theorem exec_segInstr_arrives (hf : s.dev.fenced r.part = false) (hslot : s.dev.segNoSlot r kv = false) :
    exec (segInstr r kv) s = .next { s with dev := s.dev.segArrive r kv true } := by
  rw [exec_segInstr]
  refine onDev_eq _ s _ ?_
  simp [Dev.takeReq, hf, hslot]

/-- A dropped segment needs no slot. -/
theorem Dev.segNoSlot_drop {d : Dev} {hi lo : Nat} (h : d.segCheck r (decSeg r.payload) kv = .drop hi lo) : d.segNoSlot r kv = false := by
  simp [Dev.segNoSlot, h]

/-- A dropped segment is counted in COLL_DROPS, and nothing else changes. -/
theorem exec_segInstr_drop {hi lo : Nat} (hf : s.dev.fenced r.part = false) (h : s.dev.segCheck r (decSeg r.payload) kv = .drop hi lo)
    (hlo : lo ≤ hi) (hhi : hi < 64) : ∃ t, exec (segInstr r kv) s = .next t
      ∧ setsFields R.collDrops [(hi, lo, satAdd (hi + 1 - lo) (s.dev.fld R.collDrops hi lo) 1)] s t := by
  refine ⟨_, exec_segInstr_arrives hf (Dev.segNoSlot_drop h), ?_⟩
  rw [Dev.segArrive_drop h]
  refine setsFields_setFlds R.collDrops _ s ?_ ?_
  · simp [fldsOk, hlo, hhi]
  · have hpos := Nat.two_pow_pos (hi + 1 - lo)
    simp only [List.mem_singleton, forall_eq, satAdd]
    omega

theorem exec_segInstr_hold (hf : s.dev.fenced r.part = false) (hslot : s.dev.segNoSlot r kv = false)
    (h : s.dev.segCheck r (decSeg r.payload) kv = .hold) : exec (segInstr r kv) s
      = .next { s with dev := { s.dev with coll := { s.dev.coll with held := s.dev.coll.held ++ [r] } } } := by
  rw [exec_segInstr_arrives hf hslot, Dev.segArrive_hold h]

theorem exec_segInstr_take {x : CollOp} {g : Group} (hf : s.dev.fenced r.part = false) (hslot : s.dev.segNoSlot r kv = false)
    (h : s.dev.segCheck r (decSeg r.payload) kv = .take x g) : exec (segInstr r kv) s
      = .next { s with dev := (s.dev.segTake x g (decSeg r.payload).seg).advertise (some (x.n, g.host (decSeg r.payload).seg.src)) } := by
  rw [exec_segInstr_arrives hf hslot, Dev.segArrive_take h]

end

/-! ## A broadcast segment on direct paths (R221, log entry 36) -/

section
variable {g : Group} {m : OutSeg}

/-- A segment that reaches a rank which is not the root is written into D at its offset, and goes nowhere else. -/
theorem recvSeg_broadcast {s : CSt} (hop : s.2.op = 4) (hcast : m.cast = false) (htopo : g.topo = 3)
    (hroot : g.pos m.dest ≠ g.pos (s.2.param.toNat % 2 ^ 16)) : recvSeg g s m = (writeD g s m.off m.elems m.data, false) := by
  simp [recvSeg, recvCast, hop, hcast, htopo, hroot, -Nat.reducePow]

/-- A broadcast writes a payload that D does not have yet at its offset. -/
theorem writeD_broadcast {s : CSt} {o n : Nat} {l : List Byte} (hop : s.2.op = 4) (hfresh : o ∉ s.2.wroteD) :
    writeD g s o n l = (s.1.writePayload s.2.d o n l, { s.2 with wroteD := s.2.wroteD ++ [o] }) := by
  simp [writeD, hop, hfresh, CollOp.mapped]

theorem CollOp.mem_note_got (x : CollOp) (g : Group) (m : OutSeg) : (m.src, m.off, segFlags m) ∈ (x.note g m).got := by
  simp [CollOp.note]

theorem Dev.segTake_broadcast {d : Dev} {x : CollOp} (hop : x.op = 4) (hcast : m.cast = false) (htopo : g.topo = 3)
    (hroot : g.pos m.dest ≠ g.pos (x.param.toNat % 2 ^ 16)) (hfresh : m.off ∉ x.wroteD) : d.segTake x g m
      = (d.writePayload x.d m.off m.elems m.data).collStore g { x.note g m with wroteD := x.wroteD ++ [m.off] } := by
  have hop' : (x.note g m).op = 4 := hop
  have hrecv := (recvSeg_broadcast (s := (d, x.note g m)) hop' hcast htopo hroot).trans
    (congrArg (·, false) (writeD_broadcast hop' hfresh))
  unfold Dev.segTake
  dsimp only
  rw [if_neg (by simp [hop']), hrecv]
  rfl

end

/-! ## A segment of a key-value ring (R251, R255 to R257) -/

/-- The device, the bytes landed of each rotation and the segments noted are as they were; what is queued for the successor may differ. -/
structure CSt.Queues (s t : CSt) : Prop where
  dev : t.1 = s.1
  landed : t.2.landed = s.2.landed
  got : t.2.got = s.2.got

theorem CSt.queues_kvPlaces {α : Type} (g : Group) (r : Nat) (o n : α → Nat) (l : List α) : ∀ s : CSt,
    s.Queues (l.foldl (fun s e => kvPlace g s r (o e) (n e)) s) := by
  induction l with
  | nil => exact fun _ => ⟨rfl, rfl, rfl⟩
  | cons e t ih =>
    intro s
    obtain ⟨hdev, hlanded, hgot⟩ := ih (kvPlace g s r (o e) (n e))
    exact ⟨hdev, hlanded, hgot⟩

/-- What of a rotation waits to be passed on is queued for the successor (R251). -/
def kvForward (g : Group) (b r : Nat) (s : CSt) : CSt :=
  (s.2.rx.filter (fun e => e.1 == r)).foldl (fun s e => kvPlace g s r e.2.1 (min 8448 (b - e.2.1)))
    (s.1, { s.2 with rx := s.2.rx.filter (fun e => e.1 != r) })

theorem CSt.queues_kvForward (g : Group) (b r : Nat) (s : CSt) : s.Queues (kvForward g b r s) := by
  obtain ⟨hdev, hlanded, hgot⟩ := CSt.queues_kvPlaces g r (fun e => e.2.1) (fun e => min 8448 (b - e.2.1))
    (s.2.rx.filter (fun e => e.1 == r)) (s.1, { s.2 with rx := s.2.rx.filter (fun e => e.1 != r) })
  exact ⟨hdev, hlanded, hgot⟩

/-- Once a rotation has landed, the operation's counter goes on by 1 (R257). -/
def CollOp.kvCounted (x : CollOp) (b r : Nat) (t : CSt) : CSt := if b ≤ t.2.rotLanded r then (t.1.addCtr x.part x.ctr.toNat 1, t.2) else t

/-- The operation that has noted where a segment of rotation `r` landed, from its byte `o`. -/
def CollOp.kvNoted (x : CollOp) (g : Group) (r o n : Nat) : CollOp :=
  { x with
    rx := if x.ring.mode = 0 && r < x.rotOut g then x.rx ++ [(r, o, [])] else x.rx
    landed := Tab.put x.landed r (x.rotLanded r + n) }

section
variable {g : Group} {d : Dev} {x : CollOp} {m : OutSeg} {b : Nat}

/-- A segment behind the first of its rotation lands where the rotation lies, and is passed on where the first has landed. -/
theorem kvLand_behind (hb : b = Nat.max 1 x.ring.bytes) (ho : m.off % b ≠ 0) :
    let r := m.off / b
    let s : CSt := (d.wr (x.rotAt r + m.off % b) (sliceB m.data 0 m.elems), x.kvNoted g r (m.off % b) m.elems)
    kvLand g (d, x) m = (x.kvCounted b r (if x.rxDone.contains (r, 0) then kvForward g b r s else s), false) := by
  subst hb
  unfold kvLand
  extract_lets r s y b r' o z head land first w ready u
  have ho' : o ≠ 0 := ho
  have hhdr : ¬(decide (o = 0) && !head.kvHdrOk g z r') = true := by simp [ho']
  have hfirst : first = x.rxDone.contains (r, 0) := by
    have : (o == 0) = false := beq_false_of_ne ho'
    simp only [first, this, Bool.false_or]
    rfl
  have hw : w = z := if_neg ho'
  have hu : u = if x.rxDone.contains (r, 0) then kvForward g b r s else s := by
    simp only [u, ready, hfirst, hw]
    rfl
  rw [if_neg hhdr, hu, hw]
  rfl

/-- The bytes lie in memory and are counted; the last of a rotation add 1 to the operation's counter, others change no register. -/
theorem kvLand_behind_spec (hb : b = Nat.max 1 x.ring.bytes) (ho : m.off % b ≠ 0) :
    let r := m.off / b
    ∃ t : CSt, kvLand g (d, x) m = (t, false) ∧ t.1.mem = (d.wr (x.rotAt r + m.off % b) (sliceB m.data 0 m.elems)).mem
      ∧ t.2.rotLanded r = x.rotLanded r + m.elems ∧ t.2.got = x.got
      ∧ (b ≤ x.rotLanded r + m.elems → t.1.ctr x.part x.ctr.toNat = d.ctr x.part x.ctr.toNat + 1)
      ∧ (x.rotLanded r + m.elems < b → t.1.regs = d.regs) := by
  have hland := kvLand_behind (g := g) (d := d) hb ho
  extract_lets r s at hland
  have hq : s.Queues (if x.rxDone.contains (r, 0) then kvForward g b r s else s) := by
    split
    · exact CSt.queues_kvForward g b r s
    · exact ⟨rfl, rfl, rfl⟩
  generalize (if x.rxDone.contains (r, 0) then kvForward g b r s else s) = u at hland hq
  obtain ⟨hdev, hlanded, hgot⟩ := hq
  have hrot : u.2.rotLanded r = x.rotLanded r + m.elems := by
    simp only [CollOp.rotLanded, hlanded, s, CollOp.kvNoted, Tab.find_put_same, Option.getD_some]
  refine ⟨_, hland, ?_⟩
  unfold CollOp.kvCounted
  rw [hrot]
  split
  · next h =>
    refine ⟨?_, hrot, hgot, fun _ => ?_, fun hlt => absurd h (Nat.not_le.mpr hlt)⟩
    · rw [Dev.addCtr_mem, hdev]
    · rw [Dev.addCtr, Dev.ctr_setCtr_same, hdev]
      rfl
  · next h => exact ⟨by rw [hdev], hrot, hgot, fun hle => absurd hle h, fun _ => by rw [hdev, Dev.wr_regs]⟩

end

/-- Where the header check does not fail, the operation is stored as the segment left it. -/
theorem Dev.segTake_ring {d : Dev} {x : CollOp} {g : Group} {m : OutSeg} {t : CSt} (hop : x.op = 6)
    (hland : kvLand g (d, x.note g m) m = (t, false)) : d.segTake x g m = t.1.collStore g t.2 := by
  have hop' : (x.note g m).op = 6 := hop
  unfold Dev.segTake
  dsimp only
  rw [if_pos hop', hland]
  rfl

/-! ## A held segment (R226, R227) -/

/-- The operation in progress that a segment is of. -/
def Dev.segOwner (d : Dev) (r : Req) : Option CollOp := d.coll.ops.find? (fun x => x.running && x.tenant == r.tenant
  && x.grp == (decSeg r.payload).grp && x.num == (decSeg r.payload).num)

theorem Dev.running_of_segOwner {d : Dev} {r : Req} {x : CollOp} (h : d.segOwner r = some x) : x.running = true := by
  have hx := List.find?_some h
  simp only [Bool.and_eq_true] at hx
  obtain ⟨⟨⟨hrunning, _⟩, _⟩, _⟩ := hx
  exact hrunning

/-- The device without one of its held segments. -/
def Dev.withoutHeld (d : Dev) (n : Nat) : Dev := { d with coll := { d.coll with held := d.coll.held.eraseIdx n } }

/-- The checks do not look at the segments that are held. -/
theorem Dev.segCheck_withoutHeld (d : Dev) (n : Nat) (r : Req) (m : SegIn) (kv : Bool) :
    (d.withoutHeld n).segCheck r m kv = d.segCheck r m kv := rfl

section
variable {s : State} {n : Nat} {r : Req} {kv : Bool} (hr : s.dev.coll.held[n]? = some r) (hkv : kv = heldKv r)
include hr hkv

theorem exec_heldSegmentRelease_hold (h : s.dev.segCheck r (decSeg r.payload) kv = .hold) : exec (.heldSegmentRelease n) s = .next s := by
  subst hkv
  rw [exec_heldSegmentRelease, execHeldSegmentRelease]
  refine onDev_eq _ s s.dev ?_
  simp only [hr, h]

/-- One that need not wait goes on as if it arrived, and frees its slot for the windows of its operation. -/
theorem exec_heldSegmentRelease_goes {D : Dev} (hD : (s.dev.withoutHeld n).segArrive r kv false = D)
    (h : s.dev.segCheck r (decSeg r.payload) kv ≠ .hold) :
    exec (.heldSegmentRelease n) s = .next { s with dev := (D.segOwner r).elim D D.grant } := by
  subst hkv hD
  rw [exec_heldSegmentRelease, execHeldSegmentRelease]
  refine onDev_eq _ s _ ?_
  simp only [hr]
  split
  · next x hx =>
    have howner : ((s.dev.withoutHeld n).segArrive r (heldKv r) false).segOwner r = some x := hx
    rw [howner]
    rfl
  · next hx =>
    have howner : ((s.dev.withoutHeld n).segArrive r (heldKv r) false).segOwner r = none := hx
    rw [howner]
    rfl

theorem exec_heldSegmentRelease_take {x : CollOp} {g : Group} {D : Dev} (h : s.dev.segCheck r (decSeg r.payload) kv = .take x g)
    (hD : D = ((s.dev.withoutHeld n).segTake x g (decSeg r.payload).seg).advertise (some (x.n, g.host (decSeg r.payload).seg.src))) :
    ∃ t, exec (.heldSegmentRelease n) s = .next t ∧ (t.dev = D ∨ ∃ y, y.running = true ∧ t.dev = D.grant y) := by
  have harr := (Dev.segArrive_take (fresh := false) ((s.dev.segCheck_withoutHeld n ..).trans h)).trans hD.symm
  refine ⟨_, exec_heldSegmentRelease_goes hr hkv harr (by simp [h]), ?_⟩
  cases howner : D.segOwner r with
  | none => exact .inl rfl
  | some y => exact .inr ⟨y, Dev.running_of_segOwner howner, rfl⟩

theorem exec_heldSegmentRelease_drop {hi lo : Nat} (h : s.dev.segCheck r (decSeg r.payload) kv = .drop hi lo)
    (hnone : s.dev.segOwner r = none) :
    exec (.heldSegmentRelease n) s = .next { s with dev := (s.dev.withoutHeld n).bump R.collDrops hi lo 1 } := by
  have howner : ((s.dev.withoutHeld n).bump R.collDrops hi lo 1).segOwner r = none := by
    rw [← hnone, Dev.segOwner, Dev.bump_coll]
    rfl
  have harr := Dev.segArrive_drop (fresh := false) ((s.dev.segCheck_withoutHeld n ..).trans h)
  rw [exec_heldSegmentRelease_goes hr hkv harr (by simp [h]), howner, Option.elim_none]

end

/-- Settles O32: each clause is one of the cases above. -/
theorem segmentsReachTheirOperation : Obligations.SegmentsReachTheirOperation := by
  unfold Obligations.SegmentsReachTheirOperation
  rintro r s m old rfl rfl dropped
  refine ⟨?fenced, ?arrives, ?broadcast, ?ring, ?held⟩
  case fenced => exact fun hm hf => ⟨exec_segInstr_fenced (kv := false) hm hf, exec_segInstr_fenced (kv := true) hm hf⟩
  case arrives =>
    intro i kv hi hf
    obtain rfl : i = segInstr r kv := by
      obtain ⟨rfl, rfl⟩ | ⟨rfl, rfl⟩ := hi <;> rfl
    refine ⟨exec_segInstr_noSlot hf, fun hgrp => ?_, fun g hgrp hsrc hip => ⟨?_, ?_⟩⟩
    · exact exec_segInstr_drop hf (Dev.segCheck_noGroup hgrp) (by omega) (by omega)
    · exact fun hold => exec_segInstr_drop hf (Dev.segCheck_old hgrp hsrc hip hold) (by omega) (by omega)
    · exact fun hold hne hslot => ⟨_, exec_segInstr_hold hf hslot (Dev.segCheck_newer hgrp hsrc hip hold hne), rfl⟩
  case broadcast =>
    intro x g hf htake hop hcast htopo hroot hfresh hslot
    have hexec := exec_segInstr_take hf hslot htake
    rw [Dev.segTake_broadcast hop hcast htopo hroot (by simpa using hfresh)] at hexec
    exact ⟨_, _, hexec, rfl, rfl, CollOp.mem_note_got x g _, rfl, rfl⟩
  case ring =>
    intro x g b rot o hf htake hop hb hpos hrot ho ho0 hslot
    subst hrot ho
    have hmax : b = Nat.max 1 (x.note g (decSeg r.payload).seg).ring.bytes := hb.trans (Nat.max_eq_right (hb ▸ hpos)).symm
    obtain ⟨t, hland, hmem, hlanded, hgot, hctr, hregs⟩ := kvLand_behind_spec (g := g) (d := s.dev) hmax (Nat.ne_of_gt ho0)
    have hexec := exec_segInstr_take hf hslot htake
    rw [Dev.segTake_ring hop hland] at hexec
    exact ⟨t.1, t.2, hexec, hmem, hlanded, hctr, hregs, hgot ▸ CollOp.mem_note_got x g _⟩
  case held =>
    intro n kv E hr hkv hE
    subst hE
    refine ⟨exec_heldSegmentRelease_hold hr hkv, fun x g htake => ?_, fun hi lo hdrop hnone => ?_⟩
    · obtain ⟨t, hexec, hdev⟩ := exec_heldSegmentRelease_take hr hkv htake rfl
      exact ⟨t, _, hexec, rfl, hdev⟩
    · exact ⟨_, exec_heldSegmentRelease_drop hr hkv hdrop hnone, rfl⟩

end Sys2Proof.Machine
end

section
/-! SUPPORT. The pointing log where nothing is mirrored: a HEAD write that is taken leaves no record owed (R264, R265, R291). -/
namespace Sys2Proof.Machine

theorem exec_plogHeadWrite (a : Agent) (p : PartId) (v : W64) (s : State) : exec (.plogHeadWrite a p v) s = execPlogHeadWrite a p v s := rfl

/-- A HEAD write of an agent that reaches PLOG_POS does what its rule says to the device. -/
theorem dev_of_plogHeadWrite {a : Agent} {p : PartId} {v : W64} {s t : State} (h : s.dev.accepts a (R.plogPos p))
    (hexec : exec (.plogHeadWrite a p v) s = .next t) : t.dev = s.dev.plogHeadWrite p v := by
  rw [exec_plogHeadWrite, execPlogHeadWrite, onAgent_eq _ _ _ _ h] at hexec
  obtain rfl := Host.Outcome.next.inj hexec
  rfl

section
variable {d : Dev} {p : PartId}

/-- R265: where EN is 0 no buddy receives the mirror. -/
theorem Dev.plogBuddy_disabled (hen : bit (d.reg (R.plogCtrl p)) 63 = false) : d.plogBuddy p = none := by
  rw [Dev.plogBuddy, hen]
  rfl

/-- Without a buddy MIRRORED follows HEAD, and no record is owed any more. -/
theorem Dev.plogSend_noBuddy (h : d.plogBuddy p = none) (n cnt : Nat) : d.plogSend p n cnt = (d.plogFollow p).logOwe p false := by
  rw [Dev.plogSend, h]

/-- Stamping a record writes memory alone. -/
theorem Dev.reg_plogStamp (d : Dev) (p : PartId) (n o : Nat) : (d.plogStamp p n).reg o = d.reg o := by
  unfold Dev.plogStamp
  split <;> rfl

theorem Dev.reg_each_plogStamp (p : PartId) (f : Nat → Nat) (o : Nat) (l : List Nat) :
    ∀ d : Dev, (d.each l (fun d k => d.plogStamp p (f k))).reg o = d.reg o := by
  induction l with
  | nil => exact fun _ => rfl
  | cons k t ih => exact fun d => (ih (d.plogStamp p (f k))).trans (d.reg_plogStamp p (f k) o)

/-- A HEAD write within the ring, with EN 0, leaves no record owed: none is ever to be sent. -/
theorem Dev.plogHeadWrite_owes_none {v : W64} (hen : bit (d.reg (R.plogCtrl p)) 63 = false)
    (hn : (bits v 63 32 + 2 ^ 32 - d.fld (R.plogPos p) 63 32) % 2 ^ 32 ≤ 4096)
    (hfit : (bits v 63 32 + 2 ^ 32 - d.fld (R.plogCtrl p) 31 0) % 2 ^ 32 ≤ ringLen (d.plogRing p false).1) :
    ((d.plogHeadWrite p v).part p).logOwes = false := by
  have hne : R.plogCtrl p ≠ R.plogPos p := by unfold R.plogCtrl R.plogPos R.part; omega
  rw [Dev.plogHeadWrite, if_neg (by omega), Dev.plogSend_noBuddy (Dev.plogBuddy_disabled ?en), Dev.logOwe, Dev.part_modPart_same]
  case en => rw [Dev.reg_setFld_other _ _ _ _ _ _ hne, Dev.reg_each_plogStamp, hen]

end

/-! ## A record that is still owed -/

/-- A command that sets fields of a register, with memory as it may be, leaves what the partitions hold. -/
theorem part_of_setsFields_withMem {o : Nat} {l : List (Nat × Nat × Nat)} {s t : State} (h : setsFields o l (withMem s t) t) (p : PartId) :
    t.dev.part p = s.dev.part p := by
  obtain ⟨⟨honly, -⟩, -⟩ := h
  exact (congrArg (fun u : State => u.dev.part p) honly).trans rfl

/-- A running module out of reset whose partition 0 still owes its mirror records, with EN 0. A write of PLOG_CTRL that clears EN while records
wait for a flow context leaves a partition so: `Dev.plogCtrlWrite` then lets MIRRORED follow HEAD and keeps the note of what is owed. -/
def owingUnmirrored : State :=
  State.reset.onDev (fun d => ({ d with boot := { d.boot with ph := .up } }).logOwe 0 true)

/-- Refutes O19: the statement has a HEAD write without a buddy change the register and memory alone, but it also withdraws the note that
records are owed. The owner writes PLOG_POS of `owingUnmirrored` with the HEAD 0 that it holds. -/
theorem not_logRestoreAndMaquetteRegisters : ¬ Obligations.LogRestoreAndMaquetteRegisters := by
  intro h
  have hacc : owingUnmirrored.dev.accepts .owner (R.plogPos 0) := ⟨by decide +kernel, by decide +kernel⟩
  have hen : bit (owingUnmirrored.dev.reg (R.plogCtrl 0)) 63 = false := by decide +kernel
  have hn : (bits (0 : W64) 63 32 + 2 ^ 32 - owingUnmirrored.dev.fld (R.plogPos 0) 63 32) % 2 ^ 32 ≤ 4096 := by decide +kernel
  have hfit : (bits (0 : W64) 63 32 + 2 ^ 32 - owingUnmirrored.dev.fld (R.plogCtrl 0) 31 0) % 2 ^ 32
      ≤ ringLen (owingUnmirrored.dev.plogRing 0 false).1 := by decide +kernel
  have howes : (owingUnmirrored.dev.part 0).logOwes = true := by decide +kernel
  obtain ⟨-, hhead, -⟩ := h .owner 0 0 owingUnmirrored
  obtain ⟨t, hexec, hset, -⟩ := (hhead _ hacc rfl).2 hn hfit (Dev.plogBuddy_disabled hen)
  have hkept : (t.dev.part 0).logOwes = true := part_of_setsFields_withMem hset 0 ▸ howes
  have hnone : (t.dev.part 0).logOwes = false := dev_of_plogHeadWrite hacc hexec ▸ Dev.plogHeadWrite_owes_none hen hn hfit
  exact Bool.noConfusion (hkept.symm.trans hnone)

end Sys2Proof.Machine
end
